-- ==== Sys2Proof/Word.lean ====
section
/-!
DEFINITION. The machine's words and their plainest arithmetic: the widths the manual uses (R8, R9, R267).
-/

namespace Sys2Proof

/-- A 64-bit register or instruction word (R12, R267). -/
abbrev Word := BitVec 64

/-- A 32-bit vector register (R267). -/
abbrev Word32 := BitVec 32

/-- A byte. -/
abbrev Byte := BitVec 8

/-- A program counter: a 56-bit virtual address (R125). -/
abbrev Pc := BitVec 56

/-- Bits [lo+len-1 : lo] of a natural number, as a natural number (R9). -/
def bits (n lo len : Nat) : Nat := (n >>> lo) % 2 ^ len

/-- Bit k of a natural number (R9). -/
def bit (n k : Nat) : Bool := bits n k 1 == 1

/-- A natural number read as a signed w-bit value (two's complement). -/
def signed (w n : Nat) : Int :=
  if n % 2 ^ w < 2 ^ (w - 1) then ((n % 2 ^ w : Nat) : Int) else ((n % 2 ^ w : Nat) : Int) - ((2 ^ w : Nat) : Int)

/-- An integer reduced mod 2^w (R11). -/
def wrap (w : Nat) (z : Int) : Nat := (z % ((2 ^ w : Nat) : Int)).toNat

/-- n with bits [lo+len-1 : lo] replaced by the low len bits of v. -/
def setBits (n lo len v : Nat) : Nat :=
  (n >>> (lo + len)) <<< (lo + len) + ((v % 2 ^ len) <<< lo) + n % 2 ^ lo

end Sys2Proof
end

