-- ==== Sys2Proof/Syntax.lean ====
section
/-!
DEFINITION. The instructions (R266 to R280) and the steps of the device and its hosts (opcode_table.json): one constructor
of Instr per row of the table. Register numbers, types and operations are pulled out of the word here, once; Decode.lean
reads them from the bits.
-/

namespace Sys2Proof

/-! Operand forms (R266 to R273) -/

/-- The guard of a word (R266): bit 55 negates, bits [54:52] name a predicate. -/
structure Guard where
  neg  : Bool
  pred : BitVec 3
deriving DecidableEq, Repr

/-- A source field read by its kind bit (R268): a vector, a scalar or a small immediate. -/
inductive Src where
  | v   (n : BitVec 8)
  | s   (n : BitVec 6)
  | imm (k : BitVec 7)
deriving DecidableEq, Repr

/-- A destination, or a source that takes no small immediate (R268, R269, R300). -/
inductive Reg where
  | v (n : BitVec 8)
  | s (n : BitVec 6)
deriving DecidableEq, Repr

/-- A scalar source whose class the entry fixes (R268, R399): a scalar or a small immediate. -/
inductive SSrc where
  | s   (n : BitVec 6)
  | imm (k : BitVec 7)
deriving DecidableEq, Repr

/-- The integer types of two-source arithmetic (R270, R311). -/
inductive IntTy where
  | i32 | i64 | n32 | n64
deriving DecidableEq, Repr

/-- The bit types (R270, R314). -/
inductive BitTy where
  | b32 | b64
deriving DecidableEq, Repr

/-- The vector floating-point types (R270, R327). -/
inductive FTy where
  | f16 | bf16 | f32 | f64
deriving DecidableEq, Repr

/-- Every type code of R270. -/
inductive Ty where
  | i8 | i16 | i32 | i64 | n8 | n16 | n32 | n64
  | f16 | bf16 | f32 | f64 | e4m3 | e5m2 | e3m2 | e2m3 | e2m1 | sc20 | i4 | n4 | b128 | b32 | b64
deriving DecidableEq, Repr

/-- Rounding modes 0 to 3 (R238). -/
inductive Rnd where
  | rne | rz | rdn | rup
deriving DecidableEq, Repr

/-- The rounding of a conversion: a mode, or stochastic with its key and counter operands (R238, R335). -/
inductive CvtRnd where
  | mode (r : Rnd)
  | rsto (key ctr : Src)
deriving DecidableEq, Repr

/-- The rounding of a block conversion: a mode, or stochastic with the scalar that holds key and counter (R338). -/
inductive BlkRnd where
  | mode (r : Rnd)
  | rsto (c : SSrc)
deriving DecidableEq, Repr

/-- Synchronisation scopes (R172). -/
inductive Scope where
  | group | tray | patch | launch | device | system
deriving DecidableEq, Repr

/-- Address spaces (R273). -/
inductive Space where
  | lp | sp | pm | sh | g
deriving DecidableEq, Repr

/-- The destinations of movi (R309). -/
inductive MoviTy where
  | b32 | i64 | n64
deriving DecidableEq, Repr

/-- Integer conditions of setp (R316). -/
inductive Cond where
  | eq | ne | lt | le | gt | ge
deriving DecidableEq, Repr

/-- Conditions of setpi (R317). -/
inductive CondI where
  | eq | ne | lt | le | gt | ge | ltu | geu
deriving DecidableEq, Repr

/-- Floating-point conditions (R331). -/
inductive CondF where
  | eq | ne | lt | le | gt | ge | un | ord
deriving DecidableEq, Repr

/-- The combination of setp and fsetp (R316): none, and with p[C], or with p[C]. -/
inductive Comb where
  | none
  | and (c : BitVec 3)
  | or  (c : BitVec 3)
deriving DecidableEq, Repr

/-- The operations of pset (R318). -/
inductive PsetOp where
  | and | or | xor | andn | not
deriving DecidableEq, Repr

/-- The block element types of cvtsc and cvtblk (R337). -/
inductive BlkElem where
  | e4m3 | e5m2 | e3m2 | e2m3 | e2m1 | i8 | i4 | n4 | mxi8 | mxi4 | mxn4
deriving DecidableEq, Repr

/-- The source types of cvtsc and cvtblk (R337). -/
inductive BlkSrc where
  | f16 | bf16 | f32
deriving DecidableEq, Repr

/-- The element types of pack and unpack (R339). -/
inductive PackTy where
  | i8 | n8 | e4m3 | e5m2 | e3m2 | e2m3 | e2m1 | i4 | n4
deriving DecidableEq, Repr

/-- The modes of shfl (R342). -/
inductive ShflMode where
  | id | vl | up | down | xor
deriving DecidableEq, Repr

/-- The forms of vote (R343). -/
inductive VoteOp where
  | all | any | uni
deriving DecidableEq, Repr

/-- The operations of reduce and scan (R344). -/
inductive RedOp where
  | add | min | max | and | or | xor
deriving DecidableEq, Repr

/-- The types of reduce and scan (R344). -/
inductive RedTy where
  | i32 | i64 | n32 | n64 | f32 | f64
deriving DecidableEq, Repr

/-- The operations of atom and red (R358). -/
inductive AtomOp where
  | add | min | max | and | or | xor | exch | addsat
deriving DecidableEq, Repr

/-- The types of atomics and of ldacq and strel (R355, R358). -/
inductive AtomTy where
  | i32 | i64 | n32 | n64 | f32 | f64 | b32 | b64
deriving DecidableEq, Repr

/-- The order of cas (R361). -/
inductive CasOrd where
  | none
  | acq (s : Scope)
  | rel (s : Scope)
  | acqrel (s : Scope)
deriving DecidableEq, Repr

/-- The kinds of fence (R362). -/
inductive FenceKind where
  | acq | rel | full
deriving DecidableEq, Repr

/-- The address operands of format M (R273, R350): A + B + OFF × w. -/
structure MemOpd where
  a   : Src
  b   : Src
  off : BitVec 10
deriving DecidableEq, Repr

/-- The matrix operand formats (R229). -/
inductive Fmt where
  | f64 | f32 | f16 | bf16 | e4m3 | e5m2 | mx8a | mx8b | mx4 | pg8 | i8 | n8 | mxi8
  | e3m2 | e2m3 | e2m1 | mx6a | mx6b | pg6 | pg4 | i4 | n4 | mxi4 | mxn4
deriving DecidableEq, Repr

/-- The flags of a format-E instruction (R276, R389). -/
structure EFlags where
  scope : Scope
  acq   : Bool
  rel   : Bool
  irq   : Bool
deriving DecidableEq, Repr

/-- The special registers of rdspec (R402), with the destination each takes. -/
inductive RdSpec where
  | pcv     (d : BitVec 8)
  | lanemap (d : BitVec 8)
  | gang    (d : BitVec 6)
  | fstat   (d : BitVec 6)
deriving DecidableEq, Repr

/-- The special registers of wrspec (R402). -/
inductive WrSpec where
  | gang | fstat
deriving DecidableEq, Repr

/-- The operations of bpctl (R409). -/
inductive BpOp where
  | wbp  (n : BitVec 4) (a : SSrc)
  | rbp  (d : BitVec 6) (n : BitVec 4)
  | wwp0 (n : BitVec 3) (a : SSrc)
  | wwp1 (n : BitVec 3) (a : SSrc)
  | rwp0 (d : BitVec 6) (n : BitVec 3)
  | rwp1 (d : BitVec 6) (n : BitVec 3)
deriving DecidableEq, Repr

/-- The queries of ident (R410), with the destination each takes. -/
inductive IdentQ where
  | dxy     (d : BitVec 6)
  | tray    (d : BitVec 6)
  | patch   (d : BitVec 6)
  | group   (d : BitVec 6)
  | vlane   (d : BitVec 8)
  | lane    (d : BitVec 8)
  | stage   (d : BitVec 6)
  | handler (d : BitVec 6)
deriving DecidableEq, Repr

/-- The fields of a block header (R278, R130). -/
structure Header where
  count  : BitVec 8
  live   : BitVec 8
  reconv : BitVec 20
  hint   : BitVec 12
  flags  : BitVec 8
deriving DecidableEq, Repr

/-! Agents and the parts of the steps that are not instructions -/

/-- An agent of the order machine (R171): a group, a handler group, an engine command, a host port. -/
inductive Agent where
  | group   (launch tray group : Nat)
  | handler (launch gathering : Nat)
  | engine  (ctx chain seq : Nat)
  | port    (p : Nat)
deriving DecidableEq, Repr

/-- A host port (R47). -/
abbrev Port := Fin 2

/-- What a package says of one of its commands that is a member of a collective (R396): it has started, with its COUNT, TYPE, OP and P; the elements of its SRC; or that it ended without the collective. -/
inductive CollMsg where
  | joins (shape : Nat)
  | brings (value : Nat)
  | leaves
deriving DecidableEq, Repr

/-- What a message between packages says, as far as the rules give it a meaning (R22, R23, R212): a read or its data, by the package that asks and a number, which are its identity (log entry 81: DESIGN CHOICE); an atomic on n bytes, with the agent and lane that issued it, its PC and address, and
whether it returns a value; lines that a directory update or an acknowledgement concerns; a retry request from a sequence number; the messages of IEEE 1588; a member package's part of the nth barrier of a patch has arrived, or has exited for good (R366); the cross-trigger of a halt and of a resume (R219, R220); and what is said of a member of a collective: package, number, context, COLLID, rank and start (R396, log entry 96: DESIGN CHOICE). -/
inductive LinkMsg where
  | coll (pkg id ctx coll rank since : Nat) (what : CollMsg)
  | read (pkg id : Nat)
  | data (pkg id : Nat)
  | atomic (addr : BitVec 52) (n : Nat) (a : Agent) (vlane : Nat) (ident : BitVec 16) (pc : BitVec 56) (va : BitVec 64) (ret : Bool)
  | directory (lines : List Nat)
  | acknowledge (lines : List Nat)
  | retry (seq : BitVec 12)
  | sync
  | followUp (time : BitVec 64)
  | delayReq
  | delayResp (time : BitVec 64)
  | barrier (pkg ctx chain seq patch n : Nat) (gone : Bool)
  | halt (pkg id ctx cause num : Nat)
  | resume (pkg id ctx : Nat)
deriving DecidableEq, Repr

/-- A flit (R21): the header's fields, the payload, and the messages that the payload holds, whose layout in it is not stated (log entry 81: DESIGN CHOICE). -/
structure Flit where
  cls     : BitVec 4
  vc      : BitVec 4
  seq     : BitVec 12
  ack     : BitVec 12
  rsv     : BitVec 32
  payload : List (BitVec 8)
  msgs    : List LinkMsg
deriving DecidableEq, Repr

/-- What arrives on a link for one flit (R21): whether the forward error correction held, the 256 bytes, and the messages of the payload, whose layout in it is not stated (log entry 81: DESIGN CHOICE). -/
structure Wire where
  fec   : Bool
  bytes : List (BitVec 8)
  msgs  : List LinkMsg
deriving DecidableEq, Repr

/-- What a go message names (R67, R100): the launch's sequence number, and the releases from which its trays acquire, by agent and number. -/
structure GoMsg where
  seq  : BitVec 64
  rels : List (Agent × Nat)
deriving DecidableEq, Repr

/-- A member's exit report (R102, R104): its package, and the STATUS its part ended with, 0 where it ran to its end. -/
structure Report where
  pkg    : BitVec 6
  status : BitVec 32
deriving DecidableEq, Repr

/-- What the device finds at a start step from outside itself (R81, R69): whether the step's work passed, and, for step 3, what the blob names and the digest of the owner key it carries, its bytes, the public key that
comes with it and its signature; for step 23 the end of each CXL port's memory; for step 25 the time set. -/
structure StepIn where
  pass     : Bool
  state    : BitVec 2
  ratio    : BitVec 9
  restore  : Bool
  cxlEnds  : List (BitVec 46)
  time     : BitVec 64
  newOwner : BitVec 512
  blob     : List (BitVec 8)
  blobKey  : List (BitVec 8)
  blobSig  : List (BitVec 8)
deriving DecidableEq, Repr

/-- A deckle descriptor (R99). -/
structure Descr where
  ctx : BitVec 8
  chain : BitVec 6
  seq : BitVec 64
  ox : Nat
  oy : Nat
  dw : Nat
  dh : Nat
  pw : Nat
  ph : Nat
  members : BitVec 64
deriving DecidableEq, Repr

/-- An atomic as its home executes it (R190, R358): the operation, the type, and the operand (and the compare value of a
compare-and-swap). -/
inductive AtomReq where
  | op  (o : AtomOp) (t : AtomTy) (v : BitVec 64)
  | cas (t : BitTy) (new cmp : BitVec 64)
deriving DecidableEq, Repr

/-- Where a soft error strikes (R5, R99): a word of fabric memory; a word of a tray's scratchpad or patch window; what a lane holds (its registers, its lane-private words), or a group as a whole (its scalar
registers, its tray's tiles); a routing entry of a launch. -/
inductive SoftSite where
  | word (addr : BitVec 52)
  | sp (launch tray w : Nat)
  | pm (launch tray w : Nat)
  | lane (a : Agent) (vlane : Nat)
  | group (a : Agent)
  | route (launch : Nat)
deriving DecidableEq, Repr

/-- One constructor per row of opcode_table.json. Constructors that carry a Guard are the words of the instruction set;
blockHeader is format H; the rest are the steps of hosts, engines and the device that the table lists, with what a
step needs to be told (the port that writes, the value written, the agent concerned). -/
inductive Instr where
  -- control transfers, ending, waiting (R297 to R308)
  | nop (g : Guard)
  | bra (g : Guard) (off : BitVec 20)
  | brx (g : Guard) (a : Reg)
  | call (g : Guard) (off : BitVec 20)
  | callx (g : Guard) (d a : Reg)
  | ret (g : Guard) (a : Reg)
  | exit (g : Guard)
  | rbar (g : Guard)
  | yield (g : Guard)
  | sleepuntil (g : Guard) (a : BitVec 6)
  | trap (g : Guard) (code : BitVec 8)
  | loop (g : Guard) (a : BitVec 6) (off : BitVec 20)
  -- moves and integer (R309 to R323)
  | mov (g : Guard) (t : BitTy) (d : Reg) (a : Src)
  | movi (g : Guard) (t : MoviTy) (d : Reg) (imm : BitVec 32)
  | movih (g : Guard) (d : Reg) (imm : BitVec 32)
  | add (g : Guard) (t : IntTy) (d : Reg) (a b : Src)
  | sub (g : Guard) (t : IntTy) (d : Reg) (a b : Src)
  | addi (g : Guard) (t : IntTy) (d : Reg) (a : Src) (imm : BitVec 32)
  | mul (g : Guard) (t : IntTy) (d : Reg) (a b : Src)
  | mulhi (g : Guard) (t : IntTy) (d : Reg) (a b : Src)
  | mad (g : Guard) (t : IntTy) (d : Reg) (a b c : Src)
  | div (g : Guard) (t : IntTy) (d : Reg) (a b : Src)
  | rem (g : Guard) (t : IntTy) (d : Reg) (a b : Src)
  | min (g : Guard) (t : IntTy) (d : Reg) (a b : Src)
  | max (g : Guard) (t : IntTy) (d : Reg) (a b : Src)
  | abs (g : Guard) (t : IntTy) (d : Reg) (a : Src)
  | neg (g : Guard) (t : IntTy) (d : Reg) (a : Src)
  | addsat (g : Guard) (t : IntTy) (d : Reg) (a b : Src)
  | and (g : Guard) (t : BitTy) (d : Reg) (a b : Src)
  | or (g : Guard) (t : BitTy) (d : Reg) (a b : Src)
  | xor (g : Guard) (t : BitTy) (d : Reg) (a b : Src)
  | not (g : Guard) (t : BitTy) (d : Reg) (a : Src)
  | andn (g : Guard) (t : BitTy) (d : Reg) (a b : Src)
  | andi (g : Guard) (t : BitTy) (d : Reg) (a : Src) (imm : BitVec 32)
  | ori (g : Guard) (t : BitTy) (d : Reg) (a : Src) (imm : BitVec 32)
  | xori (g : Guard) (t : BitTy) (d : Reg) (a : Src) (imm : BitVec 32)
  | shl (g : Guard) (t : BitTy) (d : Reg) (a b : Src)
  | shr (g : Guard) (t : BitTy) (d : Reg) (a b : Src)
  | sar (g : Guard) (t : BitTy) (d : Reg) (a b : Src)
  | rot (g : Guard) (t : BitTy) (d : Reg) (a b : Src)
  | shli (g : Guard) (t : BitTy) (d : Reg) (a : Src) (imm : BitVec 32)
  | shri (g : Guard) (t : BitTy) (d : Reg) (a : Src) (imm : BitVec 32)
  | sari (g : Guard) (t : BitTy) (d : Reg) (a : Src) (imm : BitVec 32)
  | clamp (g : Guard) (t : IntTy) (d : Reg) (a b c : Src)
  | setp (g : Guard) (c : Cond) (k : Comb) (t : IntTy) (d : BitVec 3) (a b : Src)
  | setpi (g : Guard) (c : CondI) (d : BitVec 3) (a : Src) (imm : BitVec 32)
  | sel (g : Guard) (t : BitTy) (d : BitVec 8) (a b : Src) (c : BitVec 3)
  | bfe (g : Guard) (t : IntTy) (d : Reg) (a b c : Src)
  | bfi (g : Guard) (t : BitTy) (d : Reg) (a b c : Src)
  | popc (g : Guard) (t : BitTy) (d : Reg) (a : Src)
  | clz (g : Guard) (t : BitTy) (d : Reg) (a : Src)
  | ctz (g : Guard) (t : BitTy) (d : Reg) (a : Src)
  | brev (g : Guard) (t : BitTy) (d : Reg) (a : Src)
  | cvti (g : Guard) (dt st : Ty) (sat : Bool) (d : Reg) (a : Src)
  | lea (g : Guard) (k : BitVec 3) (d : Reg) (a b : Src)
  | pset (g : Guard) (o : PsetOp) (d a b : BitVec 3)
  | smov (g : Guard) (t : BitTy) (d : BitVec 6) (a : BitVec 8) (lane : Option SSrc)
  | bswap (g : Guard) (t : BitTy) (d : Reg) (a : Src)
  -- floating point (R327 to R339)
  | fadd (g : Guard) (t : FTy) (r : Rnd) (d : Reg) (a b : Src)
  | fsub (g : Guard) (t : FTy) (r : Rnd) (d : Reg) (a b : Src)
  | fmul (g : Guard) (t : FTy) (r : Rnd) (d : Reg) (a b : Src)
  | fma (g : Guard) (t : FTy) (r : Rnd) (d : Reg) (a b c : Src)
  | fdiv (g : Guard) (t : FTy) (r : Rnd) (d : Reg) (a b : Src)
  | fmin (g : Guard) (t : FTy) (nan : Bool) (d : Reg) (a b : Src)
  | fmax (g : Guard) (t : FTy) (nan : Bool) (d : Reg) (a b : Src)
  | fabs (g : Guard) (t : FTy) (d : Reg) (a : Src)
  | fneg (g : Guard) (t : FTy) (d : Reg) (a : Src)
  | fsetp (g : Guard) (c : CondF) (k : Comb) (t : FTy) (d : BitVec 3) (a b : Src)
  | fclass (g : Guard) (t : FTy) (d : Reg) (a : Src)
  | fmovi (g : Guard) (t : FTy) (d : Reg) (imm : BitVec 32)
  | frnd (g : Guard) (t : FTy) (r : Rnd) (x : Bool) (d : Reg) (a : Src)
  | fscale (g : Guard) (t : FTy) (r : Rnd) (d : Reg) (a b : Src)
  | fdot2 (g : Guard) (bf : Bool) (r : Rnd) (d : Reg) (a b c : Src)
  | cvt (g : Guard) (dt st : Ty) (alt : Bool) (r : CvtRnd) (d : Reg) (a : Src)
  | cvtblk (g : Guard) (e : BlkElem) (st : BlkSrc) (r : BlkRnd) (d : Reg) (a : Src) (b : SSrc)
  | cvtsc (g : Guard) (e : BlkElem) (st : BlkSrc) (d : BitVec 6) (a : Src)
  | pack (g : Guard) (t : PackTy) (d : BitVec 8) (a : Src)
  | unpack (g : Guard) (t : PackTy) (d : BitVec 8) (a : Src)
  -- special functions (R340)
  | exp2 (g : Guard) (r : Rnd) (d : Reg) (a : Src)
  | log2 (g : Guard) (r : Rnd) (d : Reg) (a : Src)
  | rcp (g : Guard) (r : Rnd) (d : Reg) (a : Src)
  | rsqrt (g : Guard) (r : Rnd) (d : Reg) (a : Src)
  | sqrt (g : Guard) (r : Rnd) (d : Reg) (a : Src)
  | tanh (g : Guard) (r : Rnd) (d : Reg) (a : Src)
  | sigmoid (g : Guard) (r : Rnd) (d : Reg) (a : Src)
  | sinpi (g : Guard) (r : Rnd) (d : Reg) (a : Src)
  | cospi (g : Guard) (r : Rnd) (d : Reg) (a : Src)
  -- cross-lane (R341 to R346)
  | shfl (g : Guard) (t : BitTy) (m : ShflMode) (d : BitVec 8) (a b : Src) (c : BitVec 3)
  | vote (g : Guard) (o : VoteOp) (d a : BitVec 3)
  | ballot (g : Guard) (d : Reg) (a : BitVec 3)
  | reduce (g : Guard) (o : RedOp) (t : RedTy) (r : Rnd) (d : Reg) (a : Src)
  | scan (g : Guard) (o : RedOp) (excl : Bool) (t : RedTy) (r : Rnd) (d : BitVec 8) (a : Src)
  | sample (g : Guard) (d : Reg) (a b : Src) (c : BitVec 3)
  | leaven (g : Guard) (flt : Bool) (d : Reg) (a b : Src)
  | matchLanes (g : Guard) (all : Option (BitVec 3)) (t : BitTy) (d : BitVec 8) (a : Src)
  -- memory and atomics (R352 to R363)
  | ld (g : Guard) (sp : Space) (t : Ty) (d : BitVec 8) (m : MemOpd)
  | st (g : Guard) (sp : Space) (t : Ty) (d : BitVec 8) (m : MemOpd)
  | ldm (g : Guard) (t : Ty) (d : BitVec 8) (m : BitVec 3) (x : Src)
  | stm (g : Guard) (t : Ty) (d : BitVec 8) (m : BitVec 3) (x : Src)
  | ldacq (g : Guard) (sp : Space) (t : AtomTy) (sc : Scope) (d : BitVec 8) (m : MemOpd)
  | strel (g : Guard) (sp : Space) (t : AtomTy) (sc : Scope) (d : BitVec 8) (m : MemOpd)
  | pref (g : Guard) (l2 : Bool) (sp : Space) (t : Ty) (m : MemOpd)
  | rflush (g : Guard) (a b : SSrc)
  | atom (g : Guard) (o : AtomOp) (ord : Option Scope) (sp : Space) (t : AtomTy) (d : BitVec 8) (m : MemOpd)
  | red (g : Guard) (o : AtomOp) (ord : Option Scope) (sp : Space) (t : AtomTy) (d : BitVec 8) (m : MemOpd)
  | cas (g : Guard) (ord : CasOrd) (sp : Space) (t : BitTy) (d : BitVec 8) (a : Src) (off : BitVec 10) (b : Src)
  | fence (g : Guard) (k : FenceKind) (sc : Scope)
  | freeze (g : Guard) (d : BitVec 6) (a b : SSrc)
  | thaw (g : Guard) (d : BitVec 6) (a b : SSrc)
  | mset (g : Guard) (m : BitVec 3) (a : SSrc)
  | mget (g : Guard) (d : BitVec 6) (m : BitVec 3)
  -- synchronisation (R364 to R368)
  | bar (g : Guard) (patch : Bool) (sc : Scope)
  | arrive (g : Guard) (sc : Scope) (d : BitVec 8) (m : MemOpd)
  | swait (g : Guard) (d : BitVec 8) (m : MemOpd)
  | qpush (g : Guard) (d : BitVec 6) (a : SSrc)
  | qpop (g : Guard) (d : BitVec 6) (a : SSrc) (c : BitVec 3)
  | waitseq (g : Guard) (sc : Scope) (a b : SSrc)
  -- matrix, attention, key-value (R372 to R386)
  | mma (g : Guard) (z : Bool) (fa fb : Fmt) (d : BitVec 6) (a b c : BitVec 8)
  | mmag (g : Guard) (z : Bool) (fa fb : Fmt) (d : BitVec 6) (a : SSrc) (b c : BitVec 8)
  | ldacc (g : Guard) (sp : Space) (d : BitVec 6) (a b : SSrc)
  | stacc (g : Guard) (sp : Space) (d : BitVec 6) (a b : SSrc)
  | zacc (g : Guard) (d : BitVec 6) (n : BitVec 6)
  | attn (g : Guard) (dim : BitVec 3) (d : BitVec 6) (a : BitVec 8) (b c : SSrc)
  | attnClose (g : Guard) (d : BitVec 6)
  | rescale (g : Guard) (p : BitVec 3) (a : BitVec 6)
  | tilebarRel (g : Guard) (a : BitVec 6)
  | tilebarWait (g : Guard) (d : BitVec 6) (a : BitVec 6) (b : SSrc)
  | slot (g : Guard) (d a : BitVec 8) (b : SSrc) (c : BitVec 3)
  | btswap (g : Guard) (a : SSrc) (n : BitVec 2)
  | ldfrag (g : Guard) (fa : Fmt) (d : BitVec 8) (a b : SSrc)
  | accrd (g : Guard) (f64 : Bool) (d : BitVec 8) (a : BitVec 6) (j : BitVec 8) (n : BitVec 6)
  | accwr (g : Guard) (f64 : Bool) (d : BitVec 6) (a : BitVec 8) (j : BitVec 8) (n : BitVec 6)
  -- engine commands (R388, R389)
  | append (g : Guard) (f : EFlags) (kflags : BitVec 16) (d : BitVec 6) (a : SSrc) (chain : BitVec 6)
  | copy (g : Guard) (f : EFlags) (d : BitVec 6) (a : SSrc) (chain : BitVec 6)
  | stream (g : Guard) (f : EFlags) (d : BitVec 6) (a : SSrc) (chain : BitVec 6)
  | gather (g : Guard) (f : EFlags) (d : BitVec 6) (a : SSrc) (chain : BitVec 6)
  | select (g : Guard) (f : EFlags) (d : BitVec 6) (a : SSrc) (chain : BitVec 6)
  | coll (g : Guard) (f : EFlags) (d : BitVec 6) (a : SSrc) (chain : BitVec 6)
  | demote (g : Guard) (f : EFlags) (d : BitVec 6) (a : SSrc) (chain : BitVec 6)
  | migrate (g : Guard) (f : EFlags) (d : BitVec 6) (a : SSrc) (chain : BitVec 6)
  -- system (R400 to R411)
  | rdctl (g : Guard) (d : BitVec 6) (n : BitVec 12)
  | wrctl (g : Guard) (n : BitVec 12) (a : SSrc)
  | rdspec (g : Guard) (r : RdSpec)
  | wrspec (g : Guard) (r : WrSpec) (a : SSrc)
  | origin (g : Guard) (d : BitVec 8) (n : BitVec 3)
  | rteResume (g : Guard)
  | rteSkip (g : Guard)
  | rteKill (g : Guard)
  | locality (g : Guard) (d : BitVec 6)
  | rdtime (g : Guard) (d : BitVec 6)
  | logctlMode (g : Guard) (d : BitVec 6)
  | logctlFlush (g : Guard)
  | mark (g : Guard) (a d : SSrc)
  | bpctl (g : Guard) (o : BpOp)
  | ident (g : Guard) (q : IdentQ)
  | rdcnt (g : Guard) (d : BitVec 6) (n : BitVec 2)
  | blockHeader (h : Header)
  -- memory-side and device steps
  | lineWriteBack (core : Nat) (addr : BitVec 52)
  | balloonRun (die : Fin 4)
  | outOfSpaceTimeout (ch : Fin 512)
  | migrationRound (page : BitVec 52)
  | migrationHoldRelease (page : BitVec 52)
  | pageWalk (die : Fin 4) (addr : BitVec 52)
  | pageResolved (page : BitVec 52) (noChunks : Bool)
  | loadDataReturn (a : Agent)
  | atomicExecute (a : Agent) (addr : BitVec 52) (r : AtomReq)
  | drainWrite (a : Agent) (k : Nat)
  | drainRelease (a : Agent)
  | drainCommand (a : Agent)
  | drainFreeze (a : Agent)
  | freezeAcknowledged (a : Agent)
  | drainThaw (a : Agent)
  | thawReplicasRemoved (c : Fin 256) (n : Nat)
  | syncWordArrival (launch tray off n : Nat)
  | queuePushEffect (a : Agent)
  | queuePopEffect (a : Agent)
  | recordComplete (c : Fin 256) (ch : Fin 64) (seq : Word)
  | rflushDone (a : Agent)
  | logFlushDone (a : Agent)
  | bpctlPropagated (a : Agent)
  | attnEntry (a : Agent)
  | listRoomResume (c : Fin 256) (ch : Fin 64) (seq : Word)
  | fairnessSlice (a : Agent)
  | compactionWindowExpiry (launch tray : Nat) (h : Pc)
  | gatheringCloseTimeout (launch n : Nat)
  | handlerGroupStart (launch n : Nat)
  | sleepWake (a : Agent)
  | logWaitTimeout (c : Fin 256)
  | replayStuck (c : Fin 256)
  | placementDecision
  | slideResume
  | evictedReturn (launch tray : Nat)
  | trayReplace (launch tray : Nat)
  | pipelineRebalanceTick
  | prepareReceive (src : BitVec 6) (d : Descr) (check : BitVec 64) (body : List Word)
  | acknowledgeReceive (launch : Nat) (pkg : BitVec 6)
  | refusalReceive (launch : Nat) (pkg : BitVec 6)
  | goReceive (c : BitVec 8) (chain : BitVec 6) (go : GoMsg)
  | abortReceive (c : BitVec 8) (chain : BitVec 6) (seq : BitVec 64)
  | prepareTimeout (launch : Nat)
  | memberLost (launch : Nat) (pkg : BitVec 6)
  | stopReceive (c : BitVec 8) (chain : BitVec 6) (seq : BitVec 64)
  | exitReport (launch : Nat) (report : Report)
  | coordinatorLost (pkg : BitVec 6)
  | launchRecord (c : Fin 256) (ch : Fin 64)
  | copyRecord (c : Fin 256) (ch : Fin 64)
  | streamRecord (c : Fin 256) (ch : Fin 64)
  | gatherRecord (c : Fin 256) (ch : Fin 64)
  | selectRecord (c : Fin 256) (ch : Fin 64)
  | collRecord (c : Fin 256) (ch : Fin 64)
  | collectiveRun (c : Fin 256) (id : BitVec 32)
  | demoteRecord (c : Fin 256) (ch : Fin 64)
  | migrateRecord (c : Fin 256) (ch : Fin 64)
  | sweep
  | dieResetComplete (die : Fin 4)
  | wakeComplete
  | checkpointDone
  | retentionEntered
  | idleTimeout
  | mtInvDone
  | ptpSyncTick
  -- host and management steps
  | mgmtSemClaim (p : Port) (claim : BitVec 8)
  | mgmtSemRelease (p : Port)
  | mgmtSemClearDenied (p : Port) (denied : BitVec 2)
  | coreReset (p : Port) (dies : BitVec 4) (force : Bool)
  | uncoreReset (p : Port) (dies : BitVec 4)
  | retrain (p : Port) (link : Fin 16)
  | linkTrained (link : Fin 16) (peerPkg : BitVec 6) (peerPort : BitVec 4)
  | domCfgWrite (p : Port) (v : Word) (reachable : Bool)
  | balloonTailWrite (p : Option Port) (tail : BitVec 21)
  | balloonSizeWrite (p : Option Port) (log2 : BitVec 5)
  | checkpointStart (p : Port)
  | ctxAdopt (p : Port) (c : Fin 256)
  | ctxStop (p : Port) (c : Fin 256)
  | ctxDestroy (p : Port) (c : Fin 256)
  | ctxCreate (p : Port) (c : Fin 256)
  | rangeCommit (p : Port) (c : Fin 256) (i : Fin 16) (v : Word)
  | rangeInvalidate (p : Port) (c : Fin 256) (i : Fin 16) (v : Word)
  | keyLoad (p : Port) (slot : BitVec 13)
  | keyDataWrite (p : Port) (i : Fin 8) (v : Word)
  | keyCommit (p : Port) (slot : BitVec 13)
  | keyClear (p : Port) (slot : BitVec 13)
  | kemCtWrite (p : Port) (v : Word)
  | chainEnable (p : Port) (c : Fin 256) (ch : Fin 64)
  | chainDisable (p : Port) (c : Fin 256) (ch : Fin 64)
  | chSeqWrite (p : Port) (c : Fin 256) (ch : Fin 64) (v : Word)
  | chEngineWrite (p : Port) (c : Fin 256) (ch : Fin 64) (e : BitVec 4)
  | chAdv (p : Port) (c : Fin 256) (ch : Fin 64) (v : Word)
  | attGo (p : Port) (kind : BitVec 2) (c : Fin 256)
  | fwLoad (p : Port)
  | fwRestart (p : Port)
  | dbgReq (p : Port) (level : BitVec 2)
  | pwrTargetActive (p : Port)
  | pwrTargetRetention (p : Port)
  | pwrTargetOff (p : Port)
  | startStepClear (p : Port) (n : Fin 32)
  | srvCtlWrite (p : Option Port) (v : Word)
  | srvList (ltgt : Option Word) (v : Word)
  | mtInvGo (v : Word)
  | timeCfgWrite (p : Port) (v : Word)
  | ctxHalt (p : Port) (c : Fin 256)
  | ctxResume (p : Port) (c : Fin 256)
  | ctxDump (p : Port) (c : Fin 256)
  | ctxLogpWrite (p : Port) (c : Fin 256) (v : Word)
  | registerWrite (p : Option Port) (off : BitVec 24) (v : Word)
  | powerOn
  | hostFundamentalReset (p : Port)
  | startStep (n : Fin 32) (i : StepIn)
  | hostLinkDown (p : Port)
  | flitReceive (link : Fin 16) (f : Wire)
  | timeSourceLost
  | hostMemoryWrite (p : Port) (addr : BitVec 52) (bytes : List (BitVec 8))
  | hostMemoryRead (p : Port) (addr : BitVec 52) (len : Nat)
  | hostLinkUp (p : Port)
  | softError (site : SoftSite) (correctable : Bool)
  | powerLoss
  | ptmMeasurement (p : Port) (hostTime : BitVec 64)
  | cxlCacheSnoop (p : Port) (line : BitVec 52)
deriving DecidableEq, Repr

end Sys2Proof
end

