-- ==== Sys2Proof/WellFormed.lean ====
section
/-!
DEFINITION. Which instruction terms stand for a word of the instruction set: the checks on operands that need no machine state (R268, R269 and
each entry). A word whose fields give an ill-formed term traps with cause 0x02 (R281). Checks that need the tray (registers held, tiles
allocated) are made at issue.
-/

namespace Sys2Proof

/-- Guard 0b1111 is reserved (R266). -/
def Guard.wf (g : Guard) : Bool := !(g.neg && g.pred == 7)

/-- A vector field of a 64-bit type takes an even number (R268). -/
def even8 (n : BitVec 8) : Bool := n.toNat % 2 == 0

/-- A quad starts at a multiple of 4 (R268). -/
def quad8 (n : BitVec 8) : Bool := n.toNat % 4 == 0

/-- A source of the given width (R268). -/
def Src.wf (w64 : Bool) : Src → Bool
  | .v n => !w64 || even8 n
  | .s _ => true
  | .imm _ => true

/-- A register operand of the given width (R268). -/
def Reg.wf (w64 : Bool) : Reg → Bool
  | .v n => !w64 || even8 n
  | .s _ => true

/-- Whether a source is a vector register. -/
def Src.isV : Src → Bool
  | .v _ => true
  | _ => false

/-- A scalar destination takes no vector source (R269). -/
def Reg.fits (d : Reg) (srcs : List Src) : Bool :=
  match d with
  | .v _ => true
  | .s _ => !srcs.any Src.isV

/-- D and A of a format-I instruction have one class, set by SCL (R272, R315). -/
def Reg.sameClass (d : Reg) (a : Src) : Bool :=
  match d, a with
  | .v _, .v _ => true
  | .s _, .s _ => true
  | .s _, .imm _ => true
  | _, _ => false

/-- 64-bit types. -/
def IntTy.is64 : IntTy → Bool
  | .i64 | .n64 => true
  | _ => false
/-- 64-bit types. -/
def BitTy.is64 : BitTy → Bool
  | .b64 => true
  | _ => false
/-- 64-bit types. -/
def FTy.is64 : FTy → Bool
  | .f64 => true
  | _ => false
/-- 64-bit types. -/
def RedTy.is64 : RedTy → Bool
  | .i64 | .n64 | .f64 => true
  | _ => false
/-- Floating-point types of reduce and scan. -/
def RedTy.isF : RedTy → Bool
  | .f32 | .f64 => true
  | _ => false
/-- 64-bit types. -/
def AtomTy.is64 : AtomTy → Bool
  | .i64 | .n64 | .f64 | .b64 => true
  | _ => false
/-- 64-bit types held in a register (R295, R325). -/
def Ty.is64 : Ty → Bool
  | .i64 | .n64 | .f64 | .b64 => true
  | _ => false

/-- Integer codes 0 to 7 (R270). -/
def Ty.isInt8 : Ty → Bool
  | .i8 | .i16 | .i32 | .i64 | .n8 | .n16 | .n32 | .n64 => true
  | _ => false

/-- Codes 0 to 17 (R335). -/
def Ty.cvtable : Ty → Bool
  | .i4 | .n4 | .b128 | .b32 | .b64 => false
  | _ => true

/-- The targets of stochastic rounding (R238, R335). -/
def Ty.stochastic : Ty → Bool
  | .f16 | .bf16 | .e4m3 | .e5m2 | .e3m2 | .e2m3 | .e2m1 | .sc20 => true
  | _ => false

/-- The block elements of a float format: the targets of stochastic rounding among them (R238, R338). -/
def BlkElem.isFloat : BlkElem → Bool
  | .e4m3 | .e5m2 | .e3m2 | .e2m3 | .e2m1 => true
  | .i8 | .i4 | .n4 | .mxi8 | .mxi4 | .mxn4 => false

/-- The types format M admits (R349). -/
def Ty.inMem : Ty → Bool
  | .e3m2 | .e2m3 | .e2m1 | .sc20 | .i4 | .n4 => false
  | _ => true

/-- Access width in bytes (R349). -/
def Ty.width : Ty → Nat
  | .i8 | .n8 | .e4m3 | .e5m2 => 1
  | .i16 | .n16 | .f16 | .bf16 => 2
  | .i32 | .n32 | .f32 | .b32 => 4
  | .i64 | .n64 | .f64 | .b64 => 8
  | .b128 => 16
  | .e3m2 | .e2m3 | .e2m1 | .sc20 | .i4 | .n4 => 0

/-- The data register of a format-M instruction of a type (R349). -/
def Ty.dataOk (t : Ty) (d : BitVec 8) : Bool :=
  match t.width with
  | 8 => even8 d
  | 16 => quad8 d
  | _ => true

/-- The address operands of a space (R273, R350): a `.g` base is a pair or a scalar, and takes no small immediate. -/
def addrOk (sp : Space) (a : Src) : Bool :=
  match sp, a with
  | .g, .v n => even8 n
  | .g, .s _ => true
  | .g, .imm _ => false
  | _, _ => true

/-- Spaces that hold synchronising accesses (R348). -/
def Space.sync : Space → Bool
  | .lp => false
  | _ => true

/-- The types an atomic operation admits (R358). -/
def AtomOp.admits (o : AtomOp) (t : AtomTy) : Bool :=
  match o, t with
  | .add, .b32 | .add, .b64 | .min, .b32 | .min, .b64 | .max, .b32 | .max, .b64 => false
  | .and, .f32 | .and, .f64 | .or, .f32 | .or, .f64 | .xor, .f32 | .xor, .f64 => false
  | .addsat, .n32 | .addsat, .n64 => true
  | .addsat, _ => false
  | _, _ => true

/-- A tile field (R268). -/
def tileOk (n : BitVec 6) : Bool := n.toNat < 48

/-- A fragment register: a multiple of 8 (R375). -/
def frag8 (n : BitVec 8) : Bool := n.toNat % 8 == 0

/-- The class of a matrix operand format (R229): 0 D, 1 S, 2 H, 3 Q, 4 I. -/
def Fmt.cls : Fmt → Nat
  | .f64 => 0
  | .f32 => 1
  | .f16 | .bf16 => 2
  | .e4m3 | .e5m2 | .mx8a | .mx8b | .mx4 | .pg8 | .e3m2 | .e2m3 | .e2m1 | .mx6a | .mx6b | .pg6 | .pg4 => 3
  | .i8 | .n8 | .mxi8 | .i4 | .n4 | .mxi4 | .mxn4 => 4

/-- Bits per element (R373). -/
def Fmt.bits : Fmt → Nat
  | .f64 => 64
  | .f32 => 32
  | .f16 | .bf16 => 16
  | .e4m3 | .e5m2 | .mx8a | .mx8b | .pg8 | .i8 | .n8 | .mxi8 => 8
  | .e3m2 | .e2m3 | .mx6a | .mx6b | .pg6 => 6
  | .mx4 | .e2m1 | .pg4 | .i4 | .n4 | .mxi4 | .mxn4 => 4

/-- Elements along k of one operand (R373). -/
def Fmt.k : Fmt → Nat
  | .f64 => 8
  | .f32 => 16
  | .f16 | .bf16 => 32
  | .mx4 | .e2m1 | .pg4 | .i4 | .n4 | .mxi4 | .mxn4 => 128
  | _ => 64

/-- Block-scaled formats (R227). -/
def Fmt.blockScaled : Fmt → Bool
  | .mx8a | .mx8b | .mx6a | .mx6b | .mx4 | .mxi8 | .mxi4 | .mxn4 => true
  | _ => false

/-- Page-scaled formats (R228). -/
def Fmt.pageScaled : Fmt → Bool
  | .pg8 | .pg6 | .pg4 => true
  | _ => false

/-- The scale words an operand of the format takes in an instruction of extent k (R374). -/
def Fmt.scales (f : Fmt) (k : Nat) : Nat :=
  if f.blockScaled then k / 32 else if f.pageScaled then 1 else 0

/-- The extent of a multiplication: the smaller K (R373). -/
def mmaK (fa fb : Fmt) : Nat := Nat.min fa.k fb.k

/-- The operand checks of mma that need no state (R230, R374, R375): A and B multiples of 8, C zero when there are no scales. -/
def mmaWf (fa fb : Fmt) (nsc : Nat) (d : BitVec 6) (b c : BitVec 8) : Bool :=
  tileOk d && fa.cls == fb.cls && frag8 b && (nsc != 0 || c == 0)

/-- The well-formed instructions: those some word encodes, and the steps of the table whose operands are in range. -/
def Instr.wf : Instr → Bool
  | .nop g | .exit g | .rbar g | .yield g | .rteResume g | .rteSkip g | .rteKill g | .logctlFlush g => g.wf
  | .bra g _ | .call g _ => g.wf
  | .brx g a => g.wf && a.wf true
  | .callx g d a => g.wf && d.wf true && a.wf true && (match d, a with
    | .s _, .v _ => false
    | _, _ => true)
  | .ret g a => g.wf && a.wf true
  | .sleepuntil g _ => g.wf
  | .trap g _ => g.wf
  | .loop g a _ => g.wf && a != 0
  | .mov g t d a => g.wf && d.wf t.is64 && a.wf t.is64 && d.fits [a]
  | .movi g t d _ => g.wf && d.wf (t != .b32)
  | .movih g d _ => g.wf && d.wf true
  | .add g t d a b | .sub g t d a b | .mul g t d a b | .mulhi g t d a b | .div g t d a b | .rem g t d a b
  | .min g t d a b | .max g t d a b | .addsat g t d a b =>
    g.wf && d.wf t.is64 && a.wf t.is64 && b.wf t.is64 && d.fits [a, b]
  | .mad g t d a b c | .clamp g t d a b c =>
    g.wf && d.wf t.is64 && a.wf t.is64 && b.wf t.is64 && c.wf t.is64 && d.fits [a, b, c]
  | .abs g t d a => g.wf && d.wf t.is64 && a.wf t.is64 && d.fits [a] && (t == .i32 || t == .i64)
  | .neg g t d a => g.wf && d.wf t.is64 && a.wf t.is64 && d.fits [a]
  | .addi g t d a _ => g.wf && d.wf t.is64 && a.wf t.is64 && d.sameClass a
  | .and g t d a b | .or g t d a b | .xor g t d a b | .andn g t d a b =>
    g.wf && d.wf t.is64 && a.wf t.is64 && b.wf t.is64 && d.fits [a, b]
  | .shl g t d a b | .shr g t d a b | .sar g t d a b | .rot g t d a b =>
    g.wf && d.wf t.is64 && a.wf t.is64 && b.wf t.is64 && d.fits [a, b]
  | .not g t d a | .popc g t d a | .clz g t d a | .ctz g t d a | .brev g t d a | .bswap g t d a =>
    g.wf && d.wf t.is64 && a.wf t.is64 && d.fits [a]
  | .andi g t d a _ | .ori g t d a _ | .xori g t d a _ | .shli g t d a _ | .shri g t d a _ | .sari g t d a _ =>
    g.wf && d.wf t.is64 && a.wf t.is64 && d.sameClass a
  | .setp g _ _ t _ a b => g.wf && a.wf t.is64 && b.wf t.is64
  | .setpi g _ _ _ _ => g.wf
  | .sel g t d a b _ => g.wf && (!t.is64 || even8 d) && a.wf t.is64 && b.wf t.is64
  | .bfe g t d a b c => g.wf && d.wf t.is64 && a.wf t.is64 && b.wf t.is64 && c.wf t.is64 && d.fits [a, b, c]
  | .bfi g t d a b c => g.wf && d.wf t.is64 && a.wf t.is64 && b.wf t.is64 && c.wf t.is64 && d.fits [a, b, c]
  | .cvti g dt sty _ d a => g.wf && dt.isInt8 && sty.isInt8 && d.wf dt.is64 && a.wf sty.is64 && d.fits [a]
  | .lea g k d a b => g.wf && k.toNat ≤ 4 && d.wf true && a.wf true && b.wf false && d.fits [a, b]
  | .pset g o _ _ b => g.wf && (o != .not || b == 0)
  | .smov g t _ a _ => g.wf && (!t.is64 || even8 a)
  | .fadd g t _ d a b | .fsub g t _ d a b | .fmul g t _ d a b | .fmin g t _ d a b | .fmax g t _ d a b =>
    g.wf && d.wf t.is64 && a.wf t.is64 && b.wf t.is64 && d.fits [a, b]
  | .fscale g t _ d a b => g.wf && d.wf t.is64 && a.wf t.is64 && b.wf false && d.fits [a, b]
  | .fma g t _ d a b c =>
    g.wf && d.wf t.is64 && a.wf t.is64 && b.wf t.is64 && c.wf t.is64 && d.fits [a, b, c]
  | .fdiv g t _ d a b =>
    g.wf && (t == .f32 || t == .f64) && d.wf t.is64 && a.wf t.is64 && b.wf t.is64 && d.fits [a, b]
  | .fabs g t d a | .fneg g t d a => g.wf && d.wf t.is64 && a.wf t.is64 && d.fits [a]
  | .frnd g t _ _ d a => g.wf && d.wf t.is64 && a.wf t.is64 && d.fits [a]
  | .fsetp g _ _ t _ a b => g.wf && a.wf t.is64 && b.wf t.is64
  | .fclass g t d a => g.wf && a.wf t.is64 && d.fits [a]
  | .fmovi g t d imm => g.wf && d.wf t.is64 && t != .bf16 && (t != .f16 || imm.toNat < 65536)
  | .fdot2 g _ _ d a b c => g.wf && d.fits [a, b, c]
  | .cvt g dt sty alt r d a =>
    g.wf && dt.cvtable && sty.cvtable && dt != sty && !(dt.isInt8 && sty.isInt8) && d.wf dt.is64 && a.wf sty.is64 &&
    (!alt || dt == .e4m3 || dt == .e5m2) &&
    (match r with
     | .mode _ => d.fits [a]
     | .rsto k c => dt.stochastic && d.fits [a, k, c])
  | .cvtblk g e _ r d a _ =>
    g.wf && d.fits [a] &&
    (match r with
     | .mode _ => true
     | .rsto _ => e.isFloat)
  | .cvtsc g _ _ _ _ => g.wf
  | .pack g _ _ _ | .unpack g _ _ _ => g.wf
  | .exp2 g _ d a | .log2 g _ d a | .rcp g _ d a | .rsqrt g _ d a | .sqrt g _ d a | .tanh g _ d a
  | .sigmoid g _ d a | .sinpi g _ d a | .cospi g _ d a => g.wf && d.fits [a]
  | .shfl g t _ d a b _ => g.wf && (!t.is64 || even8 d) && a.wf t.is64 && b.wf false
  | .vote g _ _ _ => g.wf
  | .ballot g _ _ => g.wf
  | .reduce g o t r d a =>
    g.wf && d.wf t.is64 && a.wf t.is64 && (!t.isF || o == .add || o == .min || o == .max) &&
    (r == .rne || (t.isF && o == .add))
  | .scan g o _ t r d a =>
    g.wf && (!t.is64 || even8 d) && a.wf t.is64 && (!t.isF || o == .add || o == .min || o == .max) &&
    (r == .rne || (t.isF && o == .add))
  | .sample g _ _ _ _ => g.wf
  | .leaven g _ d a b => g.wf && d.fits [a, b]
  | .matchLanes g _ t _ a => g.wf && a.wf t.is64
  | .ld g sp t d m | .st g sp t d m => g.wf && t.inMem && t.dataOk d && addrOk sp m.a
  | .ldm g t d _ _ | .stm g t d _ _ => g.wf && t.inMem && t.dataOk d
  | .ldacq g sp t _ d m | .strel g sp t _ d m =>
    g.wf && sp.sync && (!t.is64 || even8 d) && addrOk sp m.a
  | .pref g _ sp t m => g.wf && t.inMem && (sp == .sh || sp == .g) && addrOk sp m.a
  | .rflush g _ _ => g.wf
  | .atom g o _ sp t d m => g.wf && sp.sync && o.admits t && (!t.is64 || even8 d) && addrOk sp m.a
  | .red g o _ sp t d m =>
    g.wf && sp.sync && o.admits t && o != .exch && (!t.is64 || even8 d) && addrOk sp m.a
  | .cas g _ sp t d a _ b => g.wf && sp.sync && (!t.is64 || even8 d) && addrOk sp a && b.wf t.is64
  | .fence g _ _ => g.wf
  | .freeze g _ _ _ | .thaw g _ _ _ => g.wf
  | .mset g _ _ => g.wf
  | .mget g _ _ => g.wf
  | .bar g patch sc => g.wf && sc != .group && (!patch || sc != .tray)
  | .arrive g _ d _ => g.wf && quad8 d
  | .swait g d _ => g.wf && quad8 d
  | .qpush g _ _ => g.wf
  | .qpop g _ _ _ => g.wf
  | .waitseq g _ _ _ => g.wf
  | .mma g _ fa fb d a b c =>
    g.wf && mmaWf fa fb (fa.scales (mmaK fa fb) + fb.scales (mmaK fa fb)) d b c && frag8 a
  | .mmag g _ fa fb d _ b c => g.wf && tileOk d && frag8 b && (fb.scales (mmaK fa fb) != 0 || c == 0)
  | .ldacc g sp d _ _ | .stacc g sp d _ _ => g.wf && tileOk d && sp.sync
  | .zacc g d n => g.wf && tileOk d && d.toNat + n.toNat + 1 ≤ 48
  | .attn g dim d a _ _ => g.wf && dim != 0 && tileOk d && frag8 a && d.toNat + dim.toNat + 1 ≤ 47
  | .attnClose g d => g.wf && tileOk d
  | .rescale g _ a => g.wf && tileOk a
  | .tilebarRel g a => g.wf && tileOk a
  | .tilebarWait g _ a _ => g.wf && tileOk a
  | .slot g _ _ _ _ => g.wf
  | .btswap g _ _ => g.wf
  | .ldfrag g _ d _ _ => g.wf && frag8 d
  | .accrd g f d a j n =>
    g.wf && tileOk a && (!f || even8 d) && j.toNat + n.toNat + 1 ≤ (if f then 16 else 32)
  | .accwr g f d a j n =>
    g.wf && tileOk d && (!f || even8 a) && j.toNat + n.toNat + 1 ≤ (if f then 16 else 32)
  | .append g _ _ _ _ ch => g.wf && ch.toNat < 8
  | .copy g _ _ _ ch | .stream g _ _ _ ch | .gather g _ _ _ ch | .select g _ _ _ ch | .coll g _ _ _ ch
  | .demote g _ _ _ ch | .migrate g _ _ _ ch => g.wf && 8 ≤ ch.toNat
  | .rdctl g _ n => g.wf && n.toNat ≤ 8
  | .wrctl g n _ => g.wf && n.toNat ≤ 8
  | .rdspec g r =>
    g.wf && (match r with
      | .pcv d => even8 d
      | _ => true)
  | .wrspec g _ _ => g.wf
  | .origin g d n => g.wf && even8 d && n.toNat ≤ 4
  | .locality g _ | .rdtime g _ | .logctlMode g _ => g.wf
  | .mark g _ _ => g.wf
  | .bpctl g _ => g.wf
  | .ident g _ => g.wf
  | .rdcnt g _ n => g.wf && n.toNat ≤ 2
  | .blockHeader _ => true
  | .startStepClear _ n => 1 ≤ n.val && n.val ≤ 27
  | .startStep n _ => 1 ≤ n.val && n.val ≤ 27
  | .mgmtSemClaim _ n => n != 0xFF
  | .mgmtSemClearDenied _ d => d != 0
  | .mgmtSemRelease _ | .coreReset _ _ _ | .uncoreReset _ _ | .retrain _ _ | .linkTrained _ _ _
  | .domCfgWrite _ _ _ | .balloonTailWrite _ _ | .balloonSizeWrite _ _ | .checkpointStart _ | .checkpointDone
  | .ctxAdopt _ _ | .ctxStop _ _ | .ctxDestroy _ _ | .ctxCreate _ _ | .rangeCommit _ _ _ _
  | .rangeInvalidate _ _ _ _ | .keyLoad _ _ | .keyDataWrite _ _ _ | .keyCommit _ _ | .keyClear _ _
  | .kemCtWrite _ _ | .chainEnable _ _ _ | .chainDisable _ _ _ | .chSeqWrite _ _ _ _ | .chEngineWrite _ _ _ _
  | .chAdv _ _ _ _ | .attGo _ _ _ | .fwLoad _ | .fwRestart _ | .dbgReq _ _ | .pwrTargetActive _
  | .pwrTargetRetention _ | .pwrTargetOff _ | .retentionEntered | .idleTimeout | .srvCtlWrite _ _ | .srvList _ _
  | .mtInvGo _ | .mtInvDone | .timeCfgWrite _ _ | .ctxHalt _ _ | .ctxResume _ _ | .ctxDump _ _
  | .ctxLogpWrite _ _ _ | .registerWrite _ _ _ | .powerOn | .hostFundamentalReset _ | .hostLinkDown _
  | .flitReceive _ _ | .timeSourceLost | .ptpSyncTick | .hostMemoryWrite _ _ _ | .hostMemoryRead _ _ _
  | .lineWriteBack _ _ | .balloonRun _ | .outOfSpaceTimeout _ | .migrationRound _ | .migrationHoldRelease _
  | .pageWalk _ _ | .pageResolved _ _ | .loadDataReturn _ | .atomicExecute _ _ _ | .drainWrite _ _
  | .drainRelease _ | .drainCommand _ | .drainFreeze _ | .freezeAcknowledged _ | .drainThaw _
  | .thawReplicasRemoved _ _ | .syncWordArrival _ _ _ _ | .queuePushEffect _ | .queuePopEffect _
  | .recordComplete _ _ _ | .rflushDone _ | .logFlushDone _ | .bpctlPropagated _ | .attnEntry _
  | .listRoomResume _ _ _ | .fairnessSlice _ | .compactionWindowExpiry _ _ _ | .gatheringCloseTimeout _ _
  | .handlerGroupStart _ _ | .sleepWake _ | .logWaitTimeout _ | .replayStuck _ | .placementDecision | .slideResume
  | .evictedReturn _ _ | .trayReplace _ _ | .pipelineRebalanceTick | .prepareReceive _ _ _ _
  | .acknowledgeReceive _ _ | .refusalReceive _ _ | .goReceive _ _ _ | .abortReceive _ _ _ | .prepareTimeout _
  | .memberLost _ _ | .stopReceive _ _ _ | .exitReport _ _ | .coordinatorLost _ | .launchRecord _ _ | .copyRecord _ _
  | .streamRecord _ _ | .gatherRecord _ _ | .selectRecord _ _ | .collRecord _ _ | .collectiveRun _ _
  | .demoteRecord _ _ | .migrateRecord _ _ | .hostLinkUp _ | .softError _ _ | .powerLoss | .ptmMeasurement _ _ | .sweep
  | .cxlCacheSnoop _ _ | .dieResetComplete _ | .wakeComplete => true

/-- Whether a term is a word of the instruction set (a row with an encoding), as opposed to a step of the device or a host. -/
def Instr.isWord : Instr → Bool
  | .startStepClear _ _ | .startStep _ _ | .mgmtSemClaim _ _ | .mgmtSemClearDenied _ _
  | .mgmtSemRelease _ | .coreReset _ _ _ | .uncoreReset _ _ | .retrain _ _ | .linkTrained _ _ _
  | .domCfgWrite _ _ _ | .balloonTailWrite _ _ | .balloonSizeWrite _ _ | .checkpointStart _ | .checkpointDone
  | .ctxAdopt _ _ | .ctxStop _ _ | .ctxDestroy _ _ | .ctxCreate _ _ | .rangeCommit _ _ _ _
  | .rangeInvalidate _ _ _ _ | .keyLoad _ _ | .keyDataWrite _ _ _ | .keyCommit _ _ | .keyClear _ _
  | .kemCtWrite _ _ | .chainEnable _ _ _ | .chainDisable _ _ _ | .chSeqWrite _ _ _ _ | .chEngineWrite _ _ _ _
  | .chAdv _ _ _ _ | .attGo _ _ _ | .fwLoad _ | .fwRestart _ | .dbgReq _ _ | .pwrTargetActive _
  | .pwrTargetRetention _ | .pwrTargetOff _ | .retentionEntered | .idleTimeout | .srvCtlWrite _ _ | .srvList _ _
  | .mtInvGo _ | .mtInvDone | .timeCfgWrite _ _ | .ctxHalt _ _ | .ctxResume _ _ | .ctxDump _ _
  | .ctxLogpWrite _ _ _ | .registerWrite _ _ _ | .powerOn | .hostFundamentalReset _ | .hostLinkDown _
  | .flitReceive _ _ | .timeSourceLost | .ptpSyncTick | .hostMemoryWrite _ _ _ | .hostMemoryRead _ _ _
  | .lineWriteBack _ _ | .balloonRun _ | .outOfSpaceTimeout _ | .migrationRound _ | .migrationHoldRelease _
  | .pageWalk _ _ | .pageResolved _ _ | .loadDataReturn _ | .atomicExecute _ _ _ | .drainWrite _ _
  | .drainRelease _ | .drainCommand _ | .drainFreeze _ | .freezeAcknowledged _ | .drainThaw _
  | .thawReplicasRemoved _ _ | .syncWordArrival _ _ _ _ | .queuePushEffect _ | .queuePopEffect _
  | .recordComplete _ _ _ | .rflushDone _ | .logFlushDone _ | .bpctlPropagated _ | .attnEntry _
  | .listRoomResume _ _ _ | .fairnessSlice _ | .compactionWindowExpiry _ _ _ | .gatheringCloseTimeout _ _
  | .handlerGroupStart _ _ | .sleepWake _ | .logWaitTimeout _ | .replayStuck _ | .placementDecision | .slideResume
  | .evictedReturn _ _ | .trayReplace _ _ | .pipelineRebalanceTick | .prepareReceive _ _ _ _
  | .acknowledgeReceive _ _ | .refusalReceive _ _ | .goReceive _ _ _ | .abortReceive _ _ _ | .prepareTimeout _
  | .memberLost _ _ | .stopReceive _ _ _ | .exitReport _ _ | .coordinatorLost _ | .launchRecord _ _ | .copyRecord _ _
  | .streamRecord _ _ | .gatherRecord _ _ | .selectRecord _ _ | .collRecord _ _ | .collectiveRun _ _
  | .demoteRecord _ _ | .migrateRecord _ _ | .hostLinkUp _ | .softError _ _ | .powerLoss | .ptmMeasurement _ _ | .sweep
  | .cxlCacheSnoop _ _ | .dieResetComplete _ | .wakeComplete => false
  | _ => true

end Sys2Proof
end

