-- ==== Sys2Proof/Decode.lean ====
section
/-!
DEFINITION. The decoder, from the formats of R271 to R278 and the encoding tables of the entries, total on every 64-bit word; and after it
the encoder, from the same tables. A word is the instruction it parses to exactly when that instruction is well formed and encodes to
the same word: a reserved field, an unlisted variant or a wrong class bit makes the two differ (R281).
-/

namespace Sys2Proof

/-! Codes (R229, R270, R238, R172, R273) -/

/-- Type codes (R270). -/
def Ty.code : Ty → Nat
  | .i8 => 0 | .i16 => 1 | .i32 => 2 | .i64 => 3 | .n8 => 4 | .n16 => 5 | .n32 => 6 | .n64 => 7
  | .f16 => 8 | .bf16 => 9 | .f32 => 10 | .f64 => 11 | .e4m3 => 12 | .e5m2 => 13 | .e3m2 => 14 | .e2m3 => 15
  | .e2m1 => 16 | .sc20 => 17 | .i4 => 18 | .n4 => 19 | .b128 => 20 | .b32 => 21 | .b64 => 22
/-- The type a code names (R270); codes 23 to 31 name none and give one that encodes otherwise. -/
def Ty.ofCode : Nat → Ty
  | 0 => .i8 | 1 => .i16 | 2 => .i32 | 3 => .i64 | 4 => .n8 | 5 => .n16 | 6 => .n32 | 7 => .n64
  | 8 => .f16 | 9 => .bf16 | 10 => .f32 | 11 => .f64 | 12 => .e4m3 | 13 => .e5m2 | 14 => .e3m2 | 15 => .e2m3
  | 16 => .e2m1 | 17 => .sc20 | 18 => .i4 | 19 => .n4 | 20 => .b128 | 21 => .b32 | _ => .b64
/-- Type codes (R270). -/
def IntTy.code : IntTy → Nat
  | .i32 => 2 | .i64 => 3 | .n32 => 6 | .n64 => 7
/-- The integer type a code names (R270). -/
def IntTy.ofCode : Nat → IntTy
  | 2 => .i32 | 3 => .i64 | 6 => .n32 | _ => .n64
/-- SUB codes of addi (R315). -/
def IntTy.sub : IntTy → Nat
  | .i32 => 0 | .i64 => 1 | .n32 => 2 | .n64 => 3
/-- The type a SUB of addi names (R315). -/
def IntTy.ofSub : Nat → IntTy
  | 0 => .i32 | 1 => .i64 | 2 => .n32 | _ => .n64
/-- Type codes (R270). -/
def BitTy.code : BitTy → Nat
  | .b32 => 21 | .b64 => 22
/-- The bit type a code names (R270). -/
def BitTy.ofCode : Nat → BitTy
  | 21 => .b32 | _ => .b64
/-- SUB codes of the logic and shift immediates (R315). -/
def BitTy.sub : BitTy → Nat
  | .b32 => 0 | .b64 => 1
/-- The type a SUB names (R315). -/
def BitTy.ofSub : Nat → BitTy
  | 0 => .b32 | _ => .b64
/-- Type codes (R270). -/
def FTy.code : FTy → Nat
  | .f16 => 8 | .bf16 => 9 | .f32 => 10 | .f64 => 11
/-- The floating-point type a code names (R270). -/
def FTy.ofCode : Nat → FTy
  | 8 => .f16 | 9 => .bf16 | 10 => .f32 | _ => .f64
/-- SUB codes of fmovi (R334); bf16 is written as f16, which gives the same word. -/
def FTy.sub : FTy → Nat
  | .f32 => 0 | .f64 => 1 | .f16 => 2 | .bf16 => 2
/-- The type a SUB of fmovi names (R334). -/
def FTy.ofSub : Nat → FTy
  | 0 => .f32 | 1 => .f64 | _ => .f16
/-- Type codes (R270). -/
def RedTy.code : RedTy → Nat
  | .i32 => 2 | .i64 => 3 | .n32 => 6 | .n64 => 7 | .f32 => 10 | .f64 => 11
/-- The reduction type a code names (R344). -/
def RedTy.ofCode : Nat → RedTy
  | 2 => .i32 | 3 => .i64 | 6 => .n32 | 7 => .n64 | 10 => .f32 | _ => .f64
/-- Type codes (R270). -/
def AtomTy.code : AtomTy → Nat
  | .i32 => 2 | .i64 => 3 | .n32 => 6 | .n64 => 7 | .f32 => 10 | .f64 => 11 | .b32 => 21 | .b64 => 22
/-- The atomic type a code names (R358). -/
def AtomTy.ofCode : Nat → AtomTy
  | 2 => .i32 | 3 => .i64 | 6 => .n32 | 7 => .n64 | 10 => .f32 | 11 => .f64 | 21 => .b32 | _ => .b64
/-- Type codes (R270). -/
def PackTy.code : PackTy → Nat
  | .i8 => 0 | .n8 => 4 | .e4m3 => 12 | .e5m2 => 13 | .e3m2 => 14 | .e2m3 => 15 | .e2m1 => 16 | .i4 => 18 | .n4 => 19
/-- The element type a code names (R339). -/
def PackTy.ofCode : Nat → PackTy
  | 0 => .i8 | 4 => .n8 | 12 => .e4m3 | 13 => .e5m2 | 14 => .e3m2 | 15 => .e2m3 | 16 => .e2m1 | 18 => .i4 | _ => .n4
/-- TYPE of a block element (R337). -/
def BlkElem.code : BlkElem → Nat
  | .e4m3 => 12 | .e5m2 => 13 | .e3m2 => 14 | .e2m3 => 15 | .e2m1 => 16 | .i8 => 0 | .i4 => 18 | .n4 => 19
  | .mxi8 => 0 | .mxi4 => 18 | .mxn4 => 19
/-- MINOR[7:5] of a block element: the implied factor (R337). -/
def BlkElem.imp : BlkElem → Nat
  | .mxi8 => 1 | .mxi4 => 2 | .mxn4 => 3
  | .e4m3 | .e5m2 | .e3m2 | .e2m3 | .e2m1 | .i8 | .i4 | .n4 => 0
/-- The block element a TYPE and an implied factor name (R337). -/
def BlkElem.ofCode (t imp : Nat) : BlkElem :=
  match imp with
  | 1 => .mxi8 | 2 => .mxi4 | 3 => .mxn4
  | _ => match t with
    | 12 => .e4m3 | 13 => .e5m2 | 14 => .e3m2 | 15 => .e2m3 | 16 => .e2m1 | 0 => .i8 | 18 => .i4 | _ => .n4
/-- Type codes (R270). -/
def BlkSrc.code : BlkSrc → Nat
  | .f16 => 8 | .bf16 => 9 | .f32 => 10
/-- The source type a code names (R337). -/
def BlkSrc.ofCode : Nat → BlkSrc
  | 8 => .f16 | 9 => .bf16 | _ => .f32
/-- RND codes (R238). -/
def Rnd.code : Rnd → Nat
  | .rne => 0 | .rz => 1 | .rdn => 2 | .rup => 3
/-- The rounding mode a code names (R238). -/
def Rnd.ofCode : Nat → Rnd
  | 0 => .rne | 1 => .rz | 2 => .rdn | _ => .rup
/-- SCOPE codes (R273). -/
def Scope.code : Scope → Nat
  | .group => 0 | .tray => 1 | .patch => 2 | .launch => 3 | .device => 4 | .system => 5
/-- The scope a code names (R273). -/
def Scope.ofCode : Nat → Scope
  | 0 => .group | 1 => .tray | 2 => .patch | 3 => .launch | 4 => .device | _ => .system
/-- SPACE codes (R273). -/
def Space.code : Space → Nat
  | .lp => 0 | .sp => 1 | .pm => 2 | .sh => 3 | .g => 4
/-- The space a code names (R273). -/
def Space.ofCode : Nat → Space
  | 0 => .lp | 1 => .sp | 2 => .pm | 3 => .sh | _ => .g
/-- SUB codes of movi (R309). -/
def MoviTy.code : MoviTy → Nat
  | .b32 => 0 | .i64 => 1 | .n64 => 2
/-- The form of movi a SUB names (R309). -/
def MoviTy.ofCode : Nat → MoviTy
  | 0 => .b32 | 1 => .i64 | _ => .n64
/-- Condition codes (R316). -/
def Cond.code : Cond → Nat
  | .eq => 0 | .ne => 1 | .lt => 2 | .le => 3 | .gt => 4 | .ge => 5
/-- The condition a code names (R316). -/
def Cond.ofCode : Nat → Cond
  | 0 => .eq | 1 => .ne | 2 => .lt | 3 => .le | 4 => .gt | _ => .ge
/-- SUB codes of setpi (R317). -/
def CondI.code : CondI → Nat
  | .eq => 0 | .ne => 1 | .lt => 2 | .le => 3 | .gt => 4 | .ge => 5 | .ltu => 6 | .geu => 7
/-- The condition a SUB names (R317). -/
def CondI.ofCode : Nat → CondI
  | 0 => .eq | 1 => .ne | 2 => .lt | 3 => .le | 4 => .gt | 5 => .ge | 6 => .ltu | _ => .geu
/-- Condition codes (R331). -/
def CondF.code : CondF → Nat
  | .eq => 0 | .ne => 1 | .lt => 2 | .le => 3 | .gt => 4 | .ge => 5 | .un => 6 | .ord => 7
/-- The condition a code names (R331). -/
def CondF.ofCode : Nat → CondF
  | 0 => .eq | 1 => .ne | 2 => .lt | 3 => .le | 4 => .gt | 5 => .ge | 6 => .un | _ => .ord
/-- The combination code and the C field (R316). -/
def Comb.code : Comb → Nat
  | .none => 0 | .and _ => 1 | .or _ => 2
/-- The C field of a combination (R316). -/
def Comb.c : Comb → Nat
  | .none => 0 | .and c => c.toNat | .or c => c.toNat
/-- The combination a code and a C field name (R316). -/
def Comb.ofCode (k c : Nat) : Comb :=
  match k with
  | 0 => .none | 1 => .and (BitVec.ofNat 3 c) | _ => .or (BitVec.ofNat 3 c)
/-- MINOR codes of pset (R318). -/
def PsetOp.code : PsetOp → Nat
  | .and => 0 | .or => 1 | .xor => 2 | .andn => 3 | .not => 4
/-- The operation a MINOR names (R318). -/
def PsetOp.ofCode : Nat → PsetOp
  | 0 => .and | 1 => .or | 2 => .xor | 3 => .andn | _ => .not
/-- Mode codes of shfl (R342). -/
def ShflMode.code : ShflMode → Nat
  | .id => 0 | .vl => 1 | .up => 2 | .down => 3 | .xor => 4
/-- The mode a MINOR names (R342). -/
def ShflMode.ofCode : Nat → ShflMode
  | 0 => .id | 1 => .vl | 2 => .up | 3 => .down | _ => .xor
/-- MINOR codes of vote (R343). -/
def VoteOp.code : VoteOp → Nat
  | .all => 0 | .any => 1 | .uni => 2
/-- The form a MINOR names (R343). -/
def VoteOp.ofCode : Nat → VoteOp
  | 0 => .all | 1 => .any | _ => .uni
/-- Operation codes of reduce and scan (R344). -/
def RedOp.code : RedOp → Nat
  | .add => 0 | .min => 1 | .max => 2 | .and => 3 | .or => 4 | .xor => 5
/-- The operation a code names (R344). -/
def RedOp.ofCode : Nat → RedOp
  | 0 => .add | 1 => .min | 2 => .max | 3 => .and | 4 => .or | _ => .xor
/-- Operation codes of atom and red (R358). -/
def AtomOp.code : AtomOp → Nat
  | .add => 0 | .min => 1 | .max => 2 | .and => 3 | .or => 4 | .xor => 5 | .exch => 6 | .addsat => 7
/-- The operation a code names (R358). -/
def AtomOp.ofCode : Nat → AtomOp
  | 0 => .add | 1 => .min | 2 => .max | 3 => .and | 4 => .or | 5 => .xor | 6 => .exch | _ => .addsat
/-- OP codes of the order of cas (R361). -/
def CasOrd.code : CasOrd → Nat
  | .none => 0 | .acq _ => 1 | .rel _ => 2 | .acqrel _ => 3
/-- The SCOPE field of an order of cas (R361). -/
def CasOrd.scope : CasOrd → Nat
  | .none => 0 | .acq s => s.code | .rel s => s.code | .acqrel s => s.code
/-- The order an OP and a SCOPE name (R361). -/
def CasOrd.ofCode (op sc : Nat) : CasOrd :=
  match op with
  | 0 => .none | 1 => .acq (Scope.ofCode sc) | 2 => .rel (Scope.ofCode sc) | _ => .acqrel (Scope.ofCode sc)
/-- Kind codes of fence (R362). -/
def FenceKind.code : FenceKind → Nat
  | .acq => 0 | .rel => 1 | .full => 2
/-- The kind a code names (R362). -/
def FenceKind.ofCode : Nat → FenceKind
  | 0 => .acq | 1 => .rel | _ => .full
/-- Matrix operand format codes (R229). -/
def Fmt.code : Fmt → Nat
  | .f64 => 0 | .f32 => 1 | .f16 => 2 | .bf16 => 3 | .e4m3 => 4 | .e5m2 => 5 | .mx8a => 6 | .mx8b => 7 | .mx4 => 8
  | .pg8 => 9 | .i8 => 10 | .n8 => 11 | .mxi8 => 12 | .e3m2 => 13 | .e2m3 => 14 | .e2m1 => 15 | .mx6a => 16
  | .mx6b => 17 | .pg6 => 18 | .pg4 => 19 | .i4 => 20 | .n4 => 21 | .mxi4 => 22 | .mxn4 => 23
/-- The format a code names (R229). -/
def Fmt.ofCode : Nat → Fmt
  | 0 => .f64 | 1 => .f32 | 2 => .f16 | 3 => .bf16 | 4 => .e4m3 | 5 => .e5m2 | 6 => .mx8a | 7 => .mx8b | 8 => .mx4
  | 9 => .pg8 | 10 => .i8 | 11 => .n8 | 12 => .mxi8 | 13 => .e3m2 | 14 => .e2m3 | 15 => .e2m1 | 16 => .mx6a
  | 17 => .mx6b | 18 => .pg6 | 19 => .pg4 | 20 => .i4 | 21 => .n4 | 22 => .mxi4 | _ => .mxn4

/-! Reading fields (R266, R268, R271 to R278) -/

/-- The guard of a word (R266). -/
def rdGuard (w : Nat) : Guard := ⟨bit w 55, BitVec.ofNat 3 (bits w 52 3)⟩
/-- A source field by its class bit (R268). -/
def rdSrc (k : Bool) (f : Nat) : Src :=
  if k then (if f < 128 then .s (BitVec.ofNat 6 f) else .imm (BitVec.ofNat 7 f)) else .v (BitVec.ofNat 8 f)
/-- A register field by its class bit (R268). -/
def rdReg (k : Bool) (f : Nat) : Reg :=
  if k then .s (BitVec.ofNat 6 f) else .v (BitVec.ofNat 8 f)
/-- A scalar source field whose class is fixed (R268). -/
def rdSSrc (f : Nat) : SSrc := if f < 128 then .s (BitVec.ofNat 6 f) else .imm (BitVec.ofNat 7 f)
/-- The D field, bits [51:44]. -/
def fD (w : Nat) : Nat := bits w 44 8
/-- The A field, bits [43:36]. -/
def fA (w : Nat) : Nat := bits w 36 8
/-- The B field, bits [35:28]. -/
def fB (w : Nat) : Nat := bits w 28 8
/-- The C field, bits [27:20]. -/
def fC (w : Nat) : Nat := bits w 20 8
/-- MINOR of format A, bits [19:12]. -/
def fMinor (w : Nat) : Nat := bits w 12 8
/-- TYPE of format A, bits [11:7]. -/
def fType (w : Nat) : Nat := bits w 7 5
/-- RND of format A, bits [6:4]. -/
def fRnd (w : Nat) : Nat := bits w 4 3
/-- D of format A by KIND bit 3. -/
def rdD (w : Nat) : Reg := rdReg (bit w 3) (fD w)
/-- A of format A as a register, by KIND bit 2. -/
def rdAR (w : Nat) : Reg := rdReg (bit w 2) (fA w)
/-- A of format A by KIND bit 2. -/
def rdA (w : Nat) : Src := rdSrc (bit w 2) (fA w)
/-- B of format A by KIND bit 1. -/
def rdB (w : Nat) : Src := rdSrc (bit w 1) (fB w)
/-- C of format A by KIND bit 0. -/
def rdC (w : Nat) : Src := rdSrc (bit w 0) (fC w)
/-- An 8-bit vector number in D. -/
def dV (w : Nat) : BitVec 8 := BitVec.ofNat 8 (fD w)
/-- A scalar or tile number in D. -/
def dS (w : Nat) : BitVec 6 := BitVec.ofNat 6 (fD w)
/-- A predicate or modulo number in D. -/
def dP (w : Nat) : BitVec 3 := BitVec.ofNat 3 (fD w)
/-- An 8-bit vector number in A. -/
def aV (w : Nat) : BitVec 8 := BitVec.ofNat 8 (fA w)
/-- A scalar or tile number in A. -/
def aS (w : Nat) : BitVec 6 := BitVec.ofNat 6 (fA w)
/-- A predicate or modulo number in A. -/
def aP (w : Nat) : BitVec 3 := BitVec.ofNat 3 (fA w)
/-- A predicate or modulo number in B. -/
def bP (w : Nat) : BitVec 3 := BitVec.ofNat 3 (fB w)
/-- An 8-bit number in B. -/
def bV (w : Nat) : BitVec 8 := BitVec.ofNat 8 (fB w)
/-- A predicate number in C. -/
def cP (w : Nat) : BitVec 3 := BitVec.ofNat 3 (fC w)
/-- An 8-bit number in C. -/
def cV (w : Nat) : BitVec 8 := BitVec.ofNat 8 (fC w)
/-- The immediate of format I, bits [31:0]. -/
def fImm (w : Nat) : BitVec 32 := BitVec.ofNat 32 (bits w 0 32)
/-- SUB of format I, bits [34:32]. -/
def fSub (w : Nat) : Nat := bits w 32 3
/-- D of format I by SCL (R272). -/
def iD (w : Nat) : Reg := rdReg (bit w 35) (fD w)
/-- A of format I by SCL (R272). -/
def iA (w : Nat) : Src := rdSrc (bit w 35) (fA w)
/-- OFF of format B, bits [51:32]. -/
def fOff (w : Nat) : BitVec 20 := BitVec.ofNat 20 (bits w 32 20)
/-- SPACE of format M, bits [27:24]. -/
def mSpace (w : Nat) : Space := Space.ofCode (bits w 24 4)
/-- TYPE of format M, bits [23:19]. -/
def mType (w : Nat) : Nat := bits w 19 5
/-- SCOPE of format M, bits [18:16]. -/
def mScope (w : Nat) : Scope := Scope.ofCode (bits w 16 3)
/-- OP of format M, bits [15:12]. -/
def mOp (w : Nat) : Nat := bits w 12 4
/-- OFF of format M, bits [9:0]. -/
def mOff (w : Nat) : BitVec 10 := BitVec.ofNat 10 (bits w 0 10)
/-- A of format M by KA. -/
def mA (w : Nat) : Src := rdSrc (bit w 11) (fA w)
/-- B of format M by KB. -/
def mB (w : Nat) : Src := rdSrc (bit w 10) (fB w)
/-- The address operands of format M. -/
def mOpd (w : Nat) : MemOpd := ⟨mA w, mB w, mOff w⟩
/-- The order of an atomic: OP[3] and SCOPE (R358). -/
def mOrd (w : Nat) : Option Scope := if bit w 15 then some (mScope w) else none
/-- FA of format X, bits [19:15]. -/
def xFA (w : Nat) : Fmt := Fmt.ofCode (bits w 15 5)
/-- FB of format X, bits [14:10]. -/
def xFB (w : Nat) : Fmt := Fmt.ofCode (bits w 10 5)
/-- SHAPE of format X, bits [9:4]. -/
def xShape (w : Nat) : Nat := bits w 4 6
/-- CHAIN of format E, bits [35:30]. -/
def eChain (w : Nat) : BitVec 6 := BitVec.ofNat 6 (bits w 30 6)
/-- The flags of format E, bits [29:24]. -/
def eFlags (w : Nat) : EFlags := ⟨Scope.ofCode (bits w 27 3), bit w 26, bit w 25, bit w 24⟩
/-- NUM of format S, bits [35:24]. -/
def sNum (w : Nat) : Nat := bits w 24 12
/-- MINOR of format S, bits [23:16]. -/
def sMinor (w : Nat) : Nat := bits w 16 8

/-- The operation of bpctl that MINOR names (R409). -/
def rdBp (w : Nat) : BpOp :=
  match sMinor w with
  | 0 => .wbp (BitVec.ofNat 4 (sNum w)) (rdSSrc (fA w))
  | 1 => .rbp (dS w) (BitVec.ofNat 4 (sNum w))
  | 2 => .wwp0 (BitVec.ofNat 3 (sNum w)) (rdSSrc (fA w))
  | 3 => .wwp1 (BitVec.ofNat 3 (sNum w)) (rdSSrc (fA w))
  | 4 => .rwp0 (dS w) (BitVec.ofNat 3 (sNum w))
  | _ => .rwp1 (dS w) (BitVec.ofNat 3 (sNum w))

/-- The query of ident that NUM names (R410). -/
def rdIdent (w : Nat) : IdentQ :=
  match sNum w with
  | 0 => .dxy (dS w) | 1 => .tray (dS w) | 2 => .patch (dS w) | 3 => .group (dS w)
  | 4 => .vlane (dV w) | 5 => .lane (dV w) | 6 => .stage (dS w) | _ => .handler (dS w)

/-- The special register that NUM names (R402). -/
def rdSpecR (w : Nat) : RdSpec :=
  match sNum w with
  | 0 => .pcv (dV w) | 1 => .lanemap (dV w) | 2 => .gang (dS w) | _ => .fstat (dS w)

/-- The instruction the fields of a word name, before its reserved fields are checked; none for a major opcode that R279 leaves unassigned, and for
0x00 (R281). -/
def parse (w : Nat) : Option Instr :=
  match bits w 56 8 with
  | 0x01 => some (.nop (rdGuard w))
  | 0x02 => some (.bra (rdGuard w) (fOff w))
  | 0x03 => some (.brx (rdGuard w) (rdAR w))
  | 0x04 => some (.call (rdGuard w) (fOff w))
  | 0x05 => some (.callx (rdGuard w) (rdD w) (rdAR w))
  | 0x06 => some (.ret (rdGuard w) (rdAR w))
  | 0x07 => some (.exit (rdGuard w))
  | 0x08 => some (.rbar (rdGuard w))
  | 0x09 => some (.yield (rdGuard w))
  | 0x0A => some (.sleepuntil (rdGuard w) (aS w))
  | 0x0B => some (.trap (rdGuard w) (BitVec.ofNat 8 (fMinor w)))
  | 0x0C => some (.loop (rdGuard w) (BitVec.ofNat 6 (bits w 24 8)) (fOff w))
  | 0x10 => some (.mov (rdGuard w) (BitTy.ofCode (fType w)) (rdD w) (rdA w))
  | 0x11 => some (.movi (rdGuard w) (MoviTy.ofCode (fSub w)) (iD w) (fImm w))
  | 0x12 => some (.movih (rdGuard w) (iD w) (fImm w))
  | 0x13 => some (.add (rdGuard w) (IntTy.ofCode (fType w)) (rdD w) (rdA w) (rdB w))
  | 0x14 => some (.sub (rdGuard w) (IntTy.ofCode (fType w)) (rdD w) (rdA w) (rdB w))
  | 0x15 => some (.addi (rdGuard w) (IntTy.ofSub (fSub w)) (iD w) (iA w) (fImm w))
  | 0x16 => some (.mul (rdGuard w) (IntTy.ofCode (fType w)) (rdD w) (rdA w) (rdB w))
  | 0x17 => some (.mulhi (rdGuard w) (IntTy.ofCode (fType w)) (rdD w) (rdA w) (rdB w))
  | 0x18 => some (.mad (rdGuard w) (IntTy.ofCode (fType w)) (rdD w) (rdA w) (rdB w) (rdC w))
  | 0x19 => some (.div (rdGuard w) (IntTy.ofCode (fType w)) (rdD w) (rdA w) (rdB w))
  | 0x1A => some (.rem (rdGuard w) (IntTy.ofCode (fType w)) (rdD w) (rdA w) (rdB w))
  | 0x1B => some (.min (rdGuard w) (IntTy.ofCode (fType w)) (rdD w) (rdA w) (rdB w))
  | 0x1C => some (.max (rdGuard w) (IntTy.ofCode (fType w)) (rdD w) (rdA w) (rdB w))
  | 0x1D => some (.abs (rdGuard w) (IntTy.ofCode (fType w)) (rdD w) (rdA w))
  | 0x1E => some (.neg (rdGuard w) (IntTy.ofCode (fType w)) (rdD w) (rdA w))
  | 0x1F => some (.addsat (rdGuard w) (IntTy.ofCode (fType w)) (rdD w) (rdA w) (rdB w))
  | 0x20 => some (.and (rdGuard w) (BitTy.ofCode (fType w)) (rdD w) (rdA w) (rdB w))
  | 0x21 => some (.or (rdGuard w) (BitTy.ofCode (fType w)) (rdD w) (rdA w) (rdB w))
  | 0x22 => some (.xor (rdGuard w) (BitTy.ofCode (fType w)) (rdD w) (rdA w) (rdB w))
  | 0x23 => some (.not (rdGuard w) (BitTy.ofCode (fType w)) (rdD w) (rdA w))
  | 0x24 => some (.andn (rdGuard w) (BitTy.ofCode (fType w)) (rdD w) (rdA w) (rdB w))
  | 0x25 => some (.andi (rdGuard w) (BitTy.ofSub (fSub w)) (iD w) (iA w) (fImm w))
  | 0x26 => some (.ori (rdGuard w) (BitTy.ofSub (fSub w)) (iD w) (iA w) (fImm w))
  | 0x27 => some (.xori (rdGuard w) (BitTy.ofSub (fSub w)) (iD w) (iA w) (fImm w))
  | 0x28 => some (.shl (rdGuard w) (BitTy.ofCode (fType w)) (rdD w) (rdA w) (rdB w))
  | 0x29 => some (.shr (rdGuard w) (BitTy.ofCode (fType w)) (rdD w) (rdA w) (rdB w))
  | 0x2A => some (.sar (rdGuard w) (BitTy.ofCode (fType w)) (rdD w) (rdA w) (rdB w))
  | 0x2B => some (.rot (rdGuard w) (BitTy.ofCode (fType w)) (rdD w) (rdA w) (rdB w))
  | 0x2C => some (.shli (rdGuard w) (BitTy.ofSub (fSub w)) (iD w) (iA w) (fImm w))
  | 0x2D => some (.shri (rdGuard w) (BitTy.ofSub (fSub w)) (iD w) (iA w) (fImm w))
  | 0x2E => some (.sari (rdGuard w) (BitTy.ofSub (fSub w)) (iD w) (iA w) (fImm w))
  | 0x2F => some (.clamp (rdGuard w) (IntTy.ofCode (fType w)) (rdD w) (rdA w) (rdB w) (rdC w))
  | 0x30 => some (.setp (rdGuard w) (Cond.ofCode (bits w 12 3)) (Comb.ofCode (bits w 15 2) (fC w)) (IntTy.ofCode (fType w))
      (dP w) (rdA w) (rdB w))
  | 0x31 => some (.setpi (rdGuard w) (CondI.ofCode (fSub w)) (dP w) (iA w) (fImm w))
  | 0x32 => some (.sel (rdGuard w) (BitTy.ofCode (fType w)) (dV w) (rdA w) (rdB w) (cP w))
  | 0x33 => some (.bfe (rdGuard w) (IntTy.ofCode (fType w)) (rdD w) (rdA w) (rdB w) (rdC w))
  | 0x34 => some (.bfi (rdGuard w) (BitTy.ofCode (fType w)) (rdD w) (rdA w) (rdB w) (rdC w))
  | 0x35 => some (.popc (rdGuard w) (BitTy.ofCode (fType w)) (rdD w) (rdA w))
  | 0x36 => some (.clz (rdGuard w) (BitTy.ofCode (fType w)) (rdD w) (rdA w))
  | 0x37 => some (.ctz (rdGuard w) (BitTy.ofCode (fType w)) (rdD w) (rdA w))
  | 0x38 => some (.brev (rdGuard w) (BitTy.ofCode (fType w)) (rdD w) (rdA w))
  | 0x39 => some (.cvti (rdGuard w) (Ty.ofCode (fType w)) (Ty.ofCode (bits w 12 5)) (bit w 17) (rdD w) (rdA w))
  | 0x3A => some (.lea (rdGuard w) (BitVec.ofNat 3 (bits w 12 3)) (rdD w) (rdA w) (rdB w))
  | 0x3B => some (.pset (rdGuard w) (PsetOp.ofCode (fMinor w)) (dP w) (aP w) (bP w))
  | 0x3C => some (.smov (rdGuard w) (BitTy.ofCode (fType w)) (dS w) (aV w) (if bit w 12 then some (rdSSrc (fB w)) else none))
  | 0x3D => some (.bswap (rdGuard w) (BitTy.ofCode (fType w)) (rdD w) (rdA w))
  | 0x40 => some (.fadd (rdGuard w) (FTy.ofCode (fType w)) (Rnd.ofCode (fRnd w)) (rdD w) (rdA w) (rdB w))
  | 0x41 => some (.fsub (rdGuard w) (FTy.ofCode (fType w)) (Rnd.ofCode (fRnd w)) (rdD w) (rdA w) (rdB w))
  | 0x42 => some (.fmul (rdGuard w) (FTy.ofCode (fType w)) (Rnd.ofCode (fRnd w)) (rdD w) (rdA w) (rdB w))
  | 0x43 => some (.fma (rdGuard w) (FTy.ofCode (fType w)) (Rnd.ofCode (fRnd w)) (rdD w) (rdA w) (rdB w) (rdC w))
  | 0x44 => some (.fdiv (rdGuard w) (FTy.ofCode (fType w)) (Rnd.ofCode (fRnd w)) (rdD w) (rdA w) (rdB w))
  | 0x45 => some (.fmin (rdGuard w) (FTy.ofCode (fType w)) (bit w 12) (rdD w) (rdA w) (rdB w))
  | 0x46 => some (.fmax (rdGuard w) (FTy.ofCode (fType w)) (bit w 12) (rdD w) (rdA w) (rdB w))
  | 0x47 => some (.fabs (rdGuard w) (FTy.ofCode (fType w)) (rdD w) (rdA w))
  | 0x48 => some (.fneg (rdGuard w) (FTy.ofCode (fType w)) (rdD w) (rdA w))
  | 0x49 => some (.fsetp (rdGuard w) (CondF.ofCode (bits w 12 3)) (Comb.ofCode (bits w 15 2) (fC w)) (FTy.ofCode (fType w))
      (dP w) (rdA w) (rdB w))
  | 0x4A => some (.fclass (rdGuard w) (FTy.ofCode (fType w)) (rdD w) (rdA w))
  | 0x4B => some (.fmovi (rdGuard w) (FTy.ofSub (fSub w)) (iD w) (fImm w))
  | 0x4C => some (.frnd (rdGuard w) (FTy.ofCode (fType w)) (Rnd.ofCode (fRnd w)) (bit w 12) (rdD w) (rdA w))
  | 0x4D => some (.fscale (rdGuard w) (FTy.ofCode (fType w)) (Rnd.ofCode (fRnd w)) (rdD w) (rdA w) (rdB w))
  | 0x4E => some (.fdot2 (rdGuard w) (bit w 12) (Rnd.ofCode (fRnd w)) (rdD w) (rdA w) (rdB w) (rdC w))
  | 0x50 => some (.cvt (rdGuard w) (Ty.ofCode (fType w)) (Ty.ofCode (bits w 12 5)) (bit w 17)
      (if fRnd w == 4 then .rsto (rdB w) (rdC w) else .mode (Rnd.ofCode (fRnd w))) (rdD w) (rdA w))
  | 0x51 => some (.cvtblk (rdGuard w) (BlkElem.ofCode (fType w) (bits w 17 3)) (BlkSrc.ofCode (bits w 12 5))
      (if fRnd w == 4 then .rsto (rdSSrc (fC w)) else .mode (Rnd.ofCode (fRnd w))) (rdD w) (rdA w) (rdSSrc (fB w)))
  | 0x52 => some (.cvtsc (rdGuard w) (BlkElem.ofCode (fType w) (bits w 17 3)) (BlkSrc.ofCode (bits w 12 5)) (dS w) (rdA w))
  | 0x53 => some (.pack (rdGuard w) (PackTy.ofCode (fType w)) (dV w) (rdA w))
  | 0x54 => some (.unpack (rdGuard w) (PackTy.ofCode (fType w)) (dV w) (rdA w))
  | 0x60 => some (.exp2 (rdGuard w) (Rnd.ofCode (fRnd w)) (rdD w) (rdA w))
  | 0x61 => some (.log2 (rdGuard w) (Rnd.ofCode (fRnd w)) (rdD w) (rdA w))
  | 0x62 => some (.rcp (rdGuard w) (Rnd.ofCode (fRnd w)) (rdD w) (rdA w))
  | 0x63 => some (.rsqrt (rdGuard w) (Rnd.ofCode (fRnd w)) (rdD w) (rdA w))
  | 0x64 => some (.sqrt (rdGuard w) (Rnd.ofCode (fRnd w)) (rdD w) (rdA w))
  | 0x65 => some (.tanh (rdGuard w) (Rnd.ofCode (fRnd w)) (rdD w) (rdA w))
  | 0x66 => some (.sigmoid (rdGuard w) (Rnd.ofCode (fRnd w)) (rdD w) (rdA w))
  | 0x67 => some (.sinpi (rdGuard w) (Rnd.ofCode (fRnd w)) (rdD w) (rdA w))
  | 0x68 => some (.cospi (rdGuard w) (Rnd.ofCode (fRnd w)) (rdD w) (rdA w))
  | 0x70 => some (.shfl (rdGuard w) (BitTy.ofCode (fType w)) (ShflMode.ofCode (fMinor w)) (dV w) (rdA w) (rdB w) (cP w))
  | 0x71 => some (.vote (rdGuard w) (VoteOp.ofCode (fMinor w)) (dP w) (aP w))
  | 0x72 => some (.ballot (rdGuard w) (rdD w) (aP w))
  | 0x73 => some (.reduce (rdGuard w) (RedOp.ofCode (bits w 12 3)) (RedTy.ofCode (fType w)) (Rnd.ofCode (fRnd w)) (rdD w) (rdA w))
  | 0x74 => some (.scan (rdGuard w) (RedOp.ofCode (bits w 12 3)) (bit w 15) (RedTy.ofCode (fType w)) (Rnd.ofCode (fRnd w))
      (dV w) (rdA w))
  | 0x75 => some (.sample (rdGuard w) (rdD w) (rdA w) (rdB w) (cP w))
  | 0x76 => some (.leaven (rdGuard w) (bit w 12) (rdD w) (rdA w) (rdB w))
  | 0x77 => some (.matchLanes (rdGuard w) (if bit w 12 then some (cP w) else none) (BitTy.ofCode (fType w)) (dV w) (rdA w))
  | 0x80 => some (.ld (rdGuard w) (mSpace w) (Ty.ofCode (mType w)) (dV w) (mOpd w))
  | 0x81 => some (.st (rdGuard w) (mSpace w) (Ty.ofCode (mType w)) (dV w) (mOpd w))
  | 0x82 => some (.ldm (rdGuard w) (Ty.ofCode (mType w)) (dV w) (bP w) (mA w))
  | 0x83 => some (.stm (rdGuard w) (Ty.ofCode (mType w)) (dV w) (bP w) (mA w))
  | 0x84 => some (.ldacq (rdGuard w) (mSpace w) (AtomTy.ofCode (mType w)) (mScope w) (dV w) (mOpd w))
  | 0x85 => some (.strel (rdGuard w) (mSpace w) (AtomTy.ofCode (mType w)) (mScope w) (dV w) (mOpd w))
  | 0x86 => some (.pref (rdGuard w) (bit w 12) (mSpace w) (Ty.ofCode (mType w)) (mOpd w))
  | 0x87 => some (.rflush (rdGuard w) (rdSSrc (fA w)) (rdSSrc (fB w)))
  | 0x88 => some (.atom (rdGuard w) (AtomOp.ofCode (bits w 12 3)) (mOrd w) (mSpace w) (AtomTy.ofCode (mType w)) (dV w) (mOpd w))
  | 0x89 => some (.red (rdGuard w) (AtomOp.ofCode (bits w 12 3)) (mOrd w) (mSpace w) (AtomTy.ofCode (mType w)) (dV w) (mOpd w))
  | 0x8A => some (.cas (rdGuard w) (CasOrd.ofCode (mOp w) (bits w 16 3)) (mSpace w) (BitTy.ofCode (mType w)) (dV w) (mA w) (mOff w)
      (mB w))
  | 0x8C => some (.fence (rdGuard w) (FenceKind.ofCode (bits w 12 2)) (Scope.ofCode (bits w 16 3)))
  | 0x8D => some (.freeze (rdGuard w) (dS w) (rdSSrc (fA w)) (rdSSrc (fB w)))
  | 0x8E => some (.thaw (rdGuard w) (dS w) (rdSSrc (fA w)) (rdSSrc (fB w)))
  | 0x90 => some (.mset (rdGuard w) (dP w) (rdSSrc (fA w)))
  | 0x91 => some (.mget (rdGuard w) (dS w) (aP w))
  | 0xB0 => some (.bar (rdGuard w) (bit w 15) (Scope.ofCode (bits w 12 3)))
  | 0xB1 => some (.arrive (rdGuard w) (mScope w) (dV w) (mOpd w))
  | 0xB2 => some (.swait (rdGuard w) (dV w) (mOpd w))
  | 0xB3 => some (.qpush (rdGuard w) (dS w) (rdSSrc (fA w)))
  | 0xB4 => some (.qpop (rdGuard w) (dS w) (rdSSrc (fA w)) (cP w))
  | 0xB5 => some (.waitseq (rdGuard w) (Scope.ofCode (bits w 12 3)) (rdSSrc (fA w)) (rdSSrc (fB w)))
  | 0xC0 => some (.mma (rdGuard w) (bit w 0) (xFA w) (xFB w) (dS w) (aV w) (bV w) (cV w))
  | 0xC1 => some (.mmag (rdGuard w) (bit w 0) (xFA w) (xFB w) (dS w) (rdSSrc (fA w)) (bV w) (cV w))
  | 0xC2 => some (.ldacc (rdGuard w) (Space.ofCode (bits w 4 3)) (dS w) (rdSSrc (fA w)) (rdSSrc (fB w)))
  | 0xC3 => some (.stacc (rdGuard w) (Space.ofCode (bits w 4 3)) (dS w) (rdSSrc (fA w)) (rdSSrc (fB w)))
  | 0xC4 => some (.zacc (rdGuard w) (dS w) (BitVec.ofNat 6 (xShape w)))
  | 0xC5 => some (.attn (rdGuard w) (BitVec.ofNat 3 (bits w 4 3)) (dS w) (aV w) (rdSSrc (fB w)) (rdSSrc (fC w)))
  | 0xC6 => some (.attnClose (rdGuard w) (dS w))
  | 0xC7 => some (.rescale (rdGuard w) (dP w) (aS w))
  | 0xC8 => some (if bit w 0 then .tilebarWait (rdGuard w) (dS w) (aS w) (rdSSrc (fB w)) else .tilebarRel (rdGuard w) (aS w))
  | 0xC9 => some (.slot (rdGuard w) (dV w) (aV w) (rdSSrc (fB w)) (cP w))
  | 0xCA => some (.btswap (rdGuard w) (rdSSrc (fA w)) (BitVec.ofNat 2 (bits w 4 2)))
  | 0xCB => some (.ldfrag (rdGuard w) (xFA w) (dV w) (rdSSrc (fA w)) (rdSSrc (fB w)))
  | 0xCC => some (.accrd (rdGuard w) (bit w 0) (dV w) (aS w) (bV w) (BitVec.ofNat 6 (xShape w)))
  | 0xCD => some (.accwr (rdGuard w) (bit w 0) (dS w) (aV w) (bV w) (BitVec.ofNat 6 (xShape w)))
  | 0xE0 => some (.append (rdGuard w) (eFlags w) (BitVec.ofNat 16 (bits w 8 16)) (dS w) (rdSSrc (fA w)) (eChain w))
  | 0xE1 => some (.copy (rdGuard w) (eFlags w) (dS w) (rdSSrc (fA w)) (eChain w))
  | 0xE2 => some (.stream (rdGuard w) (eFlags w) (dS w) (rdSSrc (fA w)) (eChain w))
  | 0xE3 => some (.gather (rdGuard w) (eFlags w) (dS w) (rdSSrc (fA w)) (eChain w))
  | 0xE4 => some (.select (rdGuard w) (eFlags w) (dS w) (rdSSrc (fA w)) (eChain w))
  | 0xE5 => some (.coll (rdGuard w) (eFlags w) (dS w) (rdSSrc (fA w)) (eChain w))
  | 0xE6 => some (.demote (rdGuard w) (eFlags w) (dS w) (rdSSrc (fA w)) (eChain w))
  | 0xE7 => some (.migrate (rdGuard w) (eFlags w) (dS w) (rdSSrc (fA w)) (eChain w))
  | 0xF0 => some (.rdctl (rdGuard w) (dS w) (BitVec.ofNat 12 (sNum w)))
  | 0xF1 => some (.wrctl (rdGuard w) (BitVec.ofNat 12 (sNum w)) (rdSSrc (fA w)))
  | 0xF2 => some (.rdspec (rdGuard w) (rdSpecR w))
  | 0xF3 => some (.wrspec (rdGuard w) (if bit w 24 then .fstat else .gang) (rdSSrc (fA w)))
  | 0xF4 => some (.origin (rdGuard w) (dV w) (BitVec.ofNat 3 (sNum w)))
  | 0xF5 => some (match sMinor w with
      | 0 => .rteResume (rdGuard w) | 1 => .rteSkip (rdGuard w) | _ => .rteKill (rdGuard w))
  | 0xF6 => some (.locality (rdGuard w) (dS w))
  | 0xF7 => some (.rdtime (rdGuard w) (dS w))
  | 0xF8 => some (if bit w 16 then .logctlFlush (rdGuard w) else .logctlMode (rdGuard w) (dS w))
  | 0xF9 => some (.mark (rdGuard w) (rdSSrc (fA w)) (rdSSrc (fD w)))
  | 0xFA => some (.bpctl (rdGuard w) (rdBp w))
  | 0xFB => some (.ident (rdGuard w) (rdIdent w))
  | 0xFC => some (.rdcnt (rdGuard w) (dS w) (BitVec.ofNat 2 (sNum w)))
  | 0xFF => some (.blockHeader ⟨BitVec.ofNat 8 (bits w 48 8), BitVec.ofNat 8 (bits w 40 8), BitVec.ofNat 20 (bits w 20 20),
      BitVec.ofNat 12 (bits w 8 12), BitVec.ofNat 8 (bits w 0 8)⟩)
  | _ => none

/-! The encoder (the same tables, read the other way) -/

/-- The guard field (R266). -/
def Guard.code (g : Guard) : Nat := g.neg.toNat * 8 + g.pred.toNat
/-- The field of a source (R268). -/
def Src.field : Src → Nat
  | .v n => n.toNat | .s n => n.toNat | .imm k => 128 + k.toNat
/-- The class bit of a source (R268). -/
def Src.kind : Src → Nat
  | .v _ => 0 | .s _ => 1 | .imm _ => 1
/-- The field of a register operand (R268). -/
def Reg.field : Reg → Nat
  | .v n => n.toNat | .s n => n.toNat
/-- The class bit of a register operand (R268). -/
def Reg.kind : Reg → Nat
  | .v _ => 0 | .s _ => 1
/-- The field of a scalar source (R268). -/
def SSrc.field : SSrc → Nat
  | .s n => n.toNat | .imm k => 128 + k.toNat

/-- Format A (R271). -/
def encA (major : Nat) (g : Guard) (d a b c minor type rnd kind : Nat) : Nat :=
  major * 2 ^ 56 + g.code * 2 ^ 52 + d * 2 ^ 44 + a * 2 ^ 36 + b * 2 ^ 28 + c * 2 ^ 20 + minor * 2 ^ 12 + type * 2 ^ 7 +
    rnd * 2 ^ 4 + kind
/-- Format I (R272). -/
def encI (major : Nat) (g : Guard) (d a scl sub : Nat) (imm : BitVec 32) : Nat :=
  major * 2 ^ 56 + g.code * 2 ^ 52 + d * 2 ^ 44 + a * 2 ^ 36 + scl * 2 ^ 35 + sub * 2 ^ 32 + imm.toNat
/-- Format M (R273). -/
def encM (major : Nat) (g : Guard) (d a b space type scope op ka kb off : Nat) : Nat :=
  major * 2 ^ 56 + g.code * 2 ^ 52 + d * 2 ^ 44 + a * 2 ^ 36 + b * 2 ^ 28 + space * 2 ^ 24 + type * 2 ^ 19 + scope * 2 ^ 16 +
    op * 2 ^ 12 + ka * 2 ^ 11 + kb * 2 ^ 10 + off
/-- Format M with the address operands of R273. -/
def encMem (major : Nat) (g : Guard) (d : Nat) (m : MemOpd) (space type scope op : Nat) : Nat :=
  encM major g d m.a.field m.b.field space type scope op m.a.kind m.b.kind m.off.toNat
/-- Format B (R274). -/
def encB (major : Nat) (g : Guard) (off : BitVec 20) (a : Nat) : Nat :=
  major * 2 ^ 56 + g.code * 2 ^ 52 + off.toNat * 2 ^ 32 + a * 2 ^ 24
/-- Format X (R275). -/
def encX (major : Nat) (g : Guard) (d a b c fa fb shape xfl : Nat) : Nat :=
  major * 2 ^ 56 + g.code * 2 ^ 52 + d * 2 ^ 44 + a * 2 ^ 36 + b * 2 ^ 28 + c * 2 ^ 20 + fa * 2 ^ 15 + fb * 2 ^ 10 +
    shape * 2 ^ 4 + xfl
/-- Format E (R276). -/
def encE (major : Nat) (g : Guard) (f : EFlags) (kflags : Nat) (d : BitVec 6) (a : SSrc) (chain : BitVec 6) : Nat :=
  major * 2 ^ 56 + g.code * 2 ^ 52 + d.toNat * 2 ^ 44 + a.field * 2 ^ 36 + chain.toNat * 2 ^ 30 + f.scope.code * 2 ^ 27 +
    f.acq.toNat * 2 ^ 26 + f.rel.toNat * 2 ^ 25 + f.irq.toNat * 2 ^ 24 + kflags * 2 ^ 8
/-- Format S (R277). -/
def encS (major : Nat) (g : Guard) (d a num minor : Nat) : Nat :=
  major * 2 ^ 56 + g.code * 2 ^ 52 + d * 2 ^ 44 + a * 2 ^ 36 + num * 2 ^ 24 + minor * 2 ^ 16
/-- Format H (R278). -/
def encH (h : Header) : Nat :=
  0xFF * 2 ^ 56 + h.count.toNat * 2 ^ 48 + h.live.toNat * 2 ^ 40 + h.reconv.toNat * 2 ^ 20 + h.hint.toNat * 2 ^ 8 + h.flags.toNat

/-- Format A with one source. -/
def encA1 (major : Nat) (g : Guard) (minor type rnd : Nat) (d : Reg) (a : Src) : Nat :=
  encA major g d.field a.field 0 0 minor type rnd (d.kind * 8 + a.kind * 4)
/-- Format A with two sources. -/
def encA2 (major : Nat) (g : Guard) (minor type rnd : Nat) (d : Reg) (a b : Src) : Nat :=
  encA major g d.field a.field b.field 0 minor type rnd (d.kind * 8 + a.kind * 4 + b.kind * 2)
/-- Format A with three sources. -/
def encA3 (major : Nat) (g : Guard) (minor type rnd : Nat) (d : Reg) (a b c : Src) : Nat :=
  encA major g d.field a.field b.field c.field minor type rnd (d.kind * 8 + a.kind * 4 + b.kind * 2 + c.kind)

/-- The OP of an atomic (R358). -/
def atomOp (o : AtomOp) (ord : Option Scope) : Nat := o.code + ord.isSome.toNat * 8
/-- The SCOPE of an atomic (R358). -/
def atomScope (ord : Option Scope) : Nat := (ord.map Scope.code).getD 0

/-- The 64-bit word of an instruction, as a number; 0 for a step that is no word. -/
def encode : Instr → Nat
  | .nop g => encA 0x01 g 0 0 0 0 0 0 0 0
  | .bra g off => encB 0x02 g off 0
  | .brx g a => encA 0x03 g 0 a.field 0 0 0 0 0 (a.kind * 4)
  | .call g off => encB 0x04 g off 0
  | .callx g d a => encA 0x05 g d.field a.field 0 0 0 0 0 (d.kind * 8 + a.kind * 4)
  | .ret g a => encA 0x06 g 0 a.field 0 0 0 0 0 (a.kind * 4)
  | .exit g => encA 0x07 g 0 0 0 0 0 0 0 0
  | .rbar g => encA 0x08 g 0 0 0 0 0 0 0 0
  | .yield g => encA 0x09 g 0 0 0 0 0 0 0 0
  | .sleepuntil g a => encA 0x0A g 0 a.toNat 0 0 0 0 0 4
  | .trap g code => encA 0x0B g 0 0 0 0 code.toNat 0 0 0
  | .loop g a off => encB 0x0C g off a.toNat
  | .mov g t d a => encA1 0x10 g 0 t.code 0 d a
  | .movi g t d imm => encI 0x11 g d.field 0 d.kind t.code imm
  | .movih g d imm => encI 0x12 g d.field 0 d.kind 0 imm
  | .add g t d a b => encA2 0x13 g 0 t.code 0 d a b
  | .sub g t d a b => encA2 0x14 g 0 t.code 0 d a b
  | .addi g t d a imm => encI 0x15 g d.field a.field d.kind t.sub imm
  | .mul g t d a b => encA2 0x16 g 0 t.code 0 d a b
  | .mulhi g t d a b => encA2 0x17 g 0 t.code 0 d a b
  | .mad g t d a b c => encA3 0x18 g 0 t.code 0 d a b c
  | .div g t d a b => encA2 0x19 g 0 t.code 0 d a b
  | .rem g t d a b => encA2 0x1A g 0 t.code 0 d a b
  | .min g t d a b => encA2 0x1B g 0 t.code 0 d a b
  | .max g t d a b => encA2 0x1C g 0 t.code 0 d a b
  | .abs g t d a => encA1 0x1D g 0 t.code 0 d a
  | .neg g t d a => encA1 0x1E g 0 t.code 0 d a
  | .addsat g t d a b => encA2 0x1F g 0 t.code 0 d a b
  | .and g t d a b => encA2 0x20 g 0 t.code 0 d a b
  | .or g t d a b => encA2 0x21 g 0 t.code 0 d a b
  | .xor g t d a b => encA2 0x22 g 0 t.code 0 d a b
  | .not g t d a => encA1 0x23 g 0 t.code 0 d a
  | .andn g t d a b => encA2 0x24 g 0 t.code 0 d a b
  | .andi g t d a imm => encI 0x25 g d.field a.field d.kind t.sub imm
  | .ori g t d a imm => encI 0x26 g d.field a.field d.kind t.sub imm
  | .xori g t d a imm => encI 0x27 g d.field a.field d.kind t.sub imm
  | .shl g t d a b => encA2 0x28 g 0 t.code 0 d a b
  | .shr g t d a b => encA2 0x29 g 0 t.code 0 d a b
  | .sar g t d a b => encA2 0x2A g 0 t.code 0 d a b
  | .rot g t d a b => encA2 0x2B g 0 t.code 0 d a b
  | .shli g t d a imm => encI 0x2C g d.field a.field d.kind t.sub imm
  | .shri g t d a imm => encI 0x2D g d.field a.field d.kind t.sub imm
  | .sari g t d a imm => encI 0x2E g d.field a.field d.kind t.sub imm
  | .clamp g t d a b c => encA3 0x2F g 0 t.code 0 d a b c
  | .setp g c k t d a b =>
    encA 0x30 g d.toNat a.field b.field k.c (c.code + k.code * 8) t.code 0 (a.kind * 4 + b.kind * 2)
  | .setpi g c d a imm => encI 0x31 g d.toNat a.field a.kind c.code imm
  | .sel g t d a b c => encA 0x32 g d.toNat a.field b.field c.toNat 0 t.code 0 (a.kind * 4 + b.kind * 2)
  | .bfe g t d a b c => encA3 0x33 g 0 t.code 0 d a b c
  | .bfi g t d a b c => encA3 0x34 g 0 t.code 0 d a b c
  | .popc g t d a => encA1 0x35 g 0 t.code 0 d a
  | .clz g t d a => encA1 0x36 g 0 t.code 0 d a
  | .ctz g t d a => encA1 0x37 g 0 t.code 0 d a
  | .brev g t d a => encA1 0x38 g 0 t.code 0 d a
  | .cvti g dt st sat d a => encA1 0x39 g (st.code + sat.toNat * 32) dt.code 0 d a
  | .lea g k d a b => encA2 0x3A g k.toNat 22 0 d a b
  | .pset g o d a b => encA 0x3B g d.toNat a.toNat b.toNat 0 o.code 0 0 0
  | .smov g t d a none => encA 0x3C g d.toNat a.toNat 0 0 0 t.code 0 8
  | .smov g t d a (some b) => encA 0x3C g d.toNat a.toNat b.field 0 1 t.code 0 10
  | .bswap g t d a => encA1 0x3D g 0 t.code 0 d a
  | .fadd g t r d a b => encA2 0x40 g 0 t.code r.code d a b
  | .fsub g t r d a b => encA2 0x41 g 0 t.code r.code d a b
  | .fmul g t r d a b => encA2 0x42 g 0 t.code r.code d a b
  | .fma g t r d a b c => encA3 0x43 g 0 t.code r.code d a b c
  | .fdiv g t r d a b => encA2 0x44 g 0 t.code r.code d a b
  | .fmin g t nan d a b => encA2 0x45 g nan.toNat t.code 0 d a b
  | .fmax g t nan d a b => encA2 0x46 g nan.toNat t.code 0 d a b
  | .fabs g t d a => encA1 0x47 g 0 t.code 0 d a
  | .fneg g t d a => encA1 0x48 g 0 t.code 0 d a
  | .fsetp g c k t d a b =>
    encA 0x49 g d.toNat a.field b.field k.c (c.code + k.code * 8) t.code 0 (a.kind * 4 + b.kind * 2)
  | .fclass g t d a => encA1 0x4A g 0 t.code 0 d a
  | .fmovi g t d imm => encI 0x4B g d.field 0 d.kind t.sub imm
  | .frnd g t r x d a => encA1 0x4C g x.toNat t.code r.code d a
  | .fscale g t r d a b => encA2 0x4D g 0 t.code r.code d a b
  | .fdot2 g bf r d a b c => encA3 0x4E g (8 + bf.toNat) 10 r.code d a b c
  | .cvt g dt st alt (.mode r) d a => encA1 0x50 g (st.code + alt.toNat * 32) dt.code r.code d a
  | .cvt g dt st alt (.rsto k c) d a => encA3 0x50 g (st.code + alt.toNat * 32) dt.code 4 d a k c
  | .cvtblk g e st (.mode r) d a b =>
    encA 0x51 g d.field a.field b.field 0 (st.code + e.imp * 32) e.code r.code (d.kind * 8 + a.kind * 4 + 2)
  | .cvtblk g e st (.rsto c) d a b =>
    encA 0x51 g d.field a.field b.field c.field (st.code + e.imp * 32) e.code 4 (d.kind * 8 + a.kind * 4 + 3)
  | .cvtsc g e st d a => encA 0x52 g d.toNat a.field 0 0 (st.code + e.imp * 32) e.code 3 (8 + a.kind * 4)
  | .pack g t d a => encA 0x53 g d.toNat a.field 0 0 0 t.code 0 (a.kind * 4)
  | .unpack g t d a => encA 0x54 g d.toNat a.field 0 0 0 t.code 0 (a.kind * 4)
  | .exp2 g r d a => encA1 0x60 g 0 10 r.code d a
  | .log2 g r d a => encA1 0x61 g 0 10 r.code d a
  | .rcp g r d a => encA1 0x62 g 0 10 r.code d a
  | .rsqrt g r d a => encA1 0x63 g 0 10 r.code d a
  | .sqrt g r d a => encA1 0x64 g 0 10 r.code d a
  | .tanh g r d a => encA1 0x65 g 0 10 r.code d a
  | .sigmoid g r d a => encA1 0x66 g 0 10 r.code d a
  | .sinpi g r d a => encA1 0x67 g 0 10 r.code d a
  | .cospi g r d a => encA1 0x68 g 0 10 r.code d a
  | .shfl g t m d a b c => encA 0x70 g d.toNat a.field b.field c.toNat m.code t.code 0 (a.kind * 4 + b.kind * 2)
  | .vote g o d a => encA 0x71 g d.toNat a.toNat 0 0 o.code 0 0 0
  | .ballot g d a => encA 0x72 g d.field a.toNat 0 0 0 0 0 (d.kind * 8)
  | .reduce g o t r d a => encA1 0x73 g o.code t.code r.code d a
  | .scan g o excl t r d a => encA 0x74 g d.toNat a.field 0 0 (o.code + excl.toNat * 8) t.code r.code (a.kind * 4)
  | .sample g d a b c => encA 0x75 g d.field a.field b.field c.toNat 0 10 0 (d.kind * 8 + a.kind * 4 + b.kind * 2)
  | .leaven g flt d a b => encA2 0x76 g flt.toNat (if flt then 10 else 6) 0 d a b
  | .matchLanes g none t d a => encA 0x77 g d.toNat a.field 0 0 0 t.code 0 (a.kind * 4)
  | .matchLanes g (some c) t d a => encA 0x77 g d.toNat a.field 0 c.toNat 1 t.code 0 (a.kind * 4)
  | .ld g sp t d m => encMem 0x80 g d.toNat m sp.code t.code 0 0
  | .st g sp t d m => encMem 0x81 g d.toNat m sp.code t.code 0 0
  | .ldm g t d m x => encM 0x82 g d.toNat x.field m.toNat 1 t.code 0 0 x.kind 0 0
  | .stm g t d m x => encM 0x83 g d.toNat x.field m.toNat 1 t.code 0 0 x.kind 0 0
  | .ldacq g sp t sc d m => encMem 0x84 g d.toNat m sp.code t.code sc.code 0
  | .strel g sp t sc d m => encMem 0x85 g d.toNat m sp.code t.code sc.code 0
  | .pref g l2 sp t m => encMem 0x86 g 0 m sp.code t.code 0 l2.toNat
  | .rflush g a b => encA 0x87 g 0 a.field b.field 0 0 0 0 6
  | .atom g o ord sp t d m => encMem 0x88 g d.toNat m sp.code t.code (atomScope ord) (atomOp o ord)
  | .red g o ord sp t d m => encMem 0x89 g d.toNat m sp.code t.code (atomScope ord) (atomOp o ord)
  | .cas g ord sp t d a off b => encM 0x8A g d.toNat a.field b.field sp.code t.code ord.scope ord.code a.kind b.kind off.toNat
  | .fence g k sc => encA 0x8C g 0 0 0 0 (k.code + sc.code * 16) 0 0 0
  | .freeze g d a b => encA 0x8D g d.toNat a.field b.field 0 0 0 0 14
  | .thaw g d a b => encA 0x8E g d.toNat a.field b.field 0 0 0 0 14
  | .mset g m a => encA 0x90 g m.toNat a.field 0 0 0 22 0 4
  | .mget g d m => encA 0x91 g d.toNat m.toNat 0 0 0 22 0 8
  | .bar g patch sc => encA 0xB0 g 0 0 0 0 (sc.code + patch.toNat * 8) 0 0 0
  | .arrive g sc d m => encMem 0xB1 g d.toNat m 1 20 sc.code 0
  | .swait g d m => encMem 0xB2 g d.toNat m 1 20 1 0
  | .qpush g d a => encA 0xB3 g d.toNat a.field 0 0 0 0 0 12
  | .qpop g d a c => encA 0xB4 g d.toNat a.field 0 c.toNat 0 0 0 12
  | .waitseq g sc a b => encA 0xB5 g 0 a.field b.field 0 sc.code 0 0 6
  | .mma g z fa fb d a b c => encX 0xC0 g d.toNat a.toNat b.toNat c.toNat fa.code fb.code 0 z.toNat
  | .mmag g z fa fb d a b c => encX 0xC1 g d.toNat a.field b.toNat c.toNat fa.code fb.code 0 z.toNat
  | .ldacc g sp d a b => encX 0xC2 g d.toNat a.field b.field 0 0 0 sp.code 0
  | .stacc g sp d a b => encX 0xC3 g d.toNat a.field b.field 0 0 0 sp.code 0
  | .zacc g d n => encX 0xC4 g d.toNat 0 0 0 0 0 n.toNat 0
  | .attn g dim d a b c => encX 0xC5 g d.toNat a.toNat b.field c.field 3 0 dim.toNat 0
  | .attnClose g d => encX 0xC6 g d.toNat 0 0 0 0 0 0 0
  | .rescale g p a => encX 0xC7 g p.toNat a.toNat 0 0 0 0 0 0
  | .tilebarRel g a => encX 0xC8 g 0 a.toNat 0 0 0 0 0 0
  | .tilebarWait g d a b => encX 0xC8 g d.toNat a.toNat b.field 0 0 0 0 1
  | .slot g d a b c => encX 0xC9 g d.toNat a.toNat b.field c.toNat 0 0 0 0
  | .btswap g a n => encX 0xCA g 0 a.field 0 0 0 0 n.toNat 0
  | .ldfrag g fa d a b => encX 0xCB g d.toNat a.field b.field 0 fa.code 0 0 0
  | .accrd g f64 d a j n => encX 0xCC g d.toNat a.toNat j.toNat 0 0 0 n.toNat f64.toNat
  | .accwr g f64 d a j n => encX 0xCD g d.toNat a.toNat j.toNat 0 0 0 n.toNat f64.toNat
  | .append g f kf d a ch => encE 0xE0 g f kf.toNat d a ch
  | .copy g f d a ch => encE 0xE1 g f 0 d a ch
  | .stream g f d a ch => encE 0xE2 g f 0 d a ch
  | .gather g f d a ch => encE 0xE3 g f 0 d a ch
  | .select g f d a ch => encE 0xE4 g f 0 d a ch
  | .coll g f d a ch => encE 0xE5 g f 0 d a ch
  | .demote g f d a ch => encE 0xE6 g f 0 d a ch
  | .migrate g f d a ch => encE 0xE7 g f 0 d a ch
  | .rdctl g d n => encS 0xF0 g d.toNat 0 n.toNat 0
  | .wrctl g n a => encS 0xF1 g 0 a.field n.toNat 0
  | .rdspec g (.pcv d) => encS 0xF2 g d.toNat 0 0 0
  | .rdspec g (.lanemap d) => encS 0xF2 g d.toNat 0 1 0
  | .rdspec g (.gang d) => encS 0xF2 g d.toNat 0 2 0
  | .rdspec g (.fstat d) => encS 0xF2 g d.toNat 0 3 0
  | .wrspec g .gang a => encS 0xF3 g 0 a.field 2 0
  | .wrspec g .fstat a => encS 0xF3 g 0 a.field 3 0
  | .origin g d n => encS 0xF4 g d.toNat 0 n.toNat 0
  | .rteResume g => encS 0xF5 g 0 0 0 0
  | .rteSkip g => encS 0xF5 g 0 0 0 1
  | .rteKill g => encS 0xF5 g 0 0 0 2
  | .locality g d => encS 0xF6 g d.toNat 0 0 0
  | .rdtime g d => encS 0xF7 g d.toNat 0 0 0
  | .logctlMode g d => encS 0xF8 g d.toNat 0 0 0
  | .logctlFlush g => encS 0xF8 g 0 0 0 1
  | .mark g a d => encS 0xF9 g d.field a.field 0 0
  | .bpctl g (.wbp n a) => encS 0xFA g 0 a.field n.toNat 0
  | .bpctl g (.rbp d n) => encS 0xFA g d.toNat 0 n.toNat 1
  | .bpctl g (.wwp0 n a) => encS 0xFA g 0 a.field n.toNat 2
  | .bpctl g (.wwp1 n a) => encS 0xFA g 0 a.field n.toNat 3
  | .bpctl g (.rwp0 d n) => encS 0xFA g d.toNat 0 n.toNat 4
  | .bpctl g (.rwp1 d n) => encS 0xFA g d.toNat 0 n.toNat 5
  | .ident g (.dxy d) => encS 0xFB g d.toNat 0 0 0
  | .ident g (.tray d) => encS 0xFB g d.toNat 0 1 0
  | .ident g (.patch d) => encS 0xFB g d.toNat 0 2 0
  | .ident g (.group d) => encS 0xFB g d.toNat 0 3 0
  | .ident g (.vlane d) => encS 0xFB g d.toNat 0 4 0
  | .ident g (.lane d) => encS 0xFB g d.toNat 0 5 0
  | .ident g (.stage d) => encS 0xFB g d.toNat 0 6 0
  | .ident g (.handler d) => encS 0xFB g d.toNat 0 7 0
  | .rdcnt g d n => encS 0xFC g d.toNat 0 n.toNat 0
  | .blockHeader h => encH h
  | _ => 0

/-! Decoding (R281) -/

/-- Why a word is no instruction (R281): cause 0x01 or cause 0x02. -/
inductive DecErr where
  | illegal
  | reserved
deriving DecidableEq, Repr

/-- The cause code of a decode fault (R281, R283). -/
def DecErr.cause : DecErr → Nat
  | .illegal => 0x01
  | .reserved => 0x02

/-- A word but for a rounding mode that changes nothing: fmin and fmax take RND 0 to 3 (R327), and their results are exact (R329). -/
def significant (w : Nat) : Nat :=
  if (bits w 56 8 == 0x45 || bits w 56 8 == 0x46) && bits w 4 3 < 4 then w - bits w 4 3 * 16 else w

/-- The instruction of a 64-bit word, or the fate R281 gives it. -/
def decode (w : Word) : Except DecErr Instr :=
  match parse w.toNat with
  | none => .error .illegal
  | some i => if i.wf && encode i == significant w.toNat then .ok i else .error .reserved

/-- The instruction the decoder reads from an instruction whose bits are w, numbered as the opcode table numbers them: one 64-bit word (R267). -/
def decodeTableWord (nbits w : Nat) : Option Instr :=
  match decode (BitVec.ofNat 64 (w % 2 ^ nbits)) with
  | .ok i => some i
  | .error _ => none

end Sys2Proof
end

