-- ==== Sys2Proof/Config.lean ====
section
/-!
DEFINITION. What one part fixes (R7, R14 to R20) and the values the manual leaves open. An opaque constant here has no
body: nothing can be proved of its value (log entries 2, 3 and 4).
-/

namespace Sys2Proof.Config

/-- The choice the manual leaves open at the n-th open point of a run (which permitted version a plain read returns,
R174; which version a fetched word takes, R284). Used modulo the number of permitted choices. Log entry 2: DESIGN CHOICE. -/
opaque freeChoice : Nat → Nat

/-- The mass that attn.close adds for a sum outside the unsigned range of R257: negative, as a fraction, or infinite. Log entry 2: DESIGN CHOICE. -/
opaque massOutside : Option (Int × Nat) → Nat

/-- Whether a second-level cache holds a line of 128 bytes at a cycle (R215): by cycle and line. Log entry 97: DESIGN CHOICE. -/
opaque inSecondLevel : Nat → Nat → Bool

/-- The fabric cycles that a tagged request waited at a queueing point it passed (R215): by a number of the record and the point. Log entry 97: DESIGN CHOICE. -/
opaque queueWait : Nat → Nat → Nat

/-- SHA3-512 of a byte string, 64 bytes as one number, first byte lowest (R69, R75, R76, R78, R99). Log entry 3: DESIGN CHOICE. -/
opaque sha3 : List (BitVec 8) → BitVec 512

/-- The seed that the fuzzy extractor gives from the PUF response of I/O die 0 and the helper data, 32 bytes (R75). Log entry 3: DESIGN CHOICE. -/
opaque fuzzySeed : List (BitVec 8) → List (BitVec 8)

/-- The ML-DSA-87 signature (4,627 bytes as a list) over a digest by the key pair of a seed (R75, R76). Log entry 3: DESIGN CHOICE. -/
opaque mldsaSign : BitVec 256 → BitVec 512 → List (BitVec 8)

/-- Whether an ML-DSA-87 signature over a digest verifies with the vendor firmware key (R78). Log entry 3: DESIGN CHOICE. -/
opaque mldsaVerify : BitVec 512 → List (BitVec 8) → Bool

/-- Whether an ML-DSA-87 signature over a digest verifies with a public key (R69). Log entry 3: DESIGN CHOICE. -/
opaque mldsaVerifyBy : List (BitVec 8) → BitVec 512 → List (BitVec 8) → Bool

/-- The public key of ML-DSA-87 key generation from a seed, 2,592 bytes (R75, R76). Log entry 3: DESIGN CHOICE. -/
opaque mldsaPublic : BitVec 256 → List (BitVec 8)

/-- The public key of ML-KEM-1024 key generation from a seed, 1,568 bytes (R75, R76). Log entry 3: DESIGN CHOICE. -/
opaque mlkemPublic : BitVec 256 → List (BitVec 8)

/-- The shared secret that ML-KEM-1024 decapsulation gives for a ciphertext under the key pair of a seed (R77). Log entry 3: DESIGN CHOICE. -/
opaque mlkemDecap : BitVec 256 → List (BitVec 8) → BitVec 256

/-- AES-256-GCM decryption: key, IV, ciphertext, tag; none when the tag does not verify (R77). Log entry 3: DESIGN CHOICE. -/
opaque gcmOpen : BitVec 256 → BitVec 96 → BitVec 512 → BitVec 128 → Option (BitVec 512)

/-- AES-256-GCM encryption of a byte string under a key-slot key and an IV: ciphertext, then the 16-byte tag (R73, R216). Log
entry 3. -/
opaque gcmSeal : BitVec 512 → BitVec 96 → List (BitVec 8) → List (BitVec 8)

/-- The fresh 96-bit IV of the n-th sealed dump or record (R73). Log entry 3: DESIGN CHOICE. -/
opaque freshIv : Nat → BitVec 96

/-- A frame that firmware keeps free in a tier (true: the first), by its number, at the n-th open point, if it keeps one (R398). Log entry 4: DESIGN CHOICE. -/
opaque spareFrame : Bool → Nat → Option (BitVec 36)

/-- Where the part begins to spread the channels of mapped-out stacks (R20). Log entry 4: DESIGN CHOICE. -/
opaque substStart : Nat

/-- What tracking on the other packages of the domain answers a tracked access (R186), by cycle and address: nothing; tracking overflow; or words 3 and 4 of a race with one of their agents. Log entry 88: DESIGN CHOICE. -/
opaque farTrack : Nat → Nat → Option (Option (BitVec 64 × BitVec 64))

/-- What a word of a patch window on another package holds when a cycle reads it: launch, tray, word, cycle (R160). Log entry 66: DEDUCED. -/
opaque farWord : Nat → Nat → Nat → Nat → BitVec 64

/-- The CRC-64 of a flit's bytes [247:0], whose polynomial is not stated (R21). Log entry 81: DESIGN CHOICE. -/
opaque crc64 : List (BitVec 8) → BitVec 64

/-- The payload of the n-th flit of a run that the device sends: the layout of its messages is not stated (R21). Log entry 81: DESIGN CHOICE. -/
opaque flitPayload : Nat → List (BitVec 8)

/-- The size of the sheet maps of a number of sheets that hold chunks, in units of 4 KiB (R45, R46). Log entry 18: DESIGN CHOICE. -/
opaque mapPages : Nat → Nat

/-- What a checkpoint writes of the state of so many contexts, in units of 4 KiB (R45, R46). Log entry 18: DESIGN CHOICE. -/
opaque contextPages : Nat → Nat

/-- Compute dies of the package (R7). -/
def dies : Nat := 4

/-- Cores of the package: 28 columns by 24 rows (R7, R14). -/
def cols : Nat := 28
/-- Rows of the package mesh (R14). -/
def rows : Nat := 24

/-- Core index of package coordinates (R14). -/
def coreIndex (x y : Nat) : Nat := y * 28 + x

/-- Compute die that holds core (x, y) (R14). -/
def dieOf (x y : Nat) : Nat := 2 * (y / 12) + x / 14

/-- Registers of one core in bytes (R88). -/
def coreRegBytes : Nat := 524288

/-- Scratchpad of one core in KiB (R88). -/
def coreSpKb : Nat := 384

/-- Group slots and tiles of one core (R88). -/
def coreSlots : Nat := 32
/-- Accumulator tiles of one core (R88). -/
def coreTiles : Nat := 48

/-- 512-byte chunks of one channel: 1 TiB over 512 channels (R7, R18, R36). -/
def channelChunks : Nat := 0x400000

end Sys2Proof.Config
end

