-- ==== Sys2Proof/Machine/State.lean ====
section
/-!
DEFINITION. The state of the machine: every piece of state the manual gives the part, as plain data, and the state after
reset. The model's own fields (inputs, turn, pace, free and the output lists) are marked so; the rest follows the rule cited.
-/

namespace Sys2Proof.Machine

/-- Why a step can stop the model with a fault. -/
inductive Fault where
  /-- Raised by every meaning of an instruction word when no group or handler group is issuing (State.turn names none): the
  manual's instructions are always issued by a group. Safe: the machine has no such step. -/
  | noIssuer
deriving DecidableEq, Repr

/-- Why a step can be refused. -/
inductive Refusal where
  /-- Raised by an arm of exec whose instruction has no meaning yet. Safe: nothing follows from it. -/
  | notModelled (mnemonic : String)
deriving DecidableEq, Repr

/-- Memory as the bytes that differ from zero: addresses strictly rising, no zero byte listed. -/
abbrev Memory := List Host.Cell

/-! Lanes and groups (R125 to R146) -/

/-- The states of a lane (R125). -/
inductive LaneSt where
  | ready | parked | trapped | exited | vacant
deriving DecidableEq, Repr

/-- Where a lane's PC stands in the framing of code (R129): at an entry, at a header, or in the body of the block whose header is
at h. -/
inductive Frame where
  | entry
  | header
  | body (h : Pc) (count : Nat) (matrix : Bool)
deriving DecidableEq, Repr

/-- An origin tag (R144, R169, R182, R210). -/
structure Tag where
  w0 : Word
  w1 : Word
  w2 : Word
  w3 : Word
  w4 : Word
deriving DecidableEq, Repr

/-- The origin lane of a handler lane (R143): tray, group, virtual lane. -/
structure Origin where
  tray  : Nat
  group : Nat
  vlane : Nat
deriving DecidableEq, Repr

/-- How a Parked or Trapped lane becomes Ready again (R140, R145). -/
inductive Back where
  | unpark | resume | skip
deriving DecidableEq, Repr

/-- One lane (R125, R267): state, PC, framing, vector registers, predicates p0 to p6 (bit 7 is not stored), lanemap entry, debug
exemption (R218); for a Parked lane the page it waits for and the address of its access (R140); for a Trapped lane its origin tag, the handler vector it recorded
(R401), the cycle it trapped, the number of the release its trap performed (R145) and whether it has entered a gathering (R143); how it comes back, once
that is settled and its READY record or its group's residence is outstanding (R145, R208); for a handler lane its origin and that lane's tag. -/
structure Lane where
  st       : LaneSt
  pc       : Pc
  frame    : Frame
  v        : List Word32
  p        : BitVec 8
  ident    : BitVec 16
  exempt   : Bool
  park     : Option Nat
  parkVa   : Word
  tag      : Option Tag
  hvec     : Word
  trapAt   : Nat
  rel      : Nat
  back     : Option Back
  gathered : Bool
  origin   : Option Origin
deriving DecidableEq, Repr

/-- What a group that holds no issue slot waits for (R439, R369). -/
inductive Wait where
  /-- Older entries of the group's outbox must drain (R169, R175, R359). -/
  | drain
  /-- An access waits for chunks (R38, R39): the channel, the sheet, the chunks it needs, and the access's virtual address. -/
  | room (channel sheet need va : Nat)
  /-- A pending scalar register (R389): the word has not issued (R138). -/
  | pending
  /-- The fetch of the word at the issue address waits for a page, and that address: the word has not issued (R163). -/
  | fetch (p va : Nat)
  /-- A page the memory side must resolve, or that a migration holds, and the virtual address of the access (R163, R167, R368, R379, R382). -/
  | page (p va : Nat)
  | rbar
  | sleep (t : Word)
  | bar (patch : Bool) (sc : Scope)
  | swait
  | waitseq
  | qpush
  | qpop
  | tile
  | rescale
  /-- fstat is read or written while an attn of the group has not ended (R236). -/
  | attn
  | attnClose
  | rflush (base size : Nat)
  /-- A freeze whose drain, broadcast and acknowledgement are outstanding; the scalar for its result (R363). -/
  | freeze (d : BitVec 6)
  | thaw (d : BitVec 6)
  | logFlush
  | bpctl
  | latch (word : Instr)
  | window (h : Pc)
  /-- The order log (R202): the type and the virtual lane of the event that waits. -/
  | log (ty vl : Nat)
  | btswap
  | move
  /-- An eviction found the group waiting in an instruction that issues again when it returns (R369, R412). -/
  | again
deriving DecidableEq, Repr

/-- A deferred store record (R168). -/
structure DeferredRec where
  pc     : Pc
  vlane  : Nat
  ident  : BitVec 16
  va     : Word
  reason : BitVec 8
  more   : Bool
deriving DecidableEq, Repr

/-- A register write pending in the scoreboard (R138, R221): class (0 v, 1 s, 2 p, 3 m, 4 a), register, writing PC, and the value the
register held before, lane by lane, that a dump shows. -/
structure Pend where
  cls : Nat
  reg : Nat
  pc  : Pc
  old : List (BitVec 128)
deriving DecidableEq, Repr

/-- A descriptor snapshot of attn (R253): the list's index and the 256 bits of the descriptor. -/
structure Snap where
  idx  : Nat
  desc : BitVec 256
deriving DecidableEq, Repr

/-- An attn that has issued and not ended (R253 to R255): where it stands and for which lanes, its operands with the query words of each row, its list, the snapshots taken, whether its checks have
passed so that its entries run, the next entry, and whether it holds at the page boundary for rescale, with the x values it has formed (row, slot, value). -/
structure AttnRun where
  pc    : Pc
  frame : Frame
  front : Word32
  tile  : Nat
  dim   : Nat
  query : List Nat
  scale : Word32
  table : Word
  list  : List Nat
  snaps : List Snap
  runs  : Bool
  next  : Nat
  hold  : Bool
  xs    : List (Nat × Nat × Word32)
deriving DecidableEq, Repr

/-- What a trap records of a lane beside its place: the cause, DETAIL, and words 3 and 4 (R144). -/
structure Trap where
  cause  : Nat
  detail : Word
  w3     : Word
  w4     : Word
deriving DecidableEq, Repr

/-- The name of a release (R204): its agent and its number. -/
structure RelId where
  agent : Agent
  num   : Nat
deriving DecidableEq, Repr

/-- What came about for a waiting group while it stood still, evicted, halted or in a slide's hold, and takes effect when it goes on: the result of a freeze or thaw, or its trap (R363), or the completion of a barrier, with the arrivals'
releases that it acquires from (R366). -/
inductive Late where
  | result (d : BitVec 6) (v : Nat)
  | trap (t : Trap)
  | barrier (sc : Scope) (rels : List RelId)
deriving DecidableEq, Repr

/-- A group, or a handler group (R125, R138, R143, R205, R411). nregs is the count of vector registers it holds; wait, waitAt and waitF are
what it waits for, since when, and the lanes of the front it keeps (R439); slice is the set of a fairness slice and sliced whether it has issued
(R136). -/
structure Warp where
  agent   : Agent
  lanes   : List Lane
  sreg    : List Word
  mreg    : List Word
  gang    : Word32
  fstat   : Word32
  nregs   : Nat
  wait    : Option Wait
  waitAt  : Word
  waitF   : Word32
  issues  : Nat
  held    : Nat
  waited  : Nat
  fairT   : Nat
  fairF   : Word32
  fairP   : Option Pc
  slice   : Option Word32
  sliced  : Bool
  dsr     : Option DeferredRec
  pend    : List Pend
  pendS   : List (BitVec 6)
  attns   : List AttnRun
  late    : Option Late
  evicted : Bool
  halted  : Bool
deriving DecidableEq, Repr

/-! The order machine (R170 to R199) -/

/-- A word of memory as the order machine names it (R171): a fabric word, a scratchpad word or patch-window word of a tray, or a
control register of a tray (R401). Numbers are word numbers. -/
inductive Loc where
  | fab (w : Nat)
  | sp  (launch tray w : Nat)
  | pm  (launch tray w : Nat)
  | ctl (launch tray r : Nat)
deriving DecidableEq, Repr

/-- The publishing release of a version (R171, R204). -/
inductive Pub where
  | none
  | init
  | rel (r : RelId)
deriving DecidableEq, Repr

/-- A version of a word (R171, R199). -/
structure Version where
  val    : Word
  writer : Option Agent
  pub    : Pub
  poison : Bool
deriving DecidableEq, Repr

/-- A scope instance (R172). -/
inductive Inst where
  | group  (a : Agent)
  | tray   (launch tray : Nat)
  | patch  (launch patch : Nat)
  | launch (launch : Nat)
  | device (pkg : Nat)
  | system
deriving DecidableEq, Repr

/-- A performed release (R173, R175): its name, its agent as a log record names it (R203), the context whose log names it so (none once a later launch of that context has taken its LTAG), the instances whose Pub it joined, the
instances its agent belongs to, its view. -/
structure Release where
  id      : RelId
  tag     : Nat
  ctx     : Option Nat
  insts   : List Inst
  members : List Inst
  view    : List RelId
deriving DecidableEq, Repr

/-- The part of a write that falls in one word: byte mask and value (R171). -/
structure Piece where
  loc  : Loc
  mask : BitVec 4
  val  : Word32
deriving DecidableEq, Repr

/-- A write of an agent (R171): its pieces, the first in ascending address, and where it came from (R168, R182). -/
structure WriteOp where
  pieces : List Piece
  pc     : Pc
  vlane  : Nat
  ident  : BitVec 16
  va     : Word
deriving DecidableEq, Repr

/-- What an outbox entry is (R171, R173). -/
inductive OutKind where
  | write (w : WriteOp)
  | release (sc : Scope) (w : Option WriteOp)
  | arrive (sc : Scope) (tray off n : Nat)
  | command (sc : Scope) (chain : Nat) (addr : Nat) (d : BitVec 6) (pc : Pc) (lost : Bool)
  | freeze (base size : Nat) (va : Word) (pc : Pc)
  | thaw (base size : Nat)
deriving DecidableEq, Repr

/-- An outbox entry with the region it ends, if it is a boundary (R179). -/
structure OutEntry where
  kind   : OutKind
  region : Nat
deriving DecidableEq, Repr

/-- What the order machine holds per agent (R171, R174, R175, R204): outbox, view, the newest version index read or written of each
word, the versions of other agents read since the last acquire (R177), by word and index, the count of drained releases, the current region. -/
structure Ord where
  outbox   : List OutEntry
  view     : List RelId
  seen     : List (Loc × Nat)
  reads    : List (Loc × Nat)
  nrel     : Nat
  region   : Nat
deriving DecidableEq, Repr

/-- One tracked access of an open region (R181, R182, R184). -/
structure Track where
  loc    : Loc
  mask   : BitVec 4
  write  : Bool
  plain  : Bool
  agent  : Agent
  region : Nat
  pc     : Pc
  vlane  : Nat
  ident  : BitVec 16
  origin : Option Origin
deriving DecidableEq, Repr

/-! Trays, launches, handler groups (R86 to R118, R143, R366 to R372) -/

/-- What attn leaves with its state tile for attn.close (R382). -/
structure LastAttn where
  table   : Word
  dim     : Nat
  entries : List (Nat × Bool)
deriving DecidableEq, Repr

/-- An accumulator tile (R371, R256): 32 rows of 32 words. -/
structure Tile where
  alloc   : Bool
  owner   : Option Nat
  ownerPc : Pc
  tgen    : Word32
  rel     : Option RelId
  data    : List Word32
  held    : Option Nat
  pending : Bool
  last    : Option LastAttn
deriving DecidableEq, Repr

/-- A compaction window (R132): its header, the cycle it opened, LIVE, the groups that wait; closed once its moment has come and its groups are fixed. -/
structure Window where
  h      : Pc
  opened : Nat
  live   : Nat
  groups : List Nat
  closed : Bool
deriving DecidableEq, Repr

/-- A group's arrival at a barrier (R366). -/
structure BarArr where
  patch : Bool
  group : Nat
  scope : Scope
  num   : Nat
deriving DecidableEq, Repr

/-- A tray (R86, R88, R150, R153, R159, R366, R400); lpDirty lists the lines of its lane-private window that the core's cache has not written to the pool (R152). -/
structure Tray where
  launch    : Nat
  idx       : Nat
  core      : Nat
  stage     : Nat
  warps     : List Warp
  sp        : Memory
  pm        : Memory
  lp        : Memory
  lpDirty   : List Nat
  spRun     : Nat
  lpUnits   : List Nat
  tiles     : List Tile
  hvec      : Word
  lplim     : Nat
  published : Bool
  windows   : List Window
  arrivals  : List BarArr
  freed     : Bool
deriving DecidableEq, Repr

/-- The fields of a launch record (R66, R59). -/
structure LaunchF where
  w0 : Word
  w1 : Word
  w2 : Word
  w3 : Word
  w4 : Word
  w5 : Word
  w6 : Word
deriving DecidableEq, Repr

/-- One stage of a declared pipeline (R106). -/
structure Stage where
  sentry : Pc
  qbase  : Nat
  qlog2  : Nat
  min    : Nat
  trays  : Nat
deriving DecidableEq, Repr

/-- A queue between stages (R109): its two counters and the release of each record still to be popped. -/
structure Queue where
  pushed : Nat
  popped : Nat
  rels   : List (Nat × RelId)
deriving DecidableEq, Repr

/-- A running pipeline (R106, R111, R112): stages, queues, and a pending move (tray, new stage). -/
structure Pipe where
  stages : List Stage
  queues : List Queue
  marked : Option (Nat × Nat)
deriving DecidableEq, Repr

/-- The phase of a launch (R91, R95, R100). done: its record is complete, and trays stay only for the engine commands that name them (R390). -/
inductive Phase where
  | prepared | reserved | running | sliding | done
deriving DecidableEq, Repr

/-- A placed or prepared launch (R86 to R104, R204, R284); home is the coordinator's package, readyAt the cycle it became ready, movedAt when it last started or slid (R93).
Of patch barriers over several packages (R366): what others have told (package, patch, number of the barrier, exited for good), the patches told to others in their present barrier, and the barriers of each patch that have completed. -/
structure Launch where
  id       : Nat
  ctx      : Nat
  chain    : Nat
  seq      : Nat
  recAddr  : Nat
  f        : LaunchF
  ox       : Nat
  oy       : Nat
  ltag     : Nat
  phase    : Phase
  placedAt : Word
  movedAt  : Word
  code     : Memory
  badCode  : List Nat
  view     : List RelId
  pipe     : Option Pipe
  gathers  : Nat
  descr    : Descr
  check    : BitVec 64
  coord    : Bool
  home     : Nat
  readyAt  : Nat
  acked    : List Nat
  reported : List Nat
  ending   : Option Word32
  replace  : List Nat
  farBars  : List (Nat × Nat × Nat × Bool)
  toldBars : List Nat
  barNos   : List (Nat × Nat)
deriving DecidableEq, Repr

/-- A gathering of trapped lanes (R143). -/
structure Gathering where
  launch : Nat
  n      : Nat
  core   : Nat
  hvec   : Word
  lanes  : List Origin
  opened : Nat
  closed : Bool
deriving DecidableEq, Repr

/-- A running handler group (R143). -/
structure Handler where
  launch : Nat
  n      : Nat
  core   : Nat
  slot   : Nat
  warp   : Warp
deriving DecidableEq, Repr

/-! Contexts and chains (R50 to R67, R185, R193, R200, R214, R217, R220) -/

/-- A range register (R55, R56): its four words. -/
structure Range where
  base : Word
  size : Word
  map  : Word
  key  : Word
deriving DecidableEq, Repr

/-- What a started engine command waits for between two accesses (R38, R167, R202, R263, R390): the page of a fabric address, chunks of a channel, a tray that is not resident, a full list or ring, the order log. -/
inductive EHold where
  | page (fa : Nat)
  | room (channel sheet need : Nat)
  | tray (launch tray : Nat)
  | list (fa : Nat)
  | log
deriving DecidableEq, Repr

/-- What an engine command has read once and goes on with: the operation list of a stream (R393), the index of a gather's row (R394), or a page that a pass moves (R261): the descriptor its MIGRATING or read, whether
the move is a cold one, and the entries taken, each with its list. -/
inductive Once where
  | ops (list : Nat)
  | row (index : Nat)
  | page (desc : Nat) (cold : Bool) (taken : List (Nat × Nat))
deriving DecidableEq, Repr

/-- A record of a chain (R59, R62, R63, R67, R178): sequence number, address, state (0 queued, 1 started, 2 complete, 3 complete and covered by the completion
word), the agent that appended it and its scope instances, the release its append performed, the release it performed itself before it completed, the cycle it became
ready, the STATUS it will complete with, the start view, the mode in which it takes part in the order log (R438: 0 none, 1 record, 2 replay), when it started, its
words as they were fetched, the pages a demote command skipped (R216), the pipeline a launch record declares (R107); for a started engine command how many of its accesses are behind it, what it waits for, and what it
has read once and goes on with. -/
structure Rec where
  seq      : Nat
  addr     : Nat
  st       : Nat
  appender : Option Agent
  insts    : List Inst
  rel      : Option RelId
  readyAt  : Option Nat
  ending   : Option Word32
  view     : List RelId
  mode     : Nat
  done     : Option RelId
  startAt  : Word
  body     : List Word
  skipped  : Nat
  pipe     : Option Pipe
  prog     : Nat
  hold     : Option EHold
  once     : Option Once
deriving DecidableEq, Repr

/-- A command chain (R60 to R65). -/
structure Chain where
  engine : Nat
  enable : Bool
  cmpl   : Word
  seq    : Nat
  tail   : Option Nat
  done   : Nat
  recs   : List Rec
deriving DecidableEq, Repr

/-- A host append, or one of the serving controller's, that waits for the order log (R202, R209) or for its port's writes (R178): who appends (a port, or 2 for the controller), the
chain, the record's address, the release it performs (R178), and whether it follows another of its launch list (R123). -/
structure Held where
  who   : Nat
  chain : Nat
  addr  : Nat
  rel   : RelId
  rest  : Bool
deriving DecidableEq, Repr

/-- An entry of the freeze table (R193, R194, R196): fabric base and size, count, and when it is thawing the thaw's number and the release it performed. -/
structure FrzEntry where
  base  : Nat
  size  : Nat
  count : Nat
  thaw  : Option Nat
  rel   : Option RelId
deriving DecidableEq, Repr

/-- A context (R51 to R56, R185, R193, R196, R200, R204, R214, R217, R220); waits lists the events that wait on the log, each as word 0 of the record it waits
for, with the time it began to (R202). -/
structure Context where
  st       : Nat
  owner    : Nat
  err      : BitVec 6
  shadow   : Word
  log      : Word
  lppool   : Word
  frz      : Word
  peak     : Nat
  prod     : Nat
  cons     : Nat
  waits    : List (Nat × Word)
  late     : Bool
  diverged : Bool
  smp      : Word
  smpc     : Word
  trc      : Word
  trcc     : Word
  bp       : List Word
  wp       : List (Word × Word)
  hitCause : Nat
  hitNum   : Nat
  halted   : Bool
  dumped   : Bool
  dmp      : Word
  ranges   : List Range
  chains   : List Chain
  held     : List Held
  frozen   : List FrzEntry
  thaws    : Nat
  thawDone : Nat
  thawOut  : List Nat
  ltag     : Nat
  track    : List Track
deriving DecidableEq, Repr

/-! Package registers and the rest of the device -/

/-- The package's registers (R24, R26, R35, R36, R41, R45, R48, R57, R70, R72, R74, R76, R77, R79, R98, R105, R119 to R122, R166, R211): each holds the
fields a read returns, but for those that are computed at the read. -/
structure Regs where
  mgmtSem  : Word
  dieRst   : Word
  ablStat  : List Word
  domCfg   : Word
  distCnt  : Word
  cmpCfg   : Word
  cmpPool  : List Word
  balBase  : Word
  balCtl   : Word
  ckptCtl  : Word
  ckptTgt  : Word
  keyCtl   : Word
  keyData  : List Word
  keyMask  : BitVec 8
  keyFor   : Option (BitVec 13 × Nat)
  keyAux   : List Word
  kemCt    : Word
  secStat  : Word
  dbgCtl   : Word
  pwrCtl   : Word
  fwCtl    : Word
  fwBase   : Word
  attCtl   : Word
  attBuf   : Word
  skipped  : List Bool
  srvCtl   : Word
  srvLtgt  : Word
  srvDeleg : List Word
  srvWake  : List Word
  mtRoot   : Word
  mtInv    : Word
  mtStat   : List Word
  timeCfg  : Word
  timeOfs  : Word
deriving DecidableEq, Repr

/-- The record NOR keeps of one start step (R82, R83). -/
structure StepRec where
  fb   : Bool
  prev : BitVec 4
  last : BitVec 4
  clr  : Bool
deriving DecidableEq, Repr

/-- A firmware load that step 2 will take (R79): whether it passed its checks, by which port it came, its FLOOR and the digest of its image. -/
structure FwLoad where
  ok    : Bool
  port  : Nat
  floor : BitVec 32
  hash  : BitVec 512
deriving DecidableEq, Repr

/-- NOR and the boot core (R69, R75, R79 to R85): the rollback counter, the digest of the owner key where an ownership record exists, the helper data of the PUF, the start record; the next start step;
the firmware load that step 2 will take; FLOOR and the digest of the committed image; the digest of the configuration blob, and whether it asks for a restore; whether this start began at power-on; the end of each CXL port's memory; mapped-out stacks; the substitution table (R20); whether the part is without power. -/
structure Boot where
  rollback : BitVec 32
  owner    : Option (BitVec 512)
  helper   : List (BitVec 8)
  steps    : List StepRec
  next     : Option Nat
  fw       : Option FwLoad
  floor    : BitVec 32
  fwHash   : BitVec 512
  blobHash : BitVec 512
  restore  : Bool
  cold     : Bool
  cxlEnds  : List Nat
  mapped   : List Nat
  subst    : List (Nat × Nat)
  off      : Bool
deriving DecidableEq, Repr

/-- A migration of a page (R43, R44): the page by its number, the direction, the new frame by its number, the round, the lines written since they were copied, whether the final hold has begun,
and the migrate command it belongs to. -/
structure Mig where
  page  : Nat
  toFst : Bool
  frame : Nat
  round : Nat
  dirty : List Nat
  hold  : Bool
  cmd   : Option (Nat × Nat × Nat)
deriving DecidableEq, Repr

/-- A reservation that waits for chunks (R38, R39): channel, sheet, chunks needed, since when, and the write that waits. -/
structure RoomWait where
  channel : Nat
  sheet   : Nat
  need    : Nat
  since   : Word
  agent   : Agent
  op      : Option WriteOp
deriving DecidableEq, Repr

/-- The latest staling pass over a block table (R258): its command, the record's words, and the indices demoted early since it (R38). -/
structure Pass where
  ctx   : Nat
  chain : Nat
  seq   : Nat
  body  : List Word
  early : List Nat
deriving DecidableEq, Repr

/-- A frame that waits for its readers or for room before it is retired (R263): ring address, the entry of frame and tag, and the command whose step replaced the frame: context, chain, sequence number. -/
structure Retire where
  ring  : Nat
  entry : Word
  ctx   : Nat
  chain : Nat
  seq   : Nat
deriving DecidableEq, Repr

/-- One link (R21 to R23): the sequence number the receiver expects and the retries it has asked for it; the sender's next sequence number, its replay buffer, and how often the peer has asked for the sequence number
it asked for last. -/
structure Link where
  expect  : Nat
  retries : Nat
  next    : Nat
  replay  : List Flit
  asked   : Nat
  tries   : Nat
deriving DecidableEq, Repr

/-- A link as it comes up. -/
def Link.clear : Link := ⟨0, 0, 0, [], 0, 0⟩

/-- The times of an exchange of IEEE 1588 as the slave holds them (R212): Sync received, Sync sent, Delay_Req sent. -/
structure Ptp where
  got  : Option Word
  sent : Option Word
  ask  : Option Word
deriving DecidableEq, Repr

/-- An interrupt or error report to a host or to the serving controller. -/
inductive Signal where
  | msix (port vector : Nat)
  | machineCheck (ctx : Nat)
  | lowPool
  | serving (entry : Nat)
  | aer (port : Nat) (addr : Nat)
deriving DecidableEq, Repr

/-- A message to another package (R22, R100 to R104, R212). -/
inductive Msg where
  | retry (link : Nat) (seq : Nat)
  | flit (link : Nat) (f : Flit)
  | prepare (pkg : Nat) (d : Descr) (check : BitVec 64) (body : List Word)
  | ack (ctx chain seq : Nat)
  | refuse (ctx chain seq : Nat)
  | go (pkg launch : Nat) (rels : List RelId)
  | abort (pkg launch : Nat)
  | stop (pkg launch : Nat)
  | exitReport (ctx chain seq : Nat) (status : Word32)
deriving DecidableEq, Repr

/-- An arrival on its way to a sync word (R155, R364): launch, tray, offset, bytes, and the release it follows. -/
structure Arrival where
  launch : Nat
  tray   : Nat
  off    : Nat
  n      : Nat
  rel    : RelId
deriving DecidableEq, Repr

/-- A tagged request (R215): the agent, the core, the time base at issue, the PC, the address, the kind (1 load, 2 store, 3 atomic), the lane's tray, virtual lane and
group, the fabric address, the unit that serves it. -/
structure Request where
  agent : Agent
  core  : Nat
  at0   : Word
  pc    : Pc
  va    : Nat
  kind  : Nat
  tray  : Nat
  vlane : Nat
  group : Nat
  fab   : Option Nat
  srv   : Nat
deriving DecidableEq, Repr

/-- A member of a collective that has started here (R396): its command, COLLID, rank and record, when it started, and the elements of its SRC once they have gone to the other packages of the collective. -/
structure CollMember where
  ctx   : Nat
  chain : Nat
  seq   : Nat
  id    : Nat
  rank  : Nat
  body  : List Word
  since : Nat
  data  : Option Nat
deriving DecidableEq, Repr

/-- A member of a collective that has started on another package (R396): package, context, COLLID, rank and start; its COUNT, TYPE, OP and P; the elements of its SRC once they have come; and whether a collective
that has assembled here counts it. -/
structure FarMember where
  pkg   : Nat
  ctx   : Nat
  id    : Nat
  rank  : Nat
  since : Nat
  shape : Nat
  data  : Option Nat
  used  : Bool
deriving DecidableEq, Repr

/-- A slide in its hold (R95): the slid launch, its new origin, and the context and chain of the launch that waits. -/
structure Slide where
  launch : Nat
  nx     : Nat
  ny     : Nat
  ctx    : Nat
  chain  : Nat
deriving DecidableEq, Repr

/-- What a checkpoint saves in the safe tier (R45): its base and size, what first-tier frames, the shelf and the tables hold, the pages behind the frames, MT_ROOT that reaches the tables, every context with its keys' slots
named, the launches and their saved trays. -/
structure Image where
  base     : Nat
  size     : Nat
  mem      : Memory
  frames   : List (Nat × Nat)
  mtRoot   : Word
  ctxs     : List (Nat × Context)
  launches : List Launch
  trays    : List Tray
  gathers  : List Gathering
  handlers : List Handler
  ords     : List (Agent × Ord)
  nextId   : Nat
deriving DecidableEq, Repr

/-- The state of the machine. -/
structure State where
  /-- The model's own: the steps hosts, other packages and the device's units take next, oldest first (log entry 1: DESIGN CHOICE). -/
  inputs    : List Instr
  /-- The model's own: the group or handler group that issues (log entry 1: DESIGN CHOICE). -/
  turn      : Option Agent
  /-- The model's own: cycles and nanoseconds one step takes (log entry 5: DESIGN CHOICE). -/
  paceC     : Nat
  paceNs    : Nat
  /-- The model's own: open points met so far, the argument of the free values (log entry 2: DESIGN CHOICE). -/
  free      : Nat
  /-- Arithmetic cycles since the start, and the time base (R211). -/
  cycle     : Nat
  now       : Word
  /-- The last eight offsets from the time source (R211). -/
  offsets   : List (BitVec 32)
  /-- Fabric memory of the domain, newest versions (R16, R171). -/
  mem       : Memory
  /-- Version lists of words written since the start, oldest first (R171). -/
  vers      : List (Loc × List Version)
  rels      : List Release
  ords      : List (Agent × Ord)
  /-- Words registered to a core, as (word, core) (R187 to R189). -/
  regd      : List (Nat × Nat)
  /-- Words whose newest write has drained and is not registered at its home yet, as (word, core, writer) (R187). -/
  unregd    : List (Nat × Nat × Agent)
  /-- Words that a core's first-level cache holds without a registration, as (word, core) (R188, R192, R195). -/
  cached    : List (Nat × Nat)
  ctxs      : List (Nat × Context)
  keys      : List (Nat × BitVec 512)
  kemKey    : Option (BitVec 256)
  kemIvs    : List (BitVec 256 × BitVec 96)
  launches  : List Launch
  trays     : List Tray
  gathers   : List Gathering
  handlers  : List Handler
  nextId    : Nat
  slide     : Option Slide
  colls     : List CollMember
  /-- Members of collectives on other packages (R396). -/
  farColls  : List FarMember
  regs      : Regs
  portUp    : List Bool
  boot      : Boot
  /-- Time of the last activity (R74); a Retention entry in progress; a wake in progress: the power state it
  leads to, and the debug level it grants (R71). -/
  active    : Word
  retaining : Bool
  waking    : Option (Nat × Nat)
  links     : List Link
  delivered : List (Nat × Flit)
  /-- Free chunks taken per channel, chunks held per sheet and reserved per sheet, dirty lines (R33 to R37). -/
  taken     : List (Nat × Nat)
  chunks    : List (Nat × Nat)
  reserved  : List (Nat × Nat)
  dirty     : List Nat
  /-- The page whose content a first-tier frame holds, as (frame, page), where a write or a migration has put one there (R164, R43). -/
  frames    : List (Nat × Nat)
  /-- Dies whose ballooning engine has a run in progress (R36, R38). -/
  runs      : List Nat
  roomWaits : List RoomWait
  migs      : List Mig
  freeFst   : List Nat
  freeSnd   : List Nat
  passes    : List Pass
  retires   : List Retire
  /-- Host-homed lines the device holds exclusive, with the core that owns each; none for the I/O die itself (R190, R191). -/
  hostLines : List (Nat × Option Nat)
  /-- The safe tier's image at the last checkpoint (R45), if one was taken. -/
  safeTier  : Option Image
  /-- Dies in reset with the kind of reset (true for uncore) (R26 to R29). -/
  inReset   : List (Nat × Bool)
  /-- Requests counted since the last tagged one, per core and context: 256 times the core's index and the context (R215). -/
  sampleCnt : List (Nat × Nat)
  /-- Lines the instruction being issued has requested, each as the location of its first word, in lines (R350, R215). -/
  lines     : List Loc
  /-- Tagged requests that have not completed (R215). -/
  requests  : List Request
  /-- Arrivals on their way to sync words, oldest first (R155). -/
  arriving  : List Arrival
  /-- The model's own: what left the device, newest last. -/
  signals   : List Signal
  sent      : List Msg
  /-- The last instants at which pipelines were examined and Sync was sent (R111, R212). -/
  pipeAt    : Word
  syncAt    : Word
  ptp       : Ptp
  /-- The model's own: the answer to the last host read and to the last atomic a home executed. -/
  hostRead  : List (BitVec 8)
  /-- Reads of hosts that wait for a migration's final hold, oldest first: address and length (R43). -/
  hostReads : List (Nat × Nat)
  atomOld   : Word
deriving DecidableEq, Repr

/-- A range register after reset or CREATE: not valid (R52, R55). -/
def Range.clear : Range := ⟨0, 0, 0, 0⟩

/-- A chain after reset or CREATE: disabled, SEQ 0 (R52, R60). -/
def Chain.clear : Chain := ⟨0, false, 0, 0, none, 0, []⟩

/-- A free context (R51, R52, R185, R200, R214, R217, R220). -/
def Context.clear : Context where
  st := 0
  owner := 0
  err := 0
  shadow := 0
  log := 0
  lppool := 0
  frz := 0
  peak := 0
  prod := 0
  cons := 0
  waits := []
  late := false
  diverged := false
  smp := 0
  smpc := 0
  trc := 0
  trcc := 0
  bp := List.replicate 16 0
  wp := List.replicate 8 (0, 0)
  hitCause := 0
  hitNum := 0
  halted := false
  dumped := false
  dmp := 0
  ranges := List.replicate 16 Range.clear
  chains := List.replicate 64 Chain.clear
  held := []
  frozen := []
  thaws := 0
  thawDone := 0
  thawOut := []
  ltag := 0
  track := []

/-- The order state of an agent that has done nothing: the initial view (R171, R178). -/
def Ord.clear : Ord := ⟨[], [], [], [], 0, 0⟩

/-- The package registers at reset (the Reset columns of R24 to R211). -/
def Regs.reset : Regs where
  mgmtSem := 0
  dieRst := 0
  ablStat := List.replicate 16 0
  domCfg := 0
  distCnt := 0
  cmpCfg := 0x4000008000
  cmpPool := List.replicate 4 0x40000000000000
  balBase := 0
  balCtl := 0x200000000000
  ckptCtl := 0
  ckptTgt := 0
  keyCtl := 0
  keyData := List.replicate 8 0
  keyMask := 0
  keyFor := none
  keyAux := List.replicate 4 0
  kemCt := 0
  secStat := 0
  dbgCtl := 0
  pwrCtl := 0
  fwCtl := 0
  fwBase := 0
  attCtl := 0
  attBuf := 0
  skipped := List.replicate 28 false
  srvCtl := 0
  srvLtgt := 0
  srvDeleg := List.replicate 4 0
  srvWake := List.replicate 64 0
  mtRoot := 0
  mtInv := 0
  mtStat := List.replicate 4 0
  timeCfg := 0
  timeOfs := 0

/-- NOR and the boot core at the first power-on (log entry 6: DESIGN CHOICE): nothing recorded, counter 0, start step 1 next. -/
def Boot.reset : Boot where
  rollback := 0
  owner := none
  helper := []
  steps := List.replicate 28 ⟨false, 0, 0, false⟩
  next := some 1
  fw := none
  floor := 0
  fwHash := 0
  blobHash := 0
  restore := false
  cold := true
  cxlEnds := []
  mapped := []
  subst := []
  off := false

/-- The machine right after power-on reset: every register at its Reset column, no context, no tray, memory listing nothing, the time base
at 0 (R211), start step 1 next (R81, R85). -/
def State.reset : State where
  inputs := []
  turn := none
  paceC := 1
  paceNs := 1
  free := 0
  cycle := 0
  now := 0
  offsets := []
  mem := []
  vers := []
  rels := []
  ords := []
  regd := []
  unregd := []
  cached := []
  ctxs := []
  keys := []
  kemKey := none
  kemIvs := []
  launches := []
  trays := []
  gathers := []
  handlers := []
  nextId := 0
  slide := none
  colls := []
  farColls := []
  regs := Regs.reset
  portUp := [true, true]
  boot := Boot.reset
  active := 0
  retaining := false
  waking := none
  links := List.replicate 16 Link.clear
  delivered := []
  taken := []
  chunks := []
  reserved := []
  dirty := []
  frames := []
  runs := []
  roomWaits := []
  migs := []
  freeFst := []
  freeSnd := []
  passes := []
  retires := []
  hostLines := []
  safeTier := none
  inReset := []
  sampleCnt := []
  lines := []
  requests := []
  arriving := []
  signals := []
  sent := []
  pipeAt := 0
  syncAt := 0
  ptp := ⟨none, none, none⟩
  hostRead := []
  hostReads := []
  atomOld := 0

end Sys2Proof.Machine
end

