-- ==== Sys2Proof/Machine/Ops.lean ====
section
/-!
DEFINITION. The named operations over the state: association lists, bytes of memory, agents, lanes and registers, releases joining an
outbox, the ending of a launch, taking an exception (one shared operation, R142 to R145) and the return from one (R145, R404).
-/

namespace Sys2Proof

/-- The launch an agent belongs to. -/
def Agent.launchId : Agent → Option Nat
  | .group l _ _ => some l
  | .handler l _ => some l
  | .engine _ _ _ => none
  | .port _ => none

/-- Whether an agent is a handler group. -/
def Agent.isHandler : Agent → Bool
  | .handler _ _ => true
  | _ => false

/-- The group number of an agent; a handler group has none. -/
def Agent.groupNo : Agent → Nat
  | .group _ _ g => g
  | _ => 0

/-- The deckle index of an agent's tray. -/
def Agent.trayNo : Agent → Nat
  | .group _ t _ => t
  | _ => 0

namespace Machine

/-- The outcome of a step. -/
abbrev Out := Host.Outcome State Fault Refusal

/-! Association lists -/

/-- The value listed under a key. -/
def alGet {α β : Type} [BEq α] : List (α × β) → α → Option β
  | [], _ => none
  | (k, v) :: r, a => if k == a then some v else alGet r a

/-- The list with a key's value replaced, or added at the end. -/
def alSet {α β : Type} [BEq α] : List (α × β) → α → β → List (α × β)
  | [], a, b => [(a, b)]
  | (k, v) :: r, a, b => if k == a then (a, b) :: r else (k, v) :: alSet r a b

/-- The list without a key. -/
def alDel {α β : Type} [BEq α] : List (α × β) → α → List (α × β)
  | [], _ => []
  | (k, v) :: r, a => if k == a then r else (k, v) :: alDel r a

/-- The union of two lists without repeats. -/
def union {α : Type} [BEq α] (xs ys : List α) : List α := ys.foldl (fun l y => if l.contains y then l else l ++ [y]) xs

/-- An element of a list replaced. -/
def listSet {α : Type} (l : List α) (i : Nat) (x : α) : List α := l.set i x

/-! Bytes of memory. A byte that is not listed reads zero (log entry 7: DESIGN CHOICE). -/

/-- The byte at an address. -/
def memGet : Memory → Nat → Byte
  | [], _ => 0
  | (k, v) :: r, a => if a < k then 0 else if a = k then v else memGet r a

/-- Memory with one byte written: rising addresses, no zero byte listed. -/
def memPut : Memory → Nat → Byte → Memory
  | [], a, b => if b = 0 then [] else [(a, b)]
  | (k, v) :: r, a, b =>
    if a < k then (if b = 0 then (k, v) :: r else (a, b) :: (k, v) :: r)
    else if a = k then (if b = 0 then r else (a, b) :: r)
    else (k, v) :: memPut r a b

/-- Every listed address lies at or above a bound. -/
def Memory.above (lo : Nat) : Memory → Bool
  | [] => true
  | (k, v) :: r => decide (lo ≤ k) && !(v == 0) && Memory.above (k + 1) r

/-- The canonical form: addresses strictly rising, no zero byte listed. -/
def Memory.wf (m : Memory) : Bool := Memory.above 0 m

/-- n bytes from an address, little-endian (R9). -/
def memRead (m : Memory) (a : Nat) : Nat → Nat
  | 0 => 0
  | n + 1 => (memGet m a).toNat + 256 * memRead m (a + 1) n

/-- n bytes written at an address, little-endian (R9). -/
def memWrite (m : Memory) (a : Nat) : Nat → Nat → Memory
  | 0, _ => m
  | n + 1, v => memWrite (memPut m a (BitVec.ofNat 8 (v % 256))) (a + 1) n (v / 256)

/-- The bytes of mask in one aligned word written: bit j of mask for byte j (R171). -/
def memMask (m : Memory) (a : Nat) (mask : BitVec 4) (v : Word32) : Memory :=
  [0, 1, 2, 3].foldl (fun m j => if mask.getLsbD j then memPut m (a + j) (BitVec.ofNat 8 (bits v.toNat (8 * j) 8)) else m) m

/-! Masks of lanes -/

/-- The mask of a list of lanes. -/
def maskOf (ks : List Nat) : Word32 := ks.foldl (fun m k => m ||| (BitVec.ofNat 32 (2 ^ k))) 0

/-- Whether a mask holds a lane. -/
def inMask (m : Word32) (k : Nat) : Bool := m.getLsbD k

/-! Packages, contexts, launches, trays, groups -/

/-- The package's number (R15, R24). -/
def State.pkg (s : State) : Nat := if bit s.regs.domCfg.toNat 24 then bits s.regs.domCfg.toNat 8 6 else 0

/-- The debug level granted (R72). -/
def State.dbgLevel (s : State) : Nat := bits s.regs.dbgCtl.toNat 16 2

/-- The domain's width in packages (R15, R98): 1 in a domain of one. -/
def State.domWidth (s : State) : Nat := if bit s.regs.domCfg.toNat 24 then bits s.regs.domCfg.toNat 0 4 + 1 else 1

/-- The tray of a launch with a deckle index. -/
def State.tray? (s : State) (l i : Nat) : Option Tray := s.trays.find? fun t => t.launch == l && t.idx == i

/-- A tray put back. -/
def State.setTray (s : State) (t : Tray) : State :=
  { s with trays := s.trays.map fun x => if x.launch == t.launch && x.idx == t.idx then t else x }

/-- A running handler group. -/
def State.handler? (s : State) (l n : Nat) : Option Handler := s.handlers.find? fun h => h.launch == l && h.n == n

/-- A handler group put back. -/
def State.setHandler (s : State) (h : Handler) : State :=
  { s with handlers := s.handlers.map fun x => if x.launch == h.launch && x.n == h.n then h else x }

/-- A launch by its number. -/
def State.launch? (s : State) (l : Nat) : Option Launch := s.launches.find? fun x => x.id == l

/-- A launch put back. -/
def State.setLaunch (s : State) (l : Launch) : State :=
  { s with launches := s.launches.map fun x => if x.id == l.id then l else x }

/-- The tray changed by f, if it is there. -/
def State.modTray (s : State) (l i : Nat) (f : Tray → Tray) : State :=
  { s with trays := s.trays.map fun x => if x.launch == l && x.idx == i then f x else x }

/-- The launch changed by f, if it is there. -/
def State.modLaunch (s : State) (l : Nat) (f : Launch → Launch) : State :=
  { s with launches := s.launches.map fun x => if x.id == l then f x else x }

/-- A context; one that was never created is free (R51). -/
def State.ctx (s : State) (c : Nat) : Context := (alGet s.ctxs c).getD Context.clear

/-- A context put back. -/
def State.setCtx (s : State) (c : Nat) (x : Context) : State := { s with ctxs := alSet s.ctxs c x }

/-- A context changed by f. -/
def State.modCtx (s : State) (c : Nat) (f : Context → Context) : State := s.setCtx c (f (s.ctx c))

/-- The launch of an agent. -/
def State.launchOf (s : State) (a : Agent) : Option Launch := a.launchId.bind s.launch?

/-- The context of an agent. -/
def State.ctxOf (s : State) (a : Agent) : Nat :=
  match a with
  | .engine c _ _ => c
  | _ => ((s.launchOf a).map Launch.ctx).getD 0

/-- The group or handler group of an agent. -/
def State.warp? (s : State) (a : Agent) : Option Warp :=
  match a with
  | .group l t _ => (s.tray? l t).bind fun tr => tr.warps.find? fun w => w.agent == a
  | .handler l n => ((s.handler? l n).map Handler.warp).filter fun w => w.agent == a
  | .engine _ _ _ => none
  | .port _ => none

/-- A group or handler group put back under its own agent. -/
def State.setWarp (s : State) (w : Warp) : State :=
  match w.agent with
  | .group l t _ => s.modTray l t fun tr => { tr with warps := tr.warps.map fun x => if x.agent == w.agent then w else x }
  | .handler l n => { s with handlers := s.handlers.map fun x => if x.launch == l && x.n == n then { x with warp := w } else x }
  | .engine _ _ _ => s
  | .port _ => s

/-- The group of an agent changed by f. -/
def State.modWarp (s : State) (a : Agent) (f : Warp → Warp) : State :=
  match s.warp? a with
  | some w => s.setWarp (f w)
  | none => s

/-- What the order machine holds of an agent (R171). -/
def State.ord (s : State) (a : Agent) : Ord := (alGet s.ords a).getD Ord.clear

/-- The order state of an agent put back. -/
def State.setOrd (s : State) (a : Agent) (o : Ord) : State := { s with ords := alSet s.ords a o }

/-- The tray of a group. -/
def State.trayOf (s : State) (a : Agent) : Option Tray :=
  match a with
  | .group l t _ => s.tray? l t
  | _ => none

/-! Fields of the launch record (R66) -/

/-- MODE: 0 normal, 1 record, 2 replay. -/
def LaunchF.mode (f : LaunchF) : Nat := bits f.w0.toNat 16 2
/-- Compaction enabled. -/
def LaunchF.compact (f : LaunchF) : Bool := bit f.w0.toNat 18
/-- CWIN: the compaction window is 2^(CWIN + 4) cycles. -/
def LaunchF.cwin (f : LaunchF) : Nat := bits f.w0.toNat 19 4
/-- The progress promise. -/
def LaunchF.promise (f : LaunchF) : Bool := bit f.w0.toNat 23
/-- Idempotent trays. -/
def LaunchF.idem (f : LaunchF) : Bool := bit f.w0.toNat 24
/-- The launch's scratchpad and patch accesses are racy. -/
def LaunchF.racy (f : LaunchF) : Bool := bit f.w0.toNat 25
/-- A pipeline is declared. -/
def LaunchF.pipe (f : LaunchF) : Bool := bit f.w0.toNat 26
/-- ACQ of the record (R59). -/
def LaunchF.acq (f : LaunchF) : Bool := bit f.w0.toNat 8
/-- REL of the record (R59). -/
def LaunchF.rel (f : LaunchF) : Bool := bit f.w0.toNat 9
/-- SCOPE of the record (R59). -/
def LaunchF.scope (f : LaunchF) : Nat := bits f.w0.toNat 10 3
/-- The entry block's address. -/
def LaunchF.entry (f : LaunchF) : Nat := bits f.w1.toNat 0 56
/-- Deckle width. -/
def LaunchF.dw (f : LaunchF) : Nat := bits f.w3.toNat 0 9
/-- Deckle height. -/
def LaunchF.dh (f : LaunchF) : Nat := bits f.w3.toNat 9 9
/-- Origin column asked for. -/
def LaunchF.ox (f : LaunchF) : Nat := bits f.w3.toNat 18 9
/-- Origin row asked for. -/
def LaunchF.oy (f : LaunchF) : Nat := bits f.w3.toNat 27 9
/-- Placed at its own origin. -/
def LaunchF.fixed (f : LaunchF) : Bool := bit f.w3.toNat 36
/-- Patch width. -/
def LaunchF.pw (f : LaunchF) : Nat := bits f.w3.toNat 37 9
/-- Patch height. -/
def LaunchF.ph (f : LaunchF) : Nat := bits f.w3.toNat 46 9
/-- Groups per tray. -/
def LaunchF.groups (f : LaunchF) : Nat := bits f.w4.toNat 0 6
/-- Vector registers per lane. -/
def LaunchF.nregs (f : LaunchF) : Nat := 8 * (bits f.w4.toNat 6 5 + 1)
/-- Scratchpad per tray in bytes. -/
def LaunchF.spBytes (f : LaunchF) : Nat := 1024 * bits f.w4.toNat 11 9
/-- Patch window per core in bytes. -/
def LaunchF.pmBytes (f : LaunchF) : Nat := 1024 * bits f.w4.toNat 20 9
/-- Accumulator tiles per tray. -/
def LaunchF.tiles (f : LaunchF) : Nat := bits f.w4.toNat 29 6
/-- Lane-private limit in words. -/
def LaunchF.lpWords (f : LaunchF) : Nat := bits f.w4.toNat 35 16
/-- PARAM, a virtual address (R66). -/
def LaunchF.param (f : LaunchF) : Nat := bits f.w2.toNat 0 56

/-! Lanes (R125, R126, R129, R266, R267) -/

/-- A lane that holds no thread: what an unfilled virtual lane reads as (R134). -/
def Lane.vacant : Lane where
  st := .vacant
  pc := 0
  frame := .header
  v := []
  p := 0
  ident := 0xFFFF
  exempt := false
  park := none
  parkVa := 0
  tag := none
  hvec := 0
  trapAt := 0
  rel := 0
  back := none
  gathered := false
  origin := none

/-- Virtual lane k of a group. -/
def Warp.lane (w : Warp) (k : Nat) : Lane := w.lanes.getD k Lane.vacant

/-- A lane put back. -/
def Warp.setLane (w : Warp) (k : Nat) (l : Lane) : Warp := { w with lanes := w.lanes.set k l }

/-- A predicate as a lane reads it: p7 is true (R267). -/
def Lane.pred (l : Lane) (n : BitVec 3) : Bool := n == 7 || l.p.getLsbD n.toNat

/-- A predicate written: a write to p7 is ignored (R267). -/
def Lane.setPred (l : Lane) (n : BitVec 3) (b : Bool) : Lane :=
  if n == 7 then l
  else { l with p := if b then l.p ||| BitVec.ofNat 8 (2 ^ n.toNat) else l.p &&& ~~~ BitVec.ofNat 8 (2 ^ n.toNat) }

/-- Whether a lane passes a guard (R266). -/
def Lane.passes (l : Lane) (g : Guard) : Bool := xor (l.pred g.pred) g.neg

/-- A vector register of a lane (R267). -/
def Lane.vget (l : Lane) (n : Nat) : Word32 := l.v.getD n 0

/-- A vector register written. -/
def Lane.vset (l : Lane) (n : Nat) (x : Word32) : Lane := { l with v := l.v.set n x }

/-- A vector pair: the low half in the lower register (R267). -/
def Lane.dget (l : Lane) (n : Nat) : Nat := (l.vget n).toNat + 2 ^ 32 * (l.vget (n + 1)).toNat

/-- A vector pair written. -/
def Lane.dset (l : Lane) (n : Nat) (x : Nat) : Lane :=
  (l.vset n (BitVec.ofNat 32 x)).vset (n + 1) (BitVec.ofNat 32 (x >>> 32))

/-- n vector registers from one upward, lowest first, as one number. -/
def Lane.rget (l : Lane) (v : Nat) : Nat → Nat
  | 0 => 0
  | n + 1 => (l.vget v).toNat + 2 ^ 32 * l.rget (v + 1) n

/-- n vector registers written from a number, lowest first. -/
def Lane.rset (l : Lane) (v : Nat) : Nat → Nat → Lane
  | 0, _ => l
  | n + 1, x => (l.vset v (BitVec.ofNat 32 x)).rset (v + 1) n (x >>> 32)

/-- The framing after one instruction: past the COUNT-th instruction a header must follow (R129). -/
def Frame.next (f : Frame) (pc : Pc) : Frame :=
  match f with
  | .body h n m => if pc == h + BitVec.ofNat 56 (8 * n) then .header else .body h n m
  | .entry => .header
  | .header => .header

/-- A lane past the instruction it stands at; its debug exemption was for that issue (R218). -/
def Lane.advance (l : Lane) : Lane := { l with pc := l.pc + 8, frame := l.frame.next l.pc, exempt := false }

/-- A lane at the header it transfers to (R297). -/
def Lane.goto (l : Lane) (t : Pc) : Lane := { l with pc := t, frame := .header, exempt := false }

/-- The lanes of a group that are Ready, in ascending order. -/
def Warp.ready (w : Warp) : List Nat := (List.range w.lanes.length).filter fun k => (w.lane k).st == .ready

/-- The Ready lanes that may issue: those of a slice while one is taken (R136). -/
def Warp.eligible (w : Warp) : List Nat :=
  match w.slice with
  | some m => w.ready.filter fun k => inMask m k
  | none => w.ready

/-- The smallest PC of a list of lanes. -/
def Warp.minPc (w : Warp) : List Nat → Option Pc
  | [] => none
  | k :: ks => match w.minPc ks with
    | none => some (w.lane k).pc
    | some p => some (if (w.lane k).pc < p then (w.lane k).pc else p)

/-- The issue address (R126, R136). -/
def Warp.issueAddr (w : Warp) : Option Pc := w.minPc w.eligible

/-- Whether a wait leaves the choice of the front to R126: rbar (R141), and the stalls of a word that has not issued (R138, R163, R255). -/
def Wait.yields : Wait → Bool
  | .rbar => true
  | .pending => true
  | .fetch _ _ => true
  | .tile => true
  | .attn => true
  | _ => false

/-- The front: the eligible lanes at the issue address (R126); a group that waits in an issued word keeps the front it waits with (R439). -/
def Warp.front (w : Warp) : List Nat :=
  if w.wait.all Wait.yields then
    match w.issueAddr with
    | none => []
    | some p => w.eligible.filter fun k => (w.lane k).pc == p
  else w.ready.filter fun k => inMask w.waitF k

/-- Whether a group stalls at a word that has not issued. -/
def Warp.stalls (w : Warp) : Bool := w.wait != some .rbar && (w.wait.map Wait.yields).getD false

/-- Whether the next issue of a group tries a waiting instruction again (R205). -/
def Warp.retries (w : Warp) : Bool :=
  match w.wait with
  | none => false
  | some .rbar => w.waitF == maskOf w.front
  | some r => !r.yields

/-- A group at a new issue of a word, which is counted (R205). -/
def Warp.counted (w : Warp) : Warp := if w.retries then w else { w with issues := w.issues + 1 }

/-- The PC the front stands at. -/
def Warp.frontPc (w : Warp) : Pc :=
  match w.front with
  | k :: _ => (w.lane k).pc
  | [] => 0

/-- The front lanes that pass a guard. -/
def Warp.passing (w : Warp) (g : Guard) : List Nat := w.front.filter fun k => (w.lane k).passes g

/-- Some lanes changed by f. -/
def Warp.mapLanes (w : Warp) (ks : List Nat) (f : Nat → Lane → Lane) : Warp :=
  ks.foldl (fun w k => w.setLane k (f k (w.lane k))) w

/-- Some lanes past the instruction they stand at. -/
def Warp.advance (w : Warp) (ks : List Nat) : Warp := w.mapLanes ks fun _ l => l.advance

/-- The wait of a group ended. -/
def Warp.unwait (w : Warp) : Warp := { w with wait := none, waitF := 0 }

/-- Every front lane past the instruction, and any wait ended. -/
def Warp.done (w : Warp) : Warp := (w.advance w.front).unwait

/-- The group waits with its front: it holds no issue slot (R439). waitAt is when it began to wait for what it waits for. -/
def Warp.waiting (w : Warp) (now : Word) (r : Wait) : Warp :=
  { w with
    wait := some r
    waitF := if w.wait.isSome then w.waitF else maskOf w.front
    waitAt := if w.wait == some r then w.waitAt else now }

/-- A scalar register: s0 reads zero (R267). -/
def Warp.sget (w : Warp) (n : Nat) : Word := if n == 0 then 0 else w.sreg.getD n 0

/-- A scalar register written: a write to s0 is ignored (R267). -/
def Warp.sset (w : Warp) (n : Nat) (x : Word) : Warp := if n == 0 then w else { w with sreg := w.sreg.set n x }

/-- A scalar register that a halted group is about to receive late is noted as pending, with what it held (R221). -/
def Warp.noteS (w : Warp) (d : BitVec 6) (pc : Pc) : Warp :=
  if w.halted then { w with pend := w.pend ++ [⟨1, d.toNat, pc, [(w.sget d.toNat).setWidth 128]⟩] } else w

/-- A modulo register (R157). -/
def Warp.mget (w : Warp) (n : Nat) : Word := w.mreg.getD n 0

/-- A modulo register written. -/
def Warp.mset (w : Warp) (n : Nat) (x : Word) : Warp := { w with mreg := w.mreg.set n x }

/-- Whether a group has exited: every lane Exited or Vacant (R127). -/
def Warp.gone (w : Warp) : Bool := w.lanes.all fun l => l.st == .exited || l.st == .vacant

/-- Whether a group has a lane Parked or Trapped (R141). -/
def Warp.held? (w : Warp) : Bool := w.lanes.any fun l => l.st == .parked || l.st == .trapped

/-- A lane at entry (R293): Ready at the entry, registers +0, predicates false, its home identity. -/
def Lane.fresh (nregs : Nat) (pc : Pc) (ident : BitVec 16) : Lane :=
  { Lane.vacant with st := .ready, pc := pc, frame := .entry, v := List.replicate nregs 0, ident := ident }

/-- Scalar registers at entry (R293, R294): s1 holds PARAM, s2 the stage, the others zero. -/
def entryScalars (param stage : Nat) : List Word := ([0, BitVec.ofNat 64 param, BitVec.ofNat 64 stage] : List Word) ++ List.replicate 61 0

/-- A group with given lanes and scalars that has not issued. -/
def Warp.fresh (a : Agent) (nregs : Nat) (lanes : List Lane) (sreg : List Word) : Warp where
  agent := a
  lanes := lanes
  sreg := sreg
  mreg := List.replicate 8 0
  gang := 0
  fstat := 0
  nregs := nregs
  wait := none
  waitAt := 0
  waitF := 0
  issues := 0
  held := 0
  waited := 0
  fairT := 0
  fairF := 0
  fairP := none
  slice := none
  sliced := false
  dsr := none
  pend := []
  pendS := []
  attns := []
  late := none
  evicted := false
  halted := false

/-- A group of a newly placed tray, or of one that restarts in a stage (R293, R108, R112). -/
def Warp.atEntry (l t g nregs : Nat) (pc : Pc) (param stage : Nat) : Warp :=
  Warp.fresh (.group l t g) nregs ((List.range 32).map fun k => Lane.fresh nregs pc (BitVec.ofNat 16 (32 * g + k))) (entryScalars param stage)

/-! Joining the outbox (R173, R179) -/

/-- An entry at the tail of an agent's outbox. A boundary entry ends the region open at its issue: what is issued after it belongs to the next one (R179). -/
def State.push (s : State) (a : Agent) (k : OutKind) (boundary : Bool) : State :=
  let o := s.ord a
  s.setOrd a { o with outbox := o.outbox ++ [⟨k, o.region⟩], region := if boundary then o.region + 1 else o.region }

/-- The number that the next release of an agent to join its outbox will take: every entry but a plain write performs one (R204). -/
def Ord.nextRel (o : Ord) : Nat :=
  o.nrel + (o.outbox.filter fun e => match e.kind with
    | .write _ => false
    | _ => true).length + 1

/-- A release at a scope (R173). -/
def State.release (s : State) (a : Agent) (sc : Scope) : State := s.push a (.release sc none) true

/-! The ending of a launch (R63) -/

/-- STATUS of a record that completes: STATE 2, the cause and the code (R63). -/
def statusOf (code cause : Nat) : Word32 := BitVec.ofNat 32 (2 * 2 ^ 24 + cause * 2 ^ 16 + code)

/-- Whether a group's launch is in a slide's hold (R95). -/
def State.sliding (s : State) (a : Agent) : Bool := (s.launchOf a).any fun l => l.phase == .sliding

/-- Whether a launch has begun to issue (R100). -/
def Launch.ran (l : Launch) : Bool := l.phase == .running || l.phase == .sliding

/-- A launch ends with a STATUS, unless it is ending already. -/
def State.endLaunch (s : State) (l : Nat) (st : Word32) : State :=
  s.modLaunch l fun x => { x with ending := some (x.ending.getD st) }

/-! Taking an exception (R142 to R145, R210, R401) -/

/-- A trap that records only its cause. -/
def Trap.of (cause : Nat) : Trap := ⟨cause, 0, 0, 0⟩

/-- A trap with a DETAIL. -/
def Trap.at (cause : Nat) (detail : Nat) : Trap := ⟨cause, BitVec.ofNat 64 detail, 0, 0⟩

/-- The origin tag of lane k (R144). -/
def Trap.tag (t : Trap) (a : Agent) (k : Nat) (l : Lane) : Tag where
  w0 := BitVec.ofNat 64 (t.cause * 2 ^ 53 + l.pc.toNat / 8)
  w1 := BitVec.ofNat 64 (a.trayNo * 2 ^ 32 + k * 2 ^ 21 + a.groupNo * 2 ^ 16 + l.ident.toNat)
  w2 := t.detail
  w3 := t.w3
  w4 := t.w4

/-- A lane that traps: Trapped at the instruction, with its tag, the handler vector in force and the number of the release that the trap performs (R142, R145, R401). -/
def Lane.trapped (l : Lane) (tag : Tag) (hvec : Word) (cycle rel : Nat) : Lane :=
  { l with st := .trapped, tag := some tag, hvec := hvec, trapAt := cycle, rel := rel, gathered := false, park := none, back := none, exempt := false }

/-- The cause of a trap that replay does not log and so leaves outside every gathering (R3, R143): poison, out of space. -/
def Lane.ownCause (l : Lane) : Option Nat :=
  if l.st == .trapped && !l.gathered && l.back.isNone then
    (l.tag.map fun t => bits t.w0.toNat 53 8).filter fun c => c == 0x14 || c == 0x15
  else none

/-- The groups of a launch on this package. -/
def State.launchGroups (s : State) (l : Nat) : List Warp := ((s.trays.filter fun t => t.launch == l).map Tray.warps).flatten

/-- The STATUS with which a replaying launch diverges (R3, R210): that of an unlogged trap of one of its lanes, where there is one, since what differs may come from it (log entry 87: DEDUCED); else replay divergence. -/
def State.divergedStatus (s : State) (l : Nat) : Word32 := statusOf 0x10 (((s.launchGroups l).findSome? fun w => w.lanes.findSome? Lane.ownCause).getD 0x38)

/-- The STATUS with which a trap of a cause ends its launch (R143, R210). -/
def State.trapStatus (s : State) (l c : Nat) : Word32 := if c == 0x38 then s.divergedStatus l else statusOf 0x10 c

/-- Some lanes of a group trap at one instruction. In a group they become Trapped, which is a release at tray scope (R145); with HVEC zero, or replay
divergence, the launch ends (R143, R210). In a handler group the launch ends with the cause (R143). -/
def State.trapLanes (s : State) (w : Warp) (ts : List (Nat × Trap)) : State :=
  match ts with
  | [] => s.setWarp w
  | (_, t1) :: _ =>
    let t0 := ((ts.map Prod.snd).find? fun t => t.cause == 0x38).getD t1
    let lost := fun (s : State) => if t0.cause == 0x38 then s.modCtx (s.ctxOf w.agent) fun c => { c with diverged := true } else s
    match w.agent with
    | .group l ti _ =>
      let hvec := ((s.tray? l ti).map Tray.hvec).getD 0
      let w' := ts.foldl (fun (w : Warp) (p : Nat × Trap) =>
        w.setLane p.1 ((w.lane p.1).trapped (p.2.tag w.agent p.1 (w.lane p.1)) hvec s.cycle (s.ord w.agent).nextRel)) w
      let s' := (s.setWarp (if ts.any fun p => w.front.contains p.1 then w'.unwait else w')).release w.agent .tray
      lost (if t0.cause == 0x38 || hvec == 0 then s'.endLaunch l (s.trapStatus l t0.cause) else s')
    | .handler l _ => lost ((s.setWarp w).endLaunch l (s.trapStatus l t0.cause))
    | .engine _ _ _ => s
    | .port _ => s

/-- Every front lane traps with one cause, and the instruction takes no effect (R142). -/
def State.trapFront (s : State) (w : Warp) (t : Trap) : State := s.trapLanes w (w.front.map fun k => (k, t))

/-! Return from an exception (R140, R145, R208, R404) -/

/-- A lane that comes back: Ready at its load, at the tag's PC, or past it. A lane resumed from a breakpoint or a watchpoint is exempt for one issue (R218). -/
def Lane.returned (l : Lane) (b : Back) : Lane :=
  let c := bits ((l.tag.map (fun t => t.w0.toNat)).getD 0) 53 8
  match b with
  | .unpark => { l with st := .ready, park := none, back := none }
  | .resume => { l with st := .ready, tag := none, gathered := false, back := none, exempt := c == 0x50 || c == 0x51 }
  | .skip => { l.advance with st := .ready, tag := none, gathered := false, back := none }

/-- A lane that is killed (R145). -/
def Lane.killed (l : Lane) : Lane := { l with st := .exited, tag := none, gathered := false, back := none, park := none }

/-- What rte does with the origin lane (R145). -/
inductive Rte where
  | resume | skip | kill
deriving DecidableEq, Repr

/-- The origin lane of a handler lane as rte leaves it (R145): killed, or on its way back. A kill that leaves the origin group with no lane while it holds a deferred store record ends the
launch (R404). -/
def State.rteLane (s : State) (launch : Nat) (o : Origin) (r : Rte) : State :=
  match s.warp? (.group launch o.tray o.group) with
  | none => s
  | some w =>
    let l := w.lane o.vlane
    match r with
    | .resume => s.setWarp (w.setLane o.vlane { l with back := some .resume })
    | .skip => s.setWarp (w.setLane o.vlane { l with back := some .skip })
    | .kill =>
      let w' := w.setLane o.vlane l.killed
      let s' := s.setWarp w'
      if w'.gone && w.dsr.isSome then s'.endLaunch launch (statusOf 0x10 0x13) else s'

/-- Whether the device has work that keeps it from Idle (R74): a tray that is resident, or a record started. -/
def State.busy (s : State) : Bool :=
  (s.trays.any fun t => t.warps.any fun w => !w.gone && !w.evicted) || (s.ctxs.any fun p => p.2.chains.any fun h => h.recs.any fun r => r.st == 1)

end Machine

end Sys2Proof
end

