-- ==== Sys2Proof/Machine/Flags.lean ====
section
/-!
DEFINITION. The flags of fstat (R234 to R237), integer values by type (R295, R311), comparisons (R316, R317) and the integer flag
computations that instructions write to predicates.
-/

namespace Sys2Proof

/-- Invalid (R234). -/
def flNV : Nat := 1
/-- Divide-by-zero (R234). -/
def flDZ : Nat := 2
/-- Overflow (R234). -/
def flOF : Nat := 4
/-- Underflow (R234). -/
def flUF : Nat := 8
/-- Inexact (R234). -/
def flNX : Nat := 16

/-- How a result is extended when a scalar register takes it (R295, R325). -/
inductive Ext where
  | sx32 | zx32 | w64
deriving DecidableEq, Repr

/-- A result as a scalar register takes it: bits [63:32] copies of bit 31 for i types, zero for n and b types (R295). -/
def Ext.word (e : Ext) (r : Nat) : Word :=
  match e with
  | .sx32 => BitVec.ofInt 64 (signed 32 r)
  | .zx32 => BitVec.ofNat 64 (r % 2 ^ 32)
  | .w64 => BitVec.ofNat 64 r

/-- Whether a result takes 64 bits. -/
def Ext.is64 : Ext → Bool
  | .w64 => true
  | _ => false

/-- The extension of an integer type. -/
def IntTy.ext : IntTy → Ext
  | .i32 => .sx32 | .n32 => .zx32 | .i64 => .w64 | .n64 => .w64
/-- The extension of a bit type. -/
def BitTy.ext : BitTy → Ext
  | .b32 => .zx32 | .b64 => .w64
/-- The extension of a floating-point type (R325). -/
def FTy.ext : FTy → Ext
  | .f64 => .w64 | _ => .zx32

/-- Width in bits. -/
def IntTy.bits (t : IntTy) : Nat := if t.is64 then 64 else 32
/-- Width in bits. -/
def BitTy.bits (t : BitTy) : Nat := if t.is64 then 64 else 32

/-- Whether the type is signed. -/
def IntTy.sgn : IntTy → Bool
  | .i32 => true | .i64 => true | .n32 => false | .n64 => false

/-- The value of a register of the type: signed for i types, unsigned for n types (R311). -/
def IntTy.val (t : IntTy) (n : Nat) : Int := if t.sgn then signed t.bits n else ((n % 2 ^ t.bits : Nat) : Int)

/-- The smallest value of the type. -/
def IntTy.lo (t : IntTy) : Int := if t.sgn then -((2 ^ (t.bits - 1) : Nat) : Int) else 0
/-- The largest value of the type. -/
def IntTy.hi (t : IntTy) : Int := if t.sgn then ((2 ^ (t.bits - 1) : Nat) : Int) - 1 else ((2 ^ t.bits : Nat) : Int) - 1

/-- An integer clamped to bounds. -/
def clampI (lo hi z : Int) : Int := if z < lo then lo else if hi < z then hi else z

/-- A comparison of two integers (R316). -/
def Cond.eval (c : Cond) (a b : Int) : Bool :=
  match c with
  | .eq => decide (a = b) | .ne => decide (a ≠ b) | .lt => decide (a < b) | .le => decide (a ≤ b) | .gt => decide (b < a)
  | .ge => decide (b ≤ a)

/-- A comparison of two 32-bit values (R317). -/
def CondI.eval (c : CondI) (a b : Nat) : Bool :=
  match c with
  | .eq => decide (a % 2 ^ 32 = b % 2 ^ 32) | .ne => decide (a % 2 ^ 32 ≠ b % 2 ^ 32)
  | .lt => decide (signed 32 a < signed 32 b) | .le => decide (signed 32 a ≤ signed 32 b)
  | .gt => decide (signed 32 b < signed 32 a) | .ge => decide (signed 32 b ≤ signed 32 a)
  | .ltu => decide (a % 2 ^ 32 < b % 2 ^ 32) | .geu => decide (b % 2 ^ 32 ≤ a % 2 ^ 32)

/-- The combination of a comparison with p[C] (R316). -/
def Comb.eval (k : Comb) (p : BitVec 3 → Bool) (q : Bool) : Bool :=
  match k with
  | .none => q
  | .and c => q && p c
  | .or c => q || p c

namespace Machine

/-- Flags raised into fstat: a flag once set stays set (R234). -/
def Warp.raise (w : Warp) (fl : Nat) : Warp := { w with fstat := w.fstat ||| BitVec.ofNat 32 (fl % 32) }

/-- Whether fstat enables a trap on some raised flag (R237). -/
def Warp.traps (w : Warp) (fl : Nat) : Bool := (bits w.fstat.toNat 8 5 &&& fl) != 0

/-- fstat as a write leaves it: reserved bits read zero (R234, R402). -/
def fstatWrite (x : Nat) : Word32 := BitVec.ofNat 32 (x &&& 0x1F1F)

end Machine

end Sys2Proof
end

