-- ==== Sys2Proof/Machine/Operands.lean ====
section
/-!
DEFINITION. Operands: reading and writing every operand form (R267 to R269, R295, R325), the check of the registers a word names, and the
forms in which instructions act: once for the group, lane by lane, or lane by lane with each lane's own fate.
-/

namespace Sys2Proof

/-- What an operand names, for the check of R269 and the scoreboard (R138): vector registers from n, a scalar register. -/
inductive Opnd where
  | vec (n count : Nat)
  | sca (n : Nat)
deriving DecidableEq, Repr

/-- The registers a source names. -/
def Src.opnd (w64 : Bool) : Src → List Opnd
  | .v n => [.vec n.toNat (if w64 then 2 else 1)] | .s n => [.sca n.toNat] | .imm _ => []
/-- The registers a register operand names. -/
def Reg.opnd (w64 : Bool) : Reg → List Opnd
  | .v n => [.vec n.toNat (if w64 then 2 else 1)] | .s n => [.sca n.toNat]
/-- The registers a scalar source names. -/
def SSrc.opnd : SSrc → List Opnd
  | .s n => [.sca n.toNat] | .imm _ => []
/-- The registers the address operands of a space name (R350). -/
def MemOpd.opnd (m : MemOpd) (sp : Space) : List Opnd := m.a.opnd (sp == .g) ++ m.b.opnd false

/-- A vector operand of a width in bytes (R349). -/
def vecW (d : BitVec 8) (width : Nat) : Opnd := .vec d.toNat (if width ≤ 4 then 1 else width / 4)

/-- A vector operand of one register or a pair. -/
def vec2 (d : BitVec 8) (w64 : Bool) : Opnd := .vec d.toNat (if w64 then 2 else 1)

/-- The scale registers of an mma (R374). -/
def scaleRegs (c : BitVec 8) (n : Nat) : List Opnd := if n = 0 then [] else [.vec c.toNat n]

/-- The vector and scalar registers an instruction names (R268, R269). -/
def Instr.opnds : Instr → List Opnd
  | .nop _ | .bra _ _ | .exit _ | .rbar _ | .yield _ | .trap _ _ => []
  | .brx _ a | .ret _ a => a.opnd true
  | .call _ _ => [.sca 62]
  | .callx _ d a => d.opnd true ++ a.opnd true
  | .sleepuntil _ a => [.sca a.toNat]
  | .loop _ a _ => [.sca a.toNat]
  | .mov _ t d a => d.opnd t.is64 ++ a.opnd t.is64
  | .movi _ t d _ => d.opnd (t != .b32)
  | .movih _ d _ => d.opnd true
  | .add _ t d a b | .sub _ t d a b | .mul _ t d a b | .mulhi _ t d a b | .div _ t d a b | .rem _ t d a b
  | .min _ t d a b | .max _ t d a b | .addsat _ t d a b => d.opnd t.is64 ++ a.opnd t.is64 ++ b.opnd t.is64
  | .mad _ t d a b c | .clamp _ t d a b c | .bfe _ t d a b c =>
    d.opnd t.is64 ++ a.opnd t.is64 ++ b.opnd t.is64 ++ c.opnd t.is64
  | .bfi _ t d a b c => d.opnd t.is64 ++ a.opnd t.is64 ++ b.opnd t.is64 ++ c.opnd t.is64
  | .abs _ t d a | .neg _ t d a | .addi _ t d a _ => d.opnd t.is64 ++ a.opnd t.is64
  | .and _ t d a b | .or _ t d a b | .xor _ t d a b | .andn _ t d a b | .shl _ t d a b | .shr _ t d a b
  | .sar _ t d a b | .rot _ t d a b => d.opnd t.is64 ++ a.opnd t.is64 ++ b.opnd t.is64
  | .not _ t d a | .popc _ t d a | .clz _ t d a | .ctz _ t d a | .brev _ t d a | .bswap _ t d a => d.opnd t.is64 ++ a.opnd t.is64
  | .andi _ t d a _ | .ori _ t d a _ | .xori _ t d a _ | .shli _ t d a _ | .shri _ t d a _ | .sari _ t d a _ =>
    d.opnd t.is64 ++ a.opnd t.is64
  | .setp _ _ _ t _ a b => a.opnd t.is64 ++ b.opnd t.is64
  | .setpi _ _ _ a _ => a.opnd false
  | .sel _ t d a b _ => [vec2 d t.is64] ++ a.opnd t.is64 ++ b.opnd t.is64
  | .cvti _ dt sty _ d a => d.opnd dt.is64 ++ a.opnd sty.is64
  | .lea _ _ d a b => d.opnd true ++ a.opnd true ++ b.opnd false
  | .pset _ _ _ _ _ => []
  | .smov _ t d a l => [.sca d.toNat, vec2 a t.is64] ++ (l.map SSrc.opnd).getD []
  | .fadd _ t _ d a b | .fsub _ t _ d a b | .fmul _ t _ d a b | .fdiv _ t _ d a b | .fmin _ t _ d a b | .fmax _ t _ d a b =>
    d.opnd t.is64 ++ a.opnd t.is64 ++ b.opnd t.is64
  | .fscale _ t _ d a b => d.opnd t.is64 ++ a.opnd t.is64 ++ b.opnd false
  | .fma _ t _ d a b c => d.opnd t.is64 ++ a.opnd t.is64 ++ b.opnd t.is64 ++ c.opnd t.is64
  | .fabs _ t d a | .fneg _ t d a | .frnd _ t _ _ d a => d.opnd t.is64 ++ a.opnd t.is64
  | .fclass _ t d a => d.opnd false ++ a.opnd t.is64
  | .fsetp _ _ _ t _ a b => a.opnd t.is64 ++ b.opnd t.is64
  | .fmovi _ t d _ => d.opnd t.is64
  | .fdot2 _ _ _ d a b c => d.opnd false ++ a.opnd false ++ b.opnd false ++ c.opnd false
  | .cvt _ dt sty _ r d a =>
    d.opnd dt.is64 ++ a.opnd sty.is64 ++ (match r with
      | .mode _ => []
      | .rsto k c => k.opnd false ++ c.opnd false)
  | .cvtblk _ _ _ r d a b =>
    d.opnd false ++ a.opnd false ++ b.opnd ++ (match r with
      | .mode _ => []
      | .rsto c => c.opnd)
  | .cvtsc _ _ _ d a => [.sca d.toNat] ++ a.opnd false
  | .pack _ _ d a | .unpack _ _ d a => [vec2 d false] ++ a.opnd false
  | .exp2 _ _ d a | .log2 _ _ d a | .rcp _ _ d a | .rsqrt _ _ d a | .sqrt _ _ d a | .tanh _ _ d a | .sigmoid _ _ d a
  | .sinpi _ _ d a | .cospi _ _ d a => d.opnd false ++ a.opnd false
  | .shfl _ t _ d a b _ => [vec2 d t.is64] ++ a.opnd t.is64 ++ b.opnd false
  | .vote _ _ _ _ => []
  | .ballot _ d _ => d.opnd false
  | .reduce _ _ t _ d a => d.opnd t.is64 ++ a.opnd t.is64
  | .scan _ _ _ t _ d a => [vec2 d t.is64] ++ a.opnd t.is64
  | .sample _ d a b _ => d.opnd false ++ a.opnd false ++ b.opnd false
  | .leaven _ _ d a b => d.opnd false ++ a.opnd false ++ b.opnd false
  | .matchLanes _ _ t d a => [vec2 d false] ++ a.opnd t.is64
  | .ld _ sp t d m | .st _ sp t d m => [vecW d t.width] ++ m.opnd sp
  | .ldm _ t d _ x | .stm _ t d _ x => [vecW d t.width] ++ x.opnd false
  | .ldacq _ sp t _ d m | .strel _ sp t _ d m | .atom _ _ _ sp t d m | .red _ _ _ sp t d m => [vec2 d t.is64] ++ m.opnd sp
  | .pref _ _ sp _ m => m.opnd sp
  | .rflush _ a b => a.opnd ++ b.opnd
  | .cas _ _ sp t d a _ b => [vec2 d t.is64] ++ a.opnd (sp == .g) ++ b.opnd t.is64
  | .fence _ _ _ => []
  | .freeze _ d a b | .thaw _ d a b => [.sca d.toNat] ++ a.opnd ++ b.opnd
  | .mset _ _ a => a.opnd
  | .mget _ d _ => [.sca d.toNat]
  | .bar _ _ _ => []
  | .arrive _ _ d m | .swait _ d m => [.vec d.toNat 4] ++ m.opnd .sp
  | .qpush _ d a | .qpop _ d a _ => [.sca d.toNat] ++ a.opnd
  | .waitseq _ _ a b => a.opnd ++ b.opnd
  | .mma _ _ fa fb _ a b c =>
    [.vec a.toNat 16, .vec b.toNat 16] ++ scaleRegs c (fa.scales (mmaK fa fb) + fb.scales (mmaK fa fb))
  | .mmag _ _ _ _ _ a _ _ => a.opnd
  | .ldacc _ _ _ a b | .stacc _ _ _ a b => a.opnd ++ b.opnd
  | .zacc _ _ _ | .attnClose _ _ | .rescale _ _ _ | .tilebarRel _ _ => []
  | .attn _ dim _ a b c => [.vec a.toNat (16 * (dim.toNat + 1))] ++ b.opnd ++ c.opnd
  | .tilebarWait _ d _ b => [.sca d.toNat] ++ b.opnd
  | .slot _ d a b _ => [vec2 d false, vec2 a false] ++ b.opnd
  | .btswap _ a _ => a.opnd
  | .ldfrag _ fa d a b => [.vec d.toNat ((mmaK fa fa * fa.bits / 8 + 3) / 4)] ++ a.opnd ++ b.opnd
  | .accrd _ f d _ _ n => [.vec d.toNat ((n.toNat + 1) * (if f then 2 else 1))]
  | .accwr _ f _ a _ n => [.vec a.toNat ((n.toNat + 1) * (if f then 2 else 1))]
  | .append _ _ _ d a _ | .copy _ _ d a _ | .stream _ _ d a _ | .gather _ _ d a _ | .select _ _ d a _ | .coll _ _ d a _
  | .demote _ _ d a _ | .migrate _ _ d a _ => [.sca d.toNat] ++ a.opnd
  | .rdctl _ d _ => [.sca d.toNat]
  | .wrctl _ _ a => a.opnd
  | .rdspec _ (.pcv d) => [vec2 d true]
  | .rdspec _ (.lanemap d) => [vec2 d false]
  | .rdspec _ (.gang d) => [.sca d.toNat]
  | .rdspec _ (.fstat d) => [.sca d.toNat]
  | .wrspec _ _ a => a.opnd
  | .origin _ d _ => [vec2 d true]
  | .rteResume _ | .rteSkip _ | .rteKill _ | .logctlFlush _ => []
  | .locality _ d | .rdtime _ d | .logctlMode _ d => [.sca d.toNat]
  | .mark _ a d => a.opnd ++ d.opnd
  | .bpctl _ (.wbp _ a) => a.opnd
  | .bpctl _ (.wwp0 _ a) => a.opnd
  | .bpctl _ (.wwp1 _ a) => a.opnd
  | .bpctl _ (.rbp d _) => [.sca d.toNat]
  | .bpctl _ (.rwp0 d _) => [.sca d.toNat]
  | .bpctl _ (.rwp1 d _) => [.sca d.toNat]
  | .ident _ (.vlane d) => [vec2 d false]
  | .ident _ (.lane d) => [vec2 d false]
  | .ident _ (.dxy d) => [.sca d.toNat]
  | .ident _ (.tray d) => [.sca d.toNat]
  | .ident _ (.patch d) => [.sca d.toNat]
  | .ident _ (.group d) => [.sca d.toNat]
  | .ident _ (.stage d) => [.sca d.toNat]
  | .ident _ (.handler d) => [.sca d.toNat]
  | .rdcnt _ d _ => [.sca d.toNat]
  | _ => []

namespace Machine

/-- Whether a group holds an operand's registers (R269). -/
def Warp.holds (w : Warp) : Opnd → Bool
  | .vec n count => decide (n + count ≤ w.nregs)
  | .sca _ => true

/-- Whether an operand is a scalar register whose value is still pending (R389). -/
def Warp.pendingOpnd (w : Warp) : Opnd → Bool
  | .vec _ _ => false
  | .sca n => w.pendS.any fun p => p.toNat == n

/-- An instruction word at issue: the issuing group; the decode faults of R269 and R281, which take every front lane whatever the guard (R266); the wait for a
scalar whose value is pending (R389); then the instruction's own effect. -/
def word (i : Instr) (s : State) (k : Warp → State) : Out :=
  match s.turn.bind s.warp? with
  | none => .fault .noIssuer
  | some w =>
    if !i.wf || !i.opnds.all w.holds then .next (s.trapFront w (.of 0x02))
    else if i.opnds.any w.pendingOpnd then .next (s.setWarp (w.waiting s.now .pending))
    else .next (k w)

/-- A source as a number of 32 or 64 bits (R295): a vector register or pair of the lane, a scalar or its low 32 bits, or a sign-extended small immediate. -/
def rdSrc (w : Warp) (l : Lane) (w64 : Bool) : Src → Nat
  | .v n => if w64 then l.dget n.toNat else (l.vget n.toNat).toNat
  | .s n => if w64 then (w.sget n.toNat).toNat else (w.sget n.toNat).toNat % 2 ^ 32
  | .imm k => if w64 then wrap 64 (signed 7 k.toNat) else wrap 32 (signed 7 k.toNat)

/-- A register operand as a number. -/
def rdReg (w : Warp) (l : Lane) (w64 : Bool) : Reg → Nat
  | .v n => if w64 then l.dget n.toNat else (l.vget n.toNat).toNat
  | .s n => if w64 then (w.sget n.toNat).toNat else (w.sget n.toNat).toNat % 2 ^ 32

/-- A scalar source (R268). -/
def rdS (w : Warp) : SSrc → Word
  | .s n => w.sget n.toNat
  | .imm k => BitVec.ofInt 64 (signed 7 k.toNat)

/-- A result written to a vector register or pair of a lane. -/
def Lane.put (l : Lane) (e : Ext) (n : BitVec 8) (r : Nat) : Lane :=
  if e.is64 then l.dset n.toNat r else l.vset n.toNat (BitVec.ofNat 32 r)

/-- A destination written: a vector of the lane (R267). -/
def Lane.putReg (l : Lane) (e : Ext) (d : Reg) (r : Nat) : Lane :=
  match d with
  | .v n => l.put e n r
  | .s _ => l

/-- What becomes of a passing lane at an instruction: it completes with new contents and raises flags, or it traps, or it parks for a page (R140, R142). -/
inductive Fate where
  | done (l : Lane) (fl : Nat)
  | trap (t : Trap)
  | park (page va : Nat)
deriving DecidableEq, Repr

/-- The fates of the front applied: lanes that complete advance, parked lanes stay, and the others trap (R140, R142). -/
def applyFates (s : State) (w : Warp) (fs : List (Nat × Fate)) : State :=
  let w1 := fs.foldl (fun (w : Warp) (p : Nat × Fate) =>
    match p.2 with
    | .done l fl => (w.setLane p.1 l.advance).raise fl
    | .park page va => w.setLane p.1 { w.lane p.1 with st := .parked, park := some page, parkVa := BitVec.ofNat 64 va }
    | .trap _ => w) w
  s.trapLanes w1.unwait (fs.filterMap fun p => match p.2 with
    | .trap t => some (p.1, t)
    | .done _ _ => none
    | .park _ _ => none)

/-- An instruction that acts lane by lane on registers: each passing front lane meets its fate, the others advance (R266). -/
def lanewise (s : State) (w : Warp) (g : Guard) (f : Nat → Lane → Fate) : State :=
  applyFates s w (w.front.map fun k => (k, if (w.lane k).passes g then f k (w.lane k) else .done (w.lane k) 0))

/-- An instruction that acts once for the group when a front lane passes (R266): the group as f leaves it, every front lane past it. -/
def groupwise (s : State) (w : Warp) (g : Guard) (f : Warp → Warp) : State :=
  s.setWarp ((if (w.passing g).isEmpty then w else f w).done)

/-- A result computed in each passing lane, or once for a scalar destination, with the flags it raises; an enabled flag traps the lane, or the front, with cause
0x40 (R237, R295, R326). -/
def compute (s : State) (w : Warp) (g : Guard) (d : Reg) (e : Ext) (f : Lane → Nat × Nat) : State :=
  match d with
  | .v n => lanewise s w g fun _ l =>
      if w.traps (f l).2 then .trap (.of 0x40) else .done (l.put e n (f l).1) (f l).2
  | .s n =>
    if (w.passing g).isEmpty then s.setWarp w.done
    else if w.traps (f Lane.vacant).2 then s.trapFront w (.of 0x40)
    else s.setWarp ((w.sset n.toNat (e.word (f Lane.vacant).1)).raise (f Lane.vacant).2).done

/-- A result that raises no flag. -/
def compute0 (s : State) (w : Warp) (g : Guard) (d : Reg) (e : Ext) (f : Lane → Nat) : State :=
  match d with
  | .v n => lanewise s w g fun _ l => .done (l.put e n (f l)) 0
  | .s n => groupwise s w g fun w => w.sset n.toNat (e.word (f Lane.vacant))

/-- A predicate computed in each passing lane, with the flags it raises (R316, R331). -/
def computeP (s : State) (w : Warp) (g : Guard) (d : BitVec 3) (f : Lane → Bool × Nat) : State :=
  lanewise s w g fun _ l => if w.traps (f l).2 then .trap (.of 0x40) else .done (l.setPred d (f l).1) (f l).2

end Machine

end Sys2Proof
end

