-- ==== Sys2Proof/Machine/Integer.lean ====
section
/-!
DEFINITION. The moves, the integer arithmetic, logic, shifts, comparisons, bit fields, width conversion and address arithmetic of R309 to R323.
-/

namespace Sys2Proof

/-! Results (R311 to R314, R320 to R323) -/

/-- A two-source result computed exactly and kept mod 2^w (R311). -/
def IntTy.bin (t : IntTy) (f : Int → Int → Int) (a b : Nat) : Nat := wrap t.bits (f (t.val a) (t.val b))

/-- The quotient, truncated towards zero, with the edges of R312. -/
def intDiv (a b : Int) : Int := if b = 0 then -1 else Int.tdiv a b

/-- The remainder with the sign of a, with the edges of R312. -/
def intRem (a b : Int) : Int := if b = 0 then a else Int.tmod a b

/-- a shifted left (R314). -/
def shlN (w a n : Nat) : Nat := if w ≤ n then 0 else (a * 2 ^ n) % 2 ^ w
/-- a shifted right (R314). -/
def shrN (w a n : Nat) : Nat := if w ≤ n then 0 else (a % 2 ^ w) >>> n
/-- a shifted right with copies of its sign bit (R314). -/
def sarN (w a n : Nat) : Nat := wrap w (signed w a / ((2 ^ Nat.min n (w - 1) : Nat) : Int))
/-- a rotated left by n mod w (R314). -/
def rotN (w a n : Nat) : Nat := ((a % 2 ^ w) * 2 ^ (n % w) + (a % 2 ^ w) / 2 ^ (w - n % w)) % 2 ^ w
/-- The complement in w bits. -/
def notN (w a : Nat) : Nat := 2 ^ w - 1 - a % 2 ^ w

/-- The number of set bits among the low w (R321). -/
def popcN (w a : Nat) : Nat := ((List.range w).filter fun k => bit a k).length
/-- The number of zero bits above the highest set bit (R321). -/
def clzN (w a : Nat) : Nat := if a % 2 ^ w = 0 then w else w - 1 - Nat.log2 (a % 2 ^ w)
/-- The number of zero bits below the lowest set bit (R321). -/
def ctzN (w a : Nat) : Nat := ((List.range w).takeWhile fun k => !bit a k).length
/-- Bit k moved to bit w - 1 - k (R321). -/
def brevN (w a : Nat) : Nat := (List.range w).foldl (fun r k => 2 * r + bits a k 1) 0
/-- Byte k moved to byte w/8 - 1 - k (R321). -/
def bswapN (w a : Nat) : Nat := (List.range (w / 8)).foldl (fun r k => 256 * r + bits a (8 * k) 8) 0

/-- A bit field extracted (R320): position and length from the low 8 bits of B and C. -/
def bfeN (t : IntTy) (a b c : Nat) : Nat :=
  let p := Nat.min (b % 256) t.bits
  let n := Nat.min (c % 256) (t.bits - p)
  if n = 0 then 0 else if t.sgn then wrap t.bits (signed n (bits a p n)) else bits a p n

/-- A bit field inserted into the old D (R320). -/
def bfiN (w d a b c : Nat) : Nat :=
  let p := Nat.min (b % 256) w
  let n := Nat.min (c % 256) (w - p)
  setBits (d % 2 ^ w) p n a

/-- Width of an integer type in bits (R322). -/
def Ty.iw : Ty → Nat
  | .i8 => 8 | .n8 => 8 | .i16 => 16 | .n16 => 16 | .i64 => 64 | .n64 => 64
  | .i32 => 32 | .n32 => 32 | .f16 => 16 | .bf16 => 16 | .f32 => 32 | .f64 => 64 | .e4m3 => 8 | .e5m2 => 8 | .e3m2 => 6
  | .e2m3 => 6 | .e2m1 => 4 | .sc20 => 20 | .i4 => 4 | .n4 => 4 | .b128 => 128 | .b32 => 32 | .b64 => 64

/-- Signed integer types (R223). -/
def Ty.sgn : Ty → Bool
  | .i8 | .i16 | .i32 | .i64 | .i4 => true
  | .n8 | .n16 | .n32 | .n64 | .f16 | .bf16 | .f32 | .f64 | .e4m3 | .e5m2 | .e3m2 | .e2m3 | .e2m1 | .sc20 | .n4 | .b128 | .b32
  | .b64 => false

/-- The extension of a type's results in a scalar register (R295, R325). -/
def Ty.ext (t : Ty) : Ext := if t.is64 then .w64 else if t.sgn then .sx32 else .zx32

/-- The value of the low bits of a register in an integer type (R322). -/
def Ty.ival (t : Ty) (n : Nat) : Int := if t.sgn then signed t.iw n else ((n % 2 ^ t.iw : Nat) : Int)

/-- The bounds of an integer type. -/
def Ty.ilo (t : Ty) : Int := if t.sgn then -((2 ^ (t.iw - 1) : Nat) : Int) else 0
/-- The bounds of an integer type. -/
def Ty.ihi (t : Ty) : Int := if t.sgn then ((2 ^ (t.iw - 1) : Nat) : Int) - 1 else ((2 ^ t.iw : Nat) : Int) - 1

/-- An integer in a type, as its register holds it: narrow results extended by sign or by zeros (R322, R325). -/
def Ty.ireg (t : Ty) (z : Int) : Nat := wrap (if t.is64 then 64 else 32) (t.ival (wrap t.iw z))

/-- A width conversion (R322). -/
def cvtiN (dt st : Ty) (sat : Bool) (a : Nat) : Nat :=
  dt.ireg (if sat then clampI dt.ilo dt.ihi (st.ival a) else st.ival a)

namespace Machine

/-- A one-source instruction of an integer or bit type. -/
def un (i : Instr) (s : State) (g : Guard) (e : Ext) (d : Reg) (a : Src) (f : Nat → Nat) : Out :=
  word i s fun w => compute0 s w g d e fun l => f (rdSrc w l e.is64 a)

/-- A two-source instruction of an integer or bit type. -/
def bin (i : Instr) (s : State) (g : Guard) (e : Ext) (d : Reg) (a b : Src) (f : Nat → Nat → Nat) : Out :=
  word i s fun w => compute0 s w g d e fun l => f (rdSrc w l e.is64 a) (rdSrc w l e.is64 b)

/-- A three-source instruction of an integer or bit type. -/
def tern (i : Instr) (s : State) (g : Guard) (e : Ext) (d : Reg) (a b c : Src) (f : Nat → Nat → Nat → Nat) : Out :=
  word i s fun w => compute0 s w g d e fun l => f (rdSrc w l e.is64 a) (rdSrc w l e.is64 b) (rdSrc w l e.is64 c)

/-- An immediate sign-extended to a register of the type (R315). -/
def immExt (e : Ext) (imm : BitVec 32) : Nat := wrap (if e.is64 then 64 else 32) (signed 32 imm.toNat)

/-- `mov`: D := A (R309). -/
def execMov (g : Guard) (t : BitTy) (d : Reg) (a : Src) (s : State) : Out :=
  un (.mov g t d a) s g t.ext d a fun a => a

/-- `movi`: D := IMM, as SUB extends it (R309). -/
def execMovi (g : Guard) (t : MoviTy) (d : Reg) (imm : BitVec 32) (s : State) : Out :=
  word (.movi g t d imm) s fun w => compute0 s w g d (if t == .b32 then .zx32 else .w64) fun _ =>
    match t with
    | .b32 => imm.toNat
    | .i64 => wrap 64 (signed 32 imm.toNat)
    | .n64 => imm.toNat

/-- `movih`: D[63:32] := IMM, the low half kept (R309). -/
def execMovih (g : Guard) (d : Reg) (imm : BitVec 32) (s : State) : Out :=
  word (.movih g d imm) s fun w => compute0 s w g d .w64 fun l => rdReg w l true d % 2 ^ 32 + imm.toNat * 2 ^ 32

/-- `add`: a + b (R311). -/
def execAdd (g : Guard) (t : IntTy) (d : Reg) (a b : Src) (s : State) : Out :=
  bin (.add g t d a b) s g t.ext d a b (t.bin (· + ·))

/-- `sub`: a - b (R311). -/
def execSub (g : Guard) (t : IntTy) (d : Reg) (a b : Src) (s : State) : Out :=
  bin (.sub g t d a b) s g t.ext d a b (t.bin (· - ·))

/-- `mul`: the low w bits of the product (R311). -/
def execMul (g : Guard) (t : IntTy) (d : Reg) (a b : Src) (s : State) : Out :=
  bin (.mul g t d a b) s g t.ext d a b (t.bin (· * ·))

/-- `mulhi`: the high w bits of the product (R311). -/
def execMulhi (g : Guard) (t : IntTy) (d : Reg) (a b : Src) (s : State) : Out :=
  bin (.mulhi g t d a b) s g t.ext d a b (t.bin fun x y => x * y / ((2 ^ t.bits : Nat) : Int))

/-- `div`: the quotient, with the edges of R312 (R311). -/
def execDiv (g : Guard) (t : IntTy) (d : Reg) (a b : Src) (s : State) : Out :=
  bin (.div g t d a b) s g t.ext d a b (t.bin intDiv)

/-- `rem`: the remainder, with the edges of R312 (R311). -/
def execRem (g : Guard) (t : IntTy) (d : Reg) (a b : Src) (s : State) : Out :=
  bin (.rem g t d a b) s g t.ext d a b (t.bin intRem)

/-- `min`: the smaller (R311). -/
def execMin (g : Guard) (t : IntTy) (d : Reg) (a b : Src) (s : State) : Out :=
  bin (.min g t d a b) s g t.ext d a b (t.bin fun x y => if x ≤ y then x else y)

/-- `max`: the larger (R311). -/
def execMax (g : Guard) (t : IntTy) (d : Reg) (a b : Src) (s : State) : Out :=
  bin (.max g t d a b) s g t.ext d a b (t.bin fun x y => if x ≤ y then y else x)

/-- `addsat`: the sum clamped to the range of the type (R311). -/
def execAddsat (g : Guard) (t : IntTy) (d : Reg) (a b : Src) (s : State) : Out :=
  bin (.addsat g t d a b) s g t.ext d a b (t.bin fun x y => clampI t.lo t.hi (x + y))

/-- `addi`: A plus the sign-extended immediate (R315). -/
def execAddi (g : Guard) (t : IntTy) (d : Reg) (a : Src) (imm : BitVec 32) (s : State) : Out :=
  un (.addi g t d a imm) s g t.ext d a fun x => t.bin (· + ·) x (immExt t.ext imm)

/-- `mad`: a × b + c, low w bits (R311). -/
def execMad (g : Guard) (t : IntTy) (d : Reg) (a b c : Src) (s : State) : Out :=
  tern (.mad g t d a b c) s g t.ext d a b c fun x y z => wrap t.bits (t.val x * t.val y + t.val z)

/-- `clamp`: min(max(a, b), c) (R311). -/
def execClamp (g : Guard) (t : IntTy) (d : Reg) (a b c : Src) (s : State) : Out :=
  tern (.clamp g t d a b c) s g t.ext d a b c fun x y z =>
    wrap t.bits (min (max (t.val x) (t.val y)) (t.val z))

/-- `abs`: |a| mod 2^w (R313). -/
def execAbs (g : Guard) (t : IntTy) (d : Reg) (a : Src) (s : State) : Out :=
  un (.abs g t d a) s g t.ext d a fun x => wrap t.bits (Int.natAbs (t.val x))

/-- `neg`: (0 - a) mod 2^w (R313). -/
def execNeg (g : Guard) (t : IntTy) (d : Reg) (a : Src) (s : State) : Out :=
  un (.neg g t d a) s g t.ext d a fun x => wrap t.bits (0 - t.val x)

/-- `and`: a and b (R314). -/
def execAnd (g : Guard) (t : BitTy) (d : Reg) (a b : Src) (s : State) : Out :=
  bin (.and g t d a b) s g t.ext d a b fun x y => x &&& y

/-- `or`: a or b (R314). -/
def execOr (g : Guard) (t : BitTy) (d : Reg) (a b : Src) (s : State) : Out :=
  bin (.or g t d a b) s g t.ext d a b fun x y => x ||| y

/-- `xor`: a xor b (R314). -/
def execXor (g : Guard) (t : BitTy) (d : Reg) (a b : Src) (s : State) : Out :=
  bin (.xor g t d a b) s g t.ext d a b fun x y => x ^^^ y

/-- `andn`: a and not b (R314). -/
def execAndn (g : Guard) (t : BitTy) (d : Reg) (a b : Src) (s : State) : Out :=
  bin (.andn g t d a b) s g t.ext d a b fun x y => x &&& notN t.bits y

/-- `shl`: a shifted left by the low 32 bits of B (R314). -/
def execShl (g : Guard) (t : BitTy) (d : Reg) (a b : Src) (s : State) : Out :=
  bin (.shl g t d a b) s g t.ext d a b fun x y => shlN t.bits x (y % 2 ^ 32)

/-- `shr`: a shifted right (R314). -/
def execShr (g : Guard) (t : BitTy) (d : Reg) (a b : Src) (s : State) : Out :=
  bin (.shr g t d a b) s g t.ext d a b fun x y => shrN t.bits x (y % 2 ^ 32)

/-- `sar`: a shifted right with its sign (R314). -/
def execSar (g : Guard) (t : BitTy) (d : Reg) (a b : Src) (s : State) : Out :=
  bin (.sar g t d a b) s g t.ext d a b fun x y => sarN t.bits x (y % 2 ^ 32)

/-- `rot`: a rotated left (R314). -/
def execRot (g : Guard) (t : BitTy) (d : Reg) (a b : Src) (s : State) : Out :=
  bin (.rot g t d a b) s g t.ext d a b fun x y => rotN t.bits x (y % 2 ^ 32)

/-- `not` (R314). -/
def execNot (g : Guard) (t : BitTy) (d : Reg) (a : Src) (s : State) : Out :=
  un (.not g t d a) s g t.ext d a (notN t.bits)

/-- `andi`: A and the sign-extended immediate (R315). -/
def execAndi (g : Guard) (t : BitTy) (d : Reg) (a : Src) (imm : BitVec 32) (s : State) : Out :=
  un (.andi g t d a imm) s g t.ext d a fun x => x &&& immExt t.ext imm

/-- `ori`: A or the sign-extended immediate (R315). -/
def execOri (g : Guard) (t : BitTy) (d : Reg) (a : Src) (imm : BitVec 32) (s : State) : Out :=
  un (.ori g t d a imm) s g t.ext d a fun x => x ||| immExt t.ext imm

/-- `xori`: A xor the sign-extended immediate (R315). -/
def execXori (g : Guard) (t : BitTy) (d : Reg) (a : Src) (imm : BitVec 32) (s : State) : Out :=
  un (.xori g t d a imm) s g t.ext d a fun x => x ^^^ immExt t.ext imm

/-- `shli`: A shifted left by the immediate (R315). -/
def execShli (g : Guard) (t : BitTy) (d : Reg) (a : Src) (imm : BitVec 32) (s : State) : Out :=
  un (.shli g t d a imm) s g t.ext d a fun x => shlN t.bits x imm.toNat

/-- `shri`: A shifted right by the immediate (R315). -/
def execShri (g : Guard) (t : BitTy) (d : Reg) (a : Src) (imm : BitVec 32) (s : State) : Out :=
  un (.shri g t d a imm) s g t.ext d a fun x => shrN t.bits x imm.toNat

/-- `sari`: A shifted right with its sign by the immediate (R315). -/
def execSari (g : Guard) (t : BitTy) (d : Reg) (a : Src) (imm : BitVec 32) (s : State) : Out :=
  un (.sari g t d a imm) s g t.ext d a fun x => sarN t.bits x imm.toNat

/-- `setp`: a predicate from a comparison, combined with p[C] (R316). -/
def execSetp (g : Guard) (c : Cond) (k : Comb) (t : IntTy) (d : BitVec 3) (a b : Src) (s : State) : Out :=
  word (.setp g c k t d a b) s fun w => computeP s w g d fun l =>
    (k.eval l.pred (c.eval (t.val (rdSrc w l t.is64 a)) (t.val (rdSrc w l t.is64 b))), 0)

/-- `setpi`: a predicate from a comparison with IMM (R317). -/
def execSetpi (g : Guard) (c : CondI) (d : BitVec 3) (a : Src) (imm : BitVec 32) (s : State) : Out :=
  word (.setpi g c d a imm) s fun w => computeP s w g d fun l => (c.eval (rdSrc w l false a) imm.toNat, 0)

/-- `sel`: p[C] ? A : B (R319). -/
def execSel (g : Guard) (t : BitTy) (d : BitVec 8) (a b : Src) (c : BitVec 3) (s : State) : Out :=
  word (.sel g t d a b c) s fun w => compute0 s w g (.v d) t.ext fun l =>
    if l.pred c then rdSrc w l t.is64 a else rdSrc w l t.is64 b

/-- `bfe` (R320). -/
def execBfe (g : Guard) (t : IntTy) (d : Reg) (a b c : Src) (s : State) : Out :=
  tern (.bfe g t d a b c) s g t.ext d a b c (bfeN t)

/-- `bfi`: it reads D as a source (R320). -/
def execBfi (g : Guard) (t : BitTy) (d : Reg) (a b c : Src) (s : State) : Out :=
  word (.bfi g t d a b c) s fun w => compute0 s w g d t.ext fun l =>
    bfiN t.bits (rdReg w l t.is64 d) (rdSrc w l t.is64 a) (rdSrc w l t.is64 b) (rdSrc w l t.is64 c)

/-- `popc` (R321). -/
def execPopc (g : Guard) (t : BitTy) (d : Reg) (a : Src) (s : State) : Out :=
  un (.popc g t d a) s g t.ext d a (popcN t.bits)

/-- `clz` (R321). -/
def execClz (g : Guard) (t : BitTy) (d : Reg) (a : Src) (s : State) : Out :=
  un (.clz g t d a) s g t.ext d a (clzN t.bits)

/-- `ctz` (R321). -/
def execCtz (g : Guard) (t : BitTy) (d : Reg) (a : Src) (s : State) : Out :=
  un (.ctz g t d a) s g t.ext d a (ctzN t.bits)

/-- `brev` (R321). -/
def execBrev (g : Guard) (t : BitTy) (d : Reg) (a : Src) (s : State) : Out :=
  un (.brev g t d a) s g t.ext d a (brevN t.bits)

/-- `bswap` (R321). -/
def execBswap (g : Guard) (t : BitTy) (d : Reg) (a : Src) (s : State) : Out :=
  un (.bswap g t d a) s g t.ext d a (bswapN t.bits)

/-- `cvti`: between integer widths (R322). -/
def execCvti (g : Guard) (dt sty : Ty) (sat : Bool) (d : Reg) (a : Src) (s : State) : Out :=
  word (.cvti g dt sty sat d a) s fun w => compute0 s w g d dt.ext fun l => cvtiN dt sty sat (rdSrc w l sty.is64 a)

/-- `lea`: A + B' × 2^k mod 2^64 (R323). -/
def execLea (g : Guard) (k : BitVec 3) (d : Reg) (a b : Src) (s : State) : Out :=
  word (.lea g k d a b) s fun w => compute0 s w g d .w64 fun l =>
    wrap 64 ((rdSrc w l true a : Int) + signed 32 (rdSrc w l false b) * ((2 ^ k.toNat : Nat) : Int))

/-- `pset`: predicates combined lane by lane (R318). -/
def execPset (g : Guard) (o : PsetOp) (d a b : BitVec 3) (s : State) : Out :=
  word (.pset g o d a b) s fun w => computeP s w g d fun l =>
    (match o with
      | .and => l.pred a && l.pred b
      | .or => l.pred a || l.pred b
      | .xor => xor (l.pred a) (l.pred b)
      | .andn => l.pred a && !l.pred b
      | .not => !l.pred a, 0)

/-- `smov`: a vector value of one lane, or 0 for a lane that is not a passing lane of the front (R310). -/
def execSmov (g : Guard) (t : BitTy) (d : BitVec 6) (a : BitVec 8) (lane : Option SSrc) (s : State) : Out :=
  word (.smov g t d a lane) s fun w => groupwise s w g fun w =>
    let k := match lane with
      | none => (w.passing g).headD 32
      | some b => (rdS w b).toNat
    w.sset d.toNat (if (w.passing g).contains k then t.ext.word (rdSrc w (w.lane k) t.is64 (.v a)) else 0)

end Machine

end Sys2Proof
end

