-- ==== Sys2Proof/Machine/Float.lean ====
section
/-!
DEFINITION. Number formats and rounding (R222 to R226, R235, R238, R240, R242): exact values as dyadic rationals, one rounding for every result, and the
arithmetic of the floating-point formats.
-/

namespace Sys2Proof

/-- A rounding: modes 0 to 3, or stochastic with its leaven value (R238, R242). -/
inductive RM where
  | rne | rz | rdn | rup
  | rsto (x : Nat)
deriving DecidableEq, Repr

/-- The rounding of a mode. -/
def Rnd.rm : Rnd → RM
  | .rne => .rne | .rz => .rz | .rdn => .rdn | .rup => .rup

/-- How a format uses its top encodings (R222): as IEEE formats do, one NaN only (e4m3), none, or the unsigned scale (R225). -/
inductive FKind where
  | ieee | nanOnly | none | scale
deriving DecidableEq, Repr

/-- A binary format (R222, R225): exponent bits, fraction bits, bias. -/
structure FFmt where
  eb   : Nat
  fb   : Nat
  bias : Nat
  kind : FKind
deriving DecidableEq, Repr

/-- The formats of R222 and R225. -/
def FFmt.f64 : FFmt := ⟨11, 52, 1023, .ieee⟩
/-- binary32. -/
def FFmt.f32 : FFmt := ⟨8, 23, 127, .ieee⟩
/-- binary16. -/
def FFmt.f16 : FFmt := ⟨5, 10, 15, .ieee⟩
/-- bf16. -/
def FFmt.bf16 : FFmt := ⟨8, 7, 127, .ieee⟩
/-- e4m3. -/
def FFmt.e4m3 : FFmt := ⟨4, 3, 7, .nanOnly⟩
/-- e5m2. -/
def FFmt.e5m2 : FFmt := ⟨5, 2, 15, .ieee⟩
/-- e3m2. -/
def FFmt.e3m2 : FFmt := ⟨3, 2, 3, .none⟩
/-- e2m3. -/
def FFmt.e2m3 : FFmt := ⟨2, 3, 1, .none⟩
/-- e2m1. -/
def FFmt.e2m1 : FFmt := ⟨2, 1, 1, .none⟩
/-- sc20. -/
def FFmt.sc20 : FFmt := ⟨8, 12, 127, .scale⟩

/-- The format of a floating-point type. -/
def FTy.fmt : FTy → FFmt
  | .f16 => .f16 | .bf16 => .bf16 | .f32 => .f32 | .f64 => .f64

/-- The format of a type that has one. -/
def Ty.ffmt : Ty → Option FFmt
  | .f16 => some .f16 | .bf16 => some .bf16 | .f32 => some .f32 | .f64 => some .f64 | .e4m3 => some .e4m3 | .e5m2 => some .e5m2
  | .e3m2 => some .e3m2 | .e2m3 => some .e2m3 | .e2m1 => some .e2m1 | .sc20 => some .sc20
  | .i8 | .i16 | .i32 | .i64 | .n8 | .n16 | .n32 | .n64 | .i4 | .n4 | .b128 | .b32 | .b64 => Option.none

/-- The exponent of the unit of the smallest subnormal. -/
def FFmt.umin (f : FFmt) : Int := 1 - (f.bias : Int) - f.fb

/-- The largest finite magnitude as a code without its sign (R222, R225). -/
def FFmt.maxCode (f : FFmt) : Nat :=
  match f.kind with
  | .ieee => (2 ^ f.eb - 1) * 2 ^ f.fb - 1
  | .scale => (2 ^ f.eb - 1) * 2 ^ f.fb - 1
  | .nanOnly => 2 ^ (f.eb + f.fb) - 2
  | .none => 2 ^ (f.eb + f.fb) - 1

/-- The code of infinity without its sign. -/
def FFmt.infCode (f : FFmt) : Nat := (2 ^ f.eb - 1) * 2 ^ f.fb

/-- The place of the sign. -/
def FFmt.signBit (f : FFmt) : Nat := 2 ^ (f.eb + f.fb)

/-- A code with its sign. -/
def FFmt.withSign (f : FFmt) (neg : Bool) (code : Nat) : Nat := if neg then f.signBit + code else code

/-- The default NaN (R240). -/
def FFmt.qnan (f : FFmt) : Nat := f.infCode + 2 ^ (f.fb - 1)

/-- A value of a format: a NaN with its fraction, an infinity, or (-1)^neg × m × 2^e. -/
inductive FV where
  | nan (neg quiet : Bool) (frac : Nat)
  | inf (neg : Bool)
  | fin (neg : Bool) (m : Nat) (e : Int)
deriving DecidableEq, Repr

/-- The value of a code (R222, R223, R225). A scale word with a bit above its 20 set reads as a NaN scale (R225). -/
def FFmt.dec (f : FFmt) (x : Nat) : FV :=
  let neg := f.kind != .scale && bit x (f.eb + f.fb)
  let e := bits x f.fb f.eb
  let m := bits x 0 f.fb
  let top := decide (e = 2 ^ f.eb - 1)
  match f.kind with
  | .scale => if top || decide (2 ^ 20 ≤ x) then .nan false true 0
      else if e = 0 then .fin false m f.umin else .fin false (2 ^ f.fb + m) (f.umin + e - 1)
  | .nanOnly => if top && decide (m = 2 ^ f.fb - 1) then .nan neg true m
      else if e = 0 then .fin neg m f.umin else .fin neg (2 ^ f.fb + m) (f.umin + e - 1)
  | .none => if e = 0 then .fin neg m f.umin else .fin neg (2 ^ f.fb + m) (f.umin + e - 1)
  | .ieee => if top then (if m = 0 then .inf neg else .nan neg (f == .e5m2 || bit m (f.fb - 1)) m)
      else if e = 0 then .fin neg m f.umin else .fin neg (2 ^ f.fb + m) (f.umin + e - 1)

/-- Whether a value is a NaN. -/
def FV.isNan : FV → Bool
  | .nan _ _ _ => true
  | _ => false
/-- Whether a value is a signalling NaN. -/
def FV.isSnan : FV → Bool
  | .nan _ q _ => !q
  | _ => false
/-- Whether a value is zero. -/
def FV.isZero : FV → Bool
  | .fin _ m _ => decide (m = 0)
  | _ => false
/-- The sign of a value. -/
def FV.neg : FV → Bool
  | .nan n _ _ => n | .inf n => n | .fin n _ _ => n

/-! Exact values -/

/-- An exact dyadic value m × 2^e. -/
structure Dy where
  m : Int
  e : Int
deriving DecidableEq, Repr

/-- Zero. -/
def Dy.zero : Dy := ⟨0, 0⟩

/-- The exact value of a finite operand. -/
def FV.dy : FV → Dy
  | .fin n m e => ⟨if n then -(m : Int) else m, e⟩
  | _ => Dy.zero

/-- A sum. -/
def Dy.add (a b : Dy) : Dy :=
  if a.e ≤ b.e then ⟨a.m + b.m * ((2 ^ (b.e - a.e).toNat : Nat) : Int), a.e⟩
  else ⟨a.m * ((2 ^ (a.e - b.e).toNat : Nat) : Int) + b.m, b.e⟩
/-- A product. -/
def Dy.mul (a b : Dy) : Dy := ⟨a.m * b.m, a.e + b.e⟩
/-- The opposite. -/
def Dy.neg (a : Dy) : Dy := ⟨-a.m, a.e⟩
/-- Order. -/
def Dy.lt (a b : Dy) : Bool := decide ((a.add b.neg).m < 0)
/-- Equality of values. -/
def Dy.beq (a b : Dy) : Bool := decide ((a.add b.neg).m = 0)
/-- The numerator and the denominator of the magnitude. -/
def Dy.frac (a : Dy) : Nat × Nat :=
  if 0 ≤ a.e then (a.m.natAbs * 2 ^ a.e.toNat, 1) else (a.m.natAbs, 2 ^ (-a.e).toNat)

/-! Rounding (R235, R238) -/

/-- The largest k with 2^k ≤ p / q, for positive p and q. -/
def floorLog2 (p q : Nat) : Int :=
  let k : Int := (Nat.log2 p : Int) - (Nat.log2 q : Int)
  if (if 0 ≤ k then decide (p < q * 2 ^ k.toNat) else decide (p * 2 ^ (-k).toNat < q)) then k - 1 else k

/-- Whether a magnitude n + r / d rounds away from zero, d positive, r < d (R238, R242). -/
def RM.up (md : RM) (neg : Bool) (n r d : Nat) : Bool :=
  match md with
  | .rne => decide (d < 2 * r) || (decide (d = 2 * r) && decide (n % 2 = 1))
  | .rz => false
  | .rdn => neg && decide (r ≠ 0)
  | .rup => !neg && decide (r ≠ 0)
  | .rsto x => decide (r ≠ 0) && (if neg then !decide (x * d < (d - r) * 2 ^ 32) else decide (x * d < r * 2 ^ 32))

/-- p / q rounded to a whole number of units 2^u, and whether it was inexact. -/
def rndUnit (md : RM) (neg : Bool) (p q : Nat) (u : Int) : Nat × Bool :=
  let P := if 0 ≤ u then p else p * 2 ^ (-u).toNat
  let Q := if 0 ≤ u then q * 2 ^ u.toNat else q
  let n := P / Q
  let r := P % Q
  (if md.up neg n r Q then n + 1 else n, decide (r ≠ 0))

/-- A positive magnitude p / q rounded in a format as if it had no upper bound: its code, whether inexact, whether tiny after rounding (R235). -/
def FFmt.rnd (f : FFmt) (md : RM) (neg : Bool) (p q : Nat) : Nat × Bool × Bool :=
  let e := floorLog2 p q
  let emin : Int := f.umin + f.fb
  let u : Int := if e < emin then f.umin else e - f.fb
  let n := rndUnit md neg p q u
  let tiny := if emin ≤ e then false
    else if e = emin - 1 then decide ((rndUnit md neg p q (e - f.fb)).1 < 2 ^ (f.fb + 1)) else true
  ((u - f.umin).toNat * 2 ^ f.fb + n.1, n.2, tiny)

/-- Whether a mode rounds a value of a sign towards zero (R238). -/
def RM.toZero (md : RM) (neg : Bool) : Bool :=
  match md with
  | .rne => false | .rz => true | .rdn => !neg | .rup => neg | .rsto _ => false

/-- The code delivered above the largest finite value (R238); alt is the alternative form of e4m3 and e5m2 (R335). -/
def FFmt.over (f : FFmt) (alt : Bool) (md : RM) (neg : Bool) : Nat :=
  match f.kind with
  | .scale => f.infCode
  | .none => f.withSign neg f.maxCode
  | .nanOnly => f.withSign neg (if alt && !md.toZero neg then 2 ^ (f.eb + f.fb) - 1 else f.maxCode)
  | .ieee => f.withSign neg (if alt || md.toZero neg then f.maxCode else f.infCode)

/-- A non-zero value of magnitude p / q rounded to a format, with the flags of the rounding (R235, R238). A value above the largest scale gives a NaN scale in
every mode (R226). -/
def FFmt.roundQ (f : FFmt) (alt : Bool) (md : RM) (neg : Bool) (p q : Nat) : Nat × Nat :=
  if f.kind == .scale && neg then (f.infCode, flNV)
  else
    let r := f.rnd md neg p q
    if f.maxCode < r.1 || (f.kind == .scale && decide (8191 * 2 ^ 115 * q < p)) then (f.over alt md neg, flOF + flNX)
    else (f.withSign neg r.1, if r.2.1 then (if r.2.2 then flUF + flNX else flNX) else 0)

/-- An exact dyadic value rounded; zs is the sign of an exact zero. -/
def FFmt.roundDy (f : FFmt) (md : RM) (v : Dy) (zs : Bool) : Nat × Nat :=
  if v.m = 0 then (f.withSign (zs && f.kind != .scale) 0, 0)
  else f.roundQ false md (decide (v.m < 0)) v.frac.1 v.frac.2

/-! IEEE arithmetic (R240, R327 to R333) -/

/-- A NaN quieted (R240). -/
def FFmt.quiet (f : FFmt) (x : Nat) : Nat :=
  let m := bits x 0 (f.eb + f.fb + 1)
  if bit m (f.fb - 1) then m else m + 2 ^ (f.fb - 1)

/-- The first NaN of a list of operands, quieted (R240); NV if some operand is a signalling NaN. -/
def FFmt.nanOf (f : FFmt) (xs : List Nat) : Option (Nat × Nat) :=
  match xs.find? fun x => (f.dec x).isNan with
  | some x => some (f.quiet x, if xs.any fun x => (f.dec x).isSnan then flNV else 0)
  | none => none

/-- The NaN an invalid operation generates (R240). -/
def FFmt.invalid (f : FFmt) : Nat × Nat := (f.qnan, flNV)

/-- The sign of an exact zero sum of two values (IEEE 754-2019). -/
def zeroSum (md : RM) (a b : Bool) : Bool := if a == b then a else md == .rdn

/-- a + b (R327). -/
def FFmt.add (f : FFmt) (md : RM) (x y : Nat) : Nat × Nat :=
  match f.nanOf [x, y] with
  | some r => r
  | none =>
    match f.dec x, f.dec y with
    | .inf a, .inf b => if a == b then (f.withSign a f.infCode, 0) else f.invalid
    | .inf a, _ => (f.withSign a f.infCode, 0)
    | _, .inf b => (f.withSign b f.infCode, 0)
    | a, b =>
      let v := a.dy.add b.dy
      f.roundDy md v (if a.isZero && b.isZero then zeroSum md a.neg b.neg else md == .rdn)

/-- The sign of a code inverted. -/
def FFmt.flip (f : FFmt) (x : Nat) : Nat :=
  let m := bits x 0 (f.eb + f.fb + 1)
  if bit m (f.eb + f.fb) then m - f.signBit else m + f.signBit

/-- a - b (R327). A NaN b is returned as it is, quieted (R240). -/
def FFmt.sub (f : FFmt) (md : RM) (x y : Nat) : Nat × Nat :=
  match f.nanOf [x, y] with
  | some r => r
  | none => f.add md x (f.flip y)

/-- a × b (R327). -/
def FFmt.mul (f : FFmt) (md : RM) (x y : Nat) : Nat × Nat :=
  match f.nanOf [x, y] with
  | some r => r
  | none =>
    let a := f.dec x
    let b := f.dec y
    let sg := xor a.neg b.neg
    match a, b with
    | .inf _, _ => if b.isZero then f.invalid else (f.withSign sg f.infCode, 0)
    | _, .inf _ => if a.isZero then f.invalid else (f.withSign sg f.infCode, 0)
    | _, _ => f.roundDy md (a.dy.mul b.dy) sg

/-- a / b (R327). -/
def FFmt.div (f : FFmt) (md : RM) (x y : Nat) : Nat × Nat :=
  match f.nanOf [x, y] with
  | some r => r
  | none =>
    let a := f.dec x
    let b := f.dec y
    let sg := xor a.neg b.neg
    match a, b with
    | .inf _, .inf _ => f.invalid
    | .inf _, _ => (f.withSign sg f.infCode, 0)
    | _, .inf _ => (f.withSign sg 0, 0)
    | _, _ =>
      if b.isZero then (if a.isZero then f.invalid else (f.withSign sg f.infCode, flDZ))
      else if a.isZero then (f.withSign sg 0, 0)
      else f.roundQ false md sg (a.dy.frac.1 * b.dy.frac.2) (a.dy.frac.2 * b.dy.frac.1)

/-- Whether a product is zero times infinity. -/
def zeroTimesInf (a b : FV) : Bool :=
  match a, b with
  | .inf _, b => b.isZero
  | a, .inf _ => a.isZero
  | _, _ => false

/-- Whether a product is infinite. -/
def infProd (a b : FV) : Bool :=
  match a, b with
  | .inf _, b => !b.isZero
  | a, .inf _ => !a.isZero
  | _, _ => false

/-- a × b + c with one rounding (R327): 0 × ∞ raises NV beside a NaN c too. -/
def FFmt.fma (f : FFmt) (md : RM) (x y z : Nat) : Nat × Nat :=
  let a := f.dec x
  let b := f.dec y
  let c := f.dec z
  let sg := xor a.neg b.neg
  match f.nanOf [x, y, z] with
  | some r => (r.1, r.2 ||| (if zeroTimesInf a b then flNV else 0))
  | none =>
    if zeroTimesInf a b then f.invalid
    else if infProd a b then
      (match c with
      | .inf n => if n == sg then (f.withSign sg f.infCode, 0) else f.invalid
      | _ => (f.withSign sg f.infCode, 0))
    else match c with
      | .inf n => (f.withSign n f.infCode, 0)
      | _ =>
        let p := a.dy.mul b.dy
        let v := p.add c.dy
        f.roundDy md v (if decide (p.m = 0) && c.isZero then zeroSum md sg c.neg else md == .rdn)

/-- Order of two values that are no NaN, -0 below +0 when strict zeros count (R329, R331). -/
def FV.lt (zeros : Bool) (a b : FV) : Bool :=
  match a, b with
  | .inf n, .inf m => n && !m
  | .inf n, _ => n
  | _, .inf m => !m
  | a, b => if zeros && a.isZero && b.isZero then a.neg && !b.neg else a.dy.lt b.dy

/-- Equality of two values that are no NaN; -0 equals +0 (R331). -/
def FV.eq (a b : FV) : Bool :=
  match a, b with
  | .inf n, .inf m => n == m
  | .inf _, _ => false
  | _, .inf _ => false
  | a, b => a.dy.beq b.dy

/-- fmin and fmax (R329): the NaN form gives the first NaN, the number form ignores a NaN; a signalling NaN raises NV. -/
def FFmt.minmax (f : FFmt) (isMax nan : Bool) (x y : Nat) : Nat × Nat :=
  let a := f.dec x
  let b := f.dec y
  let fl := if a.isSnan || b.isSnan then flNV else 0
  let m := fun z => bits z 0 (f.eb + f.fb + 1)
  if nan then
    (match f.nanOf [x, y] with
    | some r => r
    | none => (if FV.lt true a b == isMax then (m y, 0) else (m x, 0)))
  else if a.isNan && b.isNan then (f.quiet x, fl)
  else if a.isNan then (m y, fl)
  else if b.isNan then (m x, fl)
  else if isMax then (if FV.lt true a b then (m y, 0) else (m x, 0))
  else (if FV.lt true b a then (m y, 0) else (m x, 0))

/-- A comparison (R331). -/
def FFmt.cmp (f : FFmt) (c : CondF) (x y : Nat) : Bool × Nat :=
  let a := f.dec x
  let b := f.dec y
  let un := a.isNan || b.isNan
  let sn := if a.isSnan || b.isSnan then flNV else 0
  let qn := if un then flNV else 0
  match c with
  | .eq => (!un && a.eq b, sn)
  | .ne => (un || !a.eq b, sn)
  | .lt => (!un && a.lt false b, qn)
  | .le => (!un && (a.lt false b || a.eq b), qn)
  | .gt => (!un && b.lt false a, qn)
  | .ge => (!un && (b.lt false a || a.eq b), qn)
  | .un => (un, sn)
  | .ord => (!un, sn)

/-- The class mask of a value (R332). -/
def FFmt.cls (f : FFmt) (x : Nat) : Nat :=
  match f.dec x with
  | .nan _ q _ => if q then 2 else 1
  | .inf n => if n then 4 else 512
  | .fin n m _ =>
    if m = 0 then (if n then 32 else 64)
    else if m < 2 ^ f.fb then (if n then 16 else 128)
    else (if n then 8 else 256)

/-- A value rounded to an integral value of its own format (R333). -/
def FFmt.toIntegral (f : FFmt) (md : RM) (nx : Bool) (x : Nat) : Nat × Nat :=
  match f.nanOf [x] with
  | some r => r
  | none =>
    match f.dec x with
    | .fin n m e =>
      if m = 0 then (bits x 0 (f.eb + f.fb + 1), 0)
      else
        let v : Dy := ⟨m, e⟩
        let r := rndUnit md n v.frac.1 v.frac.2 0
        ((f.roundDy .rne ⟨if n then -(r.1 : Int) else r.1, 0⟩ n).1, if nx && r.2 then flNX else 0)
    | _ => (bits x 0 (f.eb + f.fb + 1), 0)

/-- a × 2^n, rounded once (R327, R333). A count beyond ±5000 rounds as ±5000 does in every format. -/
def FFmt.scale (f : FFmt) (md : RM) (x : Nat) (n : Int) : Nat × Nat :=
  match f.nanOf [x] with
  | some r => r
  | none =>
    match f.dec x with
    | .fin sg m e => f.roundDy md ⟨if sg then -(m : Int) else m, e + clampI (-5000) 5000 n⟩ sg
    | _ => (bits x 0 (f.eb + f.fb + 1), 0)

/-- A NaN of one format placed in another: its fraction bits at the top of the target's fraction, quieted (R238, R328, R336). -/
def widenNan (src dst : FFmt) (neg : Bool) (frac : Nat) : Nat :=
  let fr := if src.fb ≤ dst.fb then frac * 2 ^ (dst.fb - src.fb) else frac / 2 ^ (src.fb - dst.fb)
  dst.withSign neg (dst.infCode + (if bit fr (dst.fb - 1) then fr else fr + 2 ^ (dst.fb - 1)))

/-- fdot2 (R328): a0 b0 + a1 b1 + c with one rounding to binary32. -/
def fdot2N (src : FFmt) (md : RM) (x y z : Nat) : Nat × Nat :=
  let a0 := src.dec (x % 2 ^ 16)
  let a1 := src.dec (bits x 16 16)
  let b0 := src.dec (y % 2 ^ 16)
  let b1 := src.dec (bits y 16 16)
  let c := FFmt.f32.dec z
  let zi := zeroTimesInf a0 b0 || zeroTimesInf a1 b1
  let sn := a0.isSnan || a1.isSnan || b0.isSnan || b1.isSnan || c.isSnan
  match [a0, a1, b0, b1].find? FV.isNan with
  | some (.nan n _ fr) => (widenNan src .f32 n fr, if sn || zi then flNV else 0)
  | _ =>
    if c.isNan then (FFmt.f32.quiet z, if sn || zi then flNV else 0)
    else if zi then FFmt.f32.invalid
    else
      let infs := (if infProd a0 b0 then [xor a0.neg b0.neg] else []) ++ (if infProd a1 b1 then [xor a1.neg b1.neg] else []) ++
        (match c with
        | .inf n => [n]
        | _ => [])
      match infs with
      | n :: r => if r.all (· == n) then (FFmt.f32.withSign n FFmt.f32.infCode, 0) else FFmt.f32.invalid
      | [] =>
        let p0 := a0.dy.mul b0.dy
        let p1 := a1.dy.mul b1.dy
        let v := (p0.add p1).add c.dy
        let s0 := xor a0.neg b0.neg
        let s1 := xor a1.neg b1.neg
        let allz := decide (p0.m = 0) && decide (p1.m = 0) && c.isZero
        FFmt.f32.roundDy md v (if allz then (if s0 == s1 && s1 == c.neg then s0 else md == .rdn) else md == .rdn)

/-! Conversions (R238, R335, R336) -/

/-- The NaN a NaN source gives in a target, and its flags (R238). -/
def FFmt.fromNan (src dst : FFmt) (neg quiet : Bool) (frac : Nat) : Nat × Nat :=
  let nv := if quiet then 0 else flNV
  match dst.kind with
  | .scale => (dst.infCode, nv)
  | .none => (0, flNV)
  | .nanOnly => (dst.withSign neg (2 ^ (dst.eb + dst.fb) - 1), nv)
  | .ieee => if dst == .e5m2 then (dst.withSign neg 0x7E, nv) else (widenNan src dst neg frac, nv)

/-- The code of an infinite source in a target (R238). -/
def FFmt.fromInf (dst : FFmt) (alt neg : Bool) : Nat × Nat :=
  match dst.kind with
  | .scale => (dst.infCode, flNV)
  | .none => (dst.withSign neg dst.maxCode, flOF + flNX)
  | .nanOnly => if alt then (dst.withSign neg (2 ^ (dst.eb + dst.fb) - 1), flNV) else (dst.withSign neg dst.maxCode, flOF + flNX)
  | .ieee => if alt then (dst.withSign neg dst.maxCode, flOF + flNX) else (dst.withSign neg dst.infCode, 0)

/-- A scale NaN as a source of cvt (R336). -/
def scaleNan (dst : FFmt) : Nat × Nat :=
  match dst.kind with
  | .nanOnly => (0x7F, 0)
  | .none => (0, flNV)
  | .scale => (dst.infCode, 0)
  | .ieee => if dst == .e5m2 then (0x7E, 0) else (dst.qnan, 0)

/-- A value of one floating-point format in another (R238). -/
def cvtFF (src dst : FFmt) (alt : Bool) (md : RM) (x : Nat) : Nat × Nat :=
  match src.dec x with
  | .nan n q fr => if src.kind == .scale then scaleNan dst else src.fromNan dst n q fr
  | .inf n => dst.fromInf alt n
  | .fin n m e =>
    if m = 0 then (dst.withSign (n && dst.kind != .scale) 0, 0)
    else dst.roundQ alt md n (Dy.frac ⟨m, e⟩).1 (Dy.frac ⟨m, e⟩).2

/-- A floating-point value as an integer (R238): rounded, then clamped; a NaN gives 0. -/
def cvtFI (src : FFmt) (dt : Ty) (md : RM) (x : Nat) : Int × Nat :=
  match src.dec x with
  | .nan _ _ _ => (0, flNV)
  | .inf n => (if n then dt.ilo else dt.ihi, flNV)
  | .fin n m e =>
    let r := rndUnit md n (Dy.frac ⟨m, e⟩).1 (Dy.frac ⟨m, e⟩).2 0
    let z : Int := if n then -(r.1 : Int) else r.1
    if z < dt.ilo then (dt.ilo, flNV) else if dt.ihi < z then (dt.ihi, flNV) else (z, if r.2 then flNX else 0)

/-- An integer as a floating-point value (R336). -/
def cvtIF (dst : FFmt) (alt : Bool) (md : RM) (z : Int) : Nat × Nat :=
  if z = 0 then (0, 0) else dst.roundQ alt md (decide (z < 0)) z.natAbs 1

/-- A conversion of cvt (R336). -/
def cvtN (dt st : Ty) (alt : Bool) (md : RM) (x : Nat) : Nat × Nat :=
  let xs := x % 2 ^ st.iw
  match dt.ffmt, st.ffmt with
  | some df, some sf => cvtFF sf df alt md xs
  | some df, none => cvtIF df alt md (st.ival x)
  | none, some sf => let r := cvtFI sf dt md xs; (dt.ireg r.1, r.2)
  | none, none => (0, 0)

/-- The leaven generator (R242). -/
def leaven (key ctr : Nat) : Nat :=
  let x := (ctr % 2 ^ 32) ^^^ ((key * 0x9E3779B9) % 2 ^ 32)
  let x := x ^^^ (x >>> 16)
  let x := (x * 0x7FEB352D) % 2 ^ 32
  let x := x ^^^ (x >>> 15)
  let x := (x * 0x846CA68B) % 2 ^ 32
  x ^^^ (x >>> 16)

/-! Block conversion (R226, R227, R239, R337, R338) -/

/-- The smallest SC20 at least p / q (R226), with the flags of the conversion (R337). -/
def sc20Ceil (p q : Nat) : Nat × Nat := if p = 0 then (0, 0) else FFmt.sc20.roundQ false .rup false p q

/-- The element format of a block element that is a float. -/
def BlkElem.ffmt : BlkElem → Option FFmt
  | .e4m3 => some .e4m3 | .e5m2 => some .e5m2 | .e3m2 => some .e3m2 | .e2m3 => some .e2m3 | .e2m1 => some .e2m1
  | .i8 | .i4 | .n4 | .mxi8 | .mxi4 | .mxn4 => Option.none

/-- The integer type of a block element. -/
def BlkElem.ity : BlkElem → Ty
  | .i8 => .i8 | .mxi8 => .i8 | .i4 => .i4 | .mxi4 => .i4 | .n4 => .n4 | .mxn4 => .n4
  | .e4m3 | .e5m2 | .e3m2 | .e2m3 | .e2m1 => .i8

/-- The implied factor as a number of halvings (R227). -/
def BlkElem.halvings : BlkElem → Nat
  | .mxi8 => 6 | .mxi4 => 2 | .mxn4 => 3
  | .e4m3 | .e5m2 | .e3m2 | .e2m3 | .e2m1 | .i8 | .i4 | .n4 => 0

/-- The largest element value, as a fraction (R239, R337). -/
def BlkElem.emax (e : BlkElem) : Nat × Nat :=
  match e.ffmt with
  | some f => (f.dec f.maxCode).dy.frac
  | none => (e.ity.ihi.toNat, 2 ^ e.halvings)

/-- The format of a block conversion's source. -/
def BlkSrc.ffmt : BlkSrc → FFmt
  | .f16 => .f16 | .bf16 => .bf16 | .f32 => .f32

/-- The block scale of a list of source values (R239, R337): a NaN value makes the scale NaN; an infinite one gives a NaN scale too (R226). -/
def blockScale (e : BlkElem) (st : BlkSrc) (xs : List Nat) : Nat × Nat :=
  let f := st.ffmt
  let vs := xs.map fun x => f.dec (x % 2 ^ (f.eb + f.fb + 1))
  let sn := if vs.any FV.isSnan then flNV else 0
  if vs.any FV.isNan then (FFmt.sc20.infCode, sn)
  else if vs.any fun v => v == .inf true || v == .inf false then (FFmt.sc20.infCode, flNV)
  else
    let m := vs.foldl (fun (m : Dy) v => if m.lt ⟨v.dy.m.natAbs, v.dy.e⟩ then ⟨v.dy.m.natAbs, v.dy.e⟩ else m) Dy.zero
    sc20Ceil (m.frac.1 * e.emax.2) (m.frac.2 * e.emax.1)

/-- One element against a scale word (R338, R239): a zero scale gives a zero of the source's sign, also where the source is a NaN; a NaN scale, or a NaN source, zero with NV; otherwise x over the
scale and the implied factor, rounded once and saturated with OF and NX. -/
def blockElem (e : BlkElem) (st : BlkSrc) (md : RM) (scale x : Nat) : Nat × Nat :=
  let f := st.ffmt
  let v := f.dec (x % 2 ^ (f.eb + f.fb + 1))
  match FFmt.sc20.dec (scale % 2 ^ 32) with
  | .nan _ _ _ => (0, flNV)
  | .inf _ => (0, flNV)
  | .fin _ sm se =>
    if sm = 0 then (match e.ffmt with
      | some ef => (ef.withSign v.neg 0, 0)
      | none => (0, 0))
    else if v.isNan then (0, flNV)
    else match v with
      | .inf n => (match e.ffmt with
        | some ef => (ef.withSign n ef.maxCode, flOF + flNX)
        | none => (e.ity.ireg (if n then e.ity.ilo else e.ity.ihi), flOF + flNX))
      | _ =>
        let s : Nat × Nat := Dy.frac ⟨sm, se⟩
        let x := v.dy.frac
        let p := x.1 * s.2 * 2 ^ e.halvings
        let q := x.2 * s.1
        (match e.ffmt with
        | some ef =>
          if p = 0 then (ef.withSign v.neg 0, 0)
          else
            let r := ef.rnd md v.neg p q
            if ef.maxCode < r.1 then (ef.withSign v.neg ef.maxCode, flOF + flNX)
            else (ef.withSign v.neg r.1, if r.2.1 then (if r.2.2 then flUF + flNX else flNX) else 0)
        | none =>
          let r := rndUnit md v.neg p q 0
          let z : Int := if v.neg then -(r.1 : Int) else r.1
          if z < e.ity.ilo then (e.ity.ireg e.ity.ilo, flOF + flNX)
          else if e.ity.ihi < z then (e.ity.ireg e.ity.ihi, flOF + flNX)
          else (e.ity.ireg z, if r.2 then flNX else 0))

/-- A small immediate converted exactly to a floating-point type (R268). -/
def immF (f : FFmt) (k : BitVec 7) : Nat := (cvtIF f false .rne (signed 7 k.toNat)).1

namespace Machine

/-- A floating-point source (R268, R325): a small immediate is converted exactly to the operand type. -/
def rdF (w : Warp) (l : Lane) (t : FTy) : Src → Nat
  | .v n => rdSrc w l t.is64 (.v n) % 2 ^ (t.fmt.eb + t.fmt.fb + 1)
  | .s n => rdSrc w l t.is64 (.s n) % 2 ^ (t.fmt.eb + t.fmt.fb + 1)
  | .imm k => immF t.fmt k

end Machine

end Sys2Proof
end

