-- ==== Sys2Proof/Machine/Special.lean ====
section
/-!
DEFINITION. The special functions of R241: the exact function bracketed between two rationals, more narrowly until both round to one binary32 value. The brackets are
integer arithmetic at 2^-K; the cases with an exact result are taken apart first, so a bracket never has to decide a tie.
-/

namespace Sys2Proof

/-- A bracket lo/d to hi/d of a positive real. -/
structure Bra where
  lo : Nat
  hi : Nat
  d  : Nat
deriving DecidableEq, Repr

/-- ln 2 at 2^-K from below; the error is at most K + 22 units. -/
def ln2Fix (K : Nat) : Nat := (List.range (K + 20)).foldl (fun a i => a + 2 ^ K / ((i + 1) * 2 ^ (i + 1))) 0

/-- e^(y / 2^K) at 2^-K from below for 0 ≤ y < 2^K, n terms. -/
def expFix (K y n : Nat) : Nat :=
  ((List.range n).foldl (fun (p : Nat × Nat) i => let t := p.1 * y / 2 ^ K / (i + 1); (t, p.2 + t)) (2 ^ K, 2 ^ K)).2

/-- The error of expFix and of the reduction before it, in units. -/
def expErr (K : Nat) : Nat := 16 * K + 4096

/-- e^(p/q) for 0 ≤ p/q ≤ 512: 2^k times the bracket. -/
def expBra (K p q : Nat) : Nat × Bra :=
  let l := ln2Fix K
  let x := p * 2 ^ K / q
  let k := x / (l + K + 22)
  let r := x - k * (l + K + 22)
  let y := Nat.min r (2 ^ K - 1)
  let e := expFix K y (K / 3 + 40)
  (k, ⟨e - expErr K, e + expErr K + (k + 2) * 4 * (K + 24), 2 ^ K⟩)

/-- Both ends of e^(p/q) as numerators over 2^K. -/
def expEnds (K p q : Nat) : Nat × Nat × Nat :=
  let r := expBra K p q
  (r.2.lo * 2 ^ r.1, r.2.hi * 2 ^ r.1, r.2.d)

/-- 2^(p/q) for 0 ≤ p/q < 1. -/
def exp2Bra (K p q : Nat) : Bra :=
  let y := p * ln2Fix K / q
  let e := expFix K y (K / 3 + 40)
  ⟨e - expErr K, e + expErr K + 8 * (K + 24), 2 ^ K⟩

/-- ln(m) at 2^-K from below, for 1 ≤ m = p/q < 2: 2 × the series of atanh((m - 1)/(m + 1)). -/
def lnFix (K p q : Nat) : Nat :=
  let z := (p - q) * 2 ^ K / (p + q)
  let z2 := z * z / 2 ^ K
  2 * ((List.range (K / 3 + 10)).foldl (fun (a : Nat × Nat) i => (a.1 * z2 / 2 ^ K, a.2 + a.1 / (2 * i + 1))) (z, 0)).2

/-- log2(m) for 1 < m = p/q < 2, at 2^-K. -/
def log2Bra (K p q : Nat) : Nat × Nat :=
  let l := lnFix K p q
  let err := 8 * K + 256
  let b := ln2Fix K
  ((l - err) * 2 ^ K / (b + K + 24), (l + err) * 2 ^ K / b + 1)

/-- atan(1/n) at 2^-K, within K units. -/
def atanInv (K n : Nat) : Int :=
  ((List.range (K / 4 + 10)).foldl (fun (a : Nat × Int) i =>
    (a.1 / (n * n), if i % 2 = 0 then a.2 + (a.1 / (2 * i + 1) : Nat) else a.2 - (a.1 / (2 * i + 1) : Nat))) (2 ^ K / n, 0)).2

/-- π at 2^-K, within 32 K units (Machin). -/
def piFix (K : Nat) : Nat := (16 * atanInv K 5 - 4 * atanInv K 239).toNat

/-- sin and cos of t at 2^-K for 0 ≤ t ≤ 2^K, within 8 K units, by their series. -/
def sinFix (K t : Nat) : Int :=
  ((List.range (K / 4 + 20)).foldl (fun (a : Nat × Int) i =>
    (a.1 * t / 2 ^ K * t / 2 ^ K / ((2 * i + 2) * (2 * i + 3)), if i % 2 = 0 then a.2 + (a.1 : Int) else a.2 - (a.1 : Int))) (t, 0)).2
/-- The cosine series. -/
def cosFix (K t : Nat) : Int :=
  ((List.range (K / 4 + 20)).foldl (fun (a : Nat × Int) i =>
    (a.1 * t / 2 ^ K * t / 2 ^ K / ((2 * i + 1) * (2 * i + 2)), if i % 2 = 0 then a.2 + (a.1 : Int) else a.2 - (a.1 : Int))) (2 ^ K, 0)).2

/-- sin(π v) for 0 < v = p/q ≤ 1/2, at 2^-K. -/
def sinPiBra (K p q : Nat) : Bra :=
  let err := 128 * K + 4096
  let x := if 4 * p ≤ q then sinFix K (piFix K * p / q) else cosFix K (piFix K * (q - 2 * p) / (2 * q))
  ⟨x.toNat - err, x.toNat + err, 2 ^ K⟩

/-- The whole square root, by its bits from 2^b down. -/
def isqrtAux (n : Nat) : Nat → Nat → Nat
  | 0, r => r
  | b + 1, r => if (r + 2 ^ b) * (r + 2 ^ b) ≤ n then isqrtAux n b (r + 2 ^ b) else isqrtAux n b r

/-- The whole square root. -/
def isqrt (n : Nat) : Nat := isqrtAux n (Nat.log2 n / 2 + 1) 0

/-- The rounding of a bracketed value to a format, binary32 unless attn says otherwise, if both ends agree (R241). The exact value is irrational, so it is inexact. -/
def Bra.round (b : Bra) (md : RM) (neg : Bool) (f : FFmt := FFmt.f32) : Option (Nat × Nat) :=
  if b.lo = 0 then none
  else
    let x := f.roundQ false md neg b.lo b.d
    let y := f.roundQ false md neg b.hi b.d
    if x.1 == y.1 && (x.2 ||| flNX) == (y.2 ||| flNX) then some (x.1, x.2 ||| flNX) else none

/-- The value a family of brackets settles, by precision. -/
def settle (md : RM) (neg : Bool) (f : Nat → Bra) (fm : FFmt := FFmt.f32) : List Nat → Nat × Nat
  | [] => (fm.qnan, flNV)
  | K :: Ks => match (f K).round md neg fm with
    | some r => r
    | none => settle md neg f fm Ks

/-- The precisions tried, in bits. -/
def precisions : List Nat := [128, 256, 512, 1024, 2048]

/-- 1 - 2^-400, 2^-400 and 1 + 2^-400: what saturated functions round as. -/
def nearOne : Bra := ⟨2 ^ 400 - 1, 2 ^ 400 - 1, 2 ^ 400⟩
/-- A magnitude below every binary32 value. -/
def nearZero : Bra := ⟨1, 1, 2 ^ 400⟩

/-- The special functions. -/
inductive SFun where
  | exp2 | log2 | rcp | rsqrt | sqrt | tanh | sigmoid | sinpi | cospi
deriving DecidableEq, Repr

/-- exp2 of a finite non-zero value. -/
def exp2Fin (md : RM) (neg : Bool) (p q : Nat) (f : FFmt := FFmt.f32) : Nat × Nat :=
  if 400 * q < p then (if neg then f.roundQ false md false 1 (2 ^ 400) else f.roundQ false md false (2 ^ 400) 1)
  else
    let n := p / q
    if p % q = 0 then (if neg then f.roundQ false md false 1 (2 ^ n) else f.roundQ false md false (2 ^ n) 1)
    else if neg then
      settle md false (fun K => let b := exp2Bra K (q - p % q) q; ⟨b.lo, b.hi, b.d * 2 ^ (n + 1)⟩) f precisions
    else settle md false (fun K => let b := exp2Bra K (p % q) q; ⟨b.lo * 2 ^ n, b.hi * 2 ^ n, b.d⟩) f precisions

/-- log2 of a positive finite value m × 2^e. -/
def log2Fin (md : RM) (m : Nat) (e : Int) : Nat × Nat :=
  let k := Nat.log2 m
  let E : Int := e + k
  if m = 2 ^ k then FFmt.f32.roundDy md ⟨E, 0⟩ false
  else
    settle md (decide (E < 0)) (fun K =>
      let b := log2Bra K m (2 ^ k)
      let s := E * ((2 ^ K : Nat) : Int)
      if 0 ≤ E then ⟨(s + b.1).toNat, (s + b.2).toNat, 2 ^ K⟩ else ⟨(-(s + b.2)).toNat, (-(s + b.1)).toNat, 2 ^ K⟩) FFmt.f32 precisions

/-- tanh of a finite non-zero magnitude. -/
def tanhFin (md : RM) (neg : Bool) (p q : Nat) : Nat × Nat :=
  if 200 * q < p then (nearOne.round md neg).getD (0, 0)
  else settle md neg (fun K =>
    let e := expEnds K (2 * p) q
    ⟨(e.1 - e.2.2) * 2 ^ K / (e.1 + e.2.2), (e.2.1 - e.2.2) * 2 ^ K / (e.2.1 + e.2.2) + 1, 2 ^ K⟩) FFmt.f32 precisions

/-- sigmoid of a finite non-zero value. -/
def sigmoidFin (md : RM) (neg : Bool) (p q : Nat) : Nat × Nat :=
  if 300 * q < p then ((if neg then nearZero else nearOne).round md false).getD (0, 0)
  else settle md false (fun K =>
    let K' := K + 500
    let e := expEnds K' p q
    if neg then ⟨e.2.2 * 2 ^ K' / (e.2.1 + e.2.2), e.2.2 * 2 ^ K' / (e.1 + e.2.2) + 1, 2 ^ K'⟩
    else ⟨e.1 * 2 ^ K' / (e.1 + e.2.2), e.2.1 * 2 ^ K' / (e.2.1 + e.2.2) + 1, 2 ^ K'⟩) FFmt.f32 precisions

/-- sin(π x) for a positive x = p/q that is not an integer: sign and magnitude from x mod 2. -/
def sinPiPos (md : RM) (neg : Bool) (p q : Nat) : Nat × Nat :=
  let r := p % (2 * q)
  let sg := xor neg (decide (q < r))
  let t := r % q
  let v := if 2 * t ≤ q then t else q - t
  if 2 * v = q then (FFmt.f32.withSign sg 0x3F800000, 0)
  else settle md sg (fun K => sinPiBra K v q) FFmt.f32 precisions

/-- A special function of a finite non-zero value (R241). -/
def SFun.fin (fn : SFun) (md : RM) (neg : Bool) (m : Nat) (e : Int) : Nat × Nat :=
  let f := FFmt.f32
  let p := (Dy.frac ⟨m, e⟩).1
  let q := (Dy.frac ⟨m, e⟩).2
  match fn with
  | .exp2 => exp2Fin md neg p q
  | .log2 => if neg then f.invalid else log2Fin md m e
  | .rcp => f.roundQ false md neg q p
  | .sqrt =>
    if neg then f.invalid
    else
      let n := p * q * 2 ^ 200
      let r := isqrt n
      if r * r = n then f.roundQ false md false r (q * 2 ^ 100) else f.roundQ false md false (2 * r + 1) (2 * q * 2 ^ 100)
  | .rsqrt =>
    if neg then f.invalid
    else
      let n := q * 2 ^ 600 / p
      let r := isqrt n
      if r * r * p = q * 2 ^ 600 then f.roundQ false md false r (2 ^ 300) else f.roundQ false md false (2 * r + 1) (2 ^ 301)
  | .tanh => tanhFin md neg p q
  | .sigmoid => sigmoidFin md neg p q
  | .sinpi => if p % q = 0 then (f.withSign neg 0, 0) else sinPiPos md neg p q
  | .cospi => if (2 * p) % q = 0 && (2 * p / q) % 2 = 1 then (0, 0)
      else if p % q = 0 then (f.withSign (decide ((p / q) % 2 = 1)) 0x3F800000, 0)
      else sinPiPos md false (2 * p + q) (2 * q)

/-- A special function of a binary32 code, correctly rounded, with its flags (R241). -/
def SFun.eval (fn : SFun) (md : RM) (x : Nat) : Nat × Nat :=
  let f := FFmt.f32
  match f.nanOf [x] with
  | some r => r
  | none =>
    match f.dec x with
    | .nan _ _ _ => f.invalid
    | .inf n => (match fn with
      | .exp2 => (if n then 0 else f.infCode, 0)
      | .log2 => if n then f.invalid else (f.infCode, 0)
      | .rcp => (f.withSign n 0, 0)
      | .rsqrt => if n then f.invalid else (0, 0)
      | .sqrt => if n then f.invalid else (f.infCode, 0)
      | .tanh => (f.withSign n 0x3F800000, 0)
      | .sigmoid => (if n then 0 else 0x3F800000, 0)
      | .sinpi => f.invalid
      | .cospi => f.invalid)
    | .fin n m e =>
      if m = 0 then (match fn with
        | .exp2 => (0x3F800000, 0)
        | .log2 => (f.withSign true f.infCode, flDZ)
        | .rcp => (f.withSign n f.infCode, flDZ)
        | .rsqrt => (f.withSign n f.infCode, flDZ)
        | .sqrt => (f.withSign n 0, 0)
        | .tanh => (f.withSign n 0, 0)
        | .sigmoid => (0x3F000000, 0)
        | .sinpi => (f.withSign n 0, 0)
        | .cospi => (0x3F800000, 0))
      else fn.fin md n m e

end Sys2Proof
end

