-- ==== Sys2Proof/Machine/FloatOps.lean ====
section
/-!
DEFINITION. The floating-point instructions, the conversions and the special functions of R325 to R340.
-/

namespace Sys2Proof

/-- Width of a floating-point type in bits. -/
def FTy.bits (t : FTy) : Nat := t.fmt.eb + t.fmt.fb + 1

/-- The constant fmovi loads (R334). -/
def fmoviN (t : FTy) (imm : BitVec 32) : Nat :=
  match t with
  | .f32 => imm.toNat
  | .f16 => imm.toNat % 2 ^ 16
  | .bf16 => imm.toNat % 2 ^ 16
  | .f64 => if (FFmt.f32.dec imm.toNat).isNan then 0x7FF8000000000000 else (cvtFF .f32 .f64 false .rne imm.toNat).1

/-- Element width of a packed type (R339). -/
def PackTy.ty : PackTy → Ty
  | .i8 => .i8 | .n8 => .n8 | .e4m3 => .e4m3 | .e5m2 => .e5m2 | .e3m2 => .e3m2 | .e2m3 => .e2m3 | .e2m1 => .e2m1 | .i4 => .i4 | .n4 => .n4

/-- The extension of a block element's result (R336, R338). -/
def BlkElem.ext (e : BlkElem) : Ext :=
  match e.ffmt with
  | some _ => .zx32
  | none => e.ity.ext

namespace Machine

/-- A source of cvt in its own type: a small immediate is converted exactly to a floating-point type (R268). -/
def rdTy (w : Warp) (l : Lane) (t : Ty) (a : Src) : Nat :=
  match a, t.ffmt with
  | .imm k, some f => immF f k
  | _, _ => rdSrc w l t.is64 a

/-- A source of fdot2, a pair of elements: a small immediate is converted exactly to the element type (R268, R325) and is element 0, above which stands zero (log entry 95: DEDUCED). -/
def rdPair (w : Warp) (l : Lane) (f : FFmt) (a : Src) : Nat :=
  match a with
  | .imm k => immF f k
  | _ => rdSrc w l false a

/-- A source of the block conversions in its own type. -/
def rdBlk (w : Warp) (l : Lane) (t : BlkSrc) (a : Src) : Nat :=
  match a with
  | .imm k => immF t.ffmt k
  | _ => rdSrc w l false a

/-- A one-source floating-point instruction. -/
def fun1 (i : Instr) (s : State) (g : Guard) (t : FTy) (d : Reg) (a : Src) (f : Nat → Nat × Nat) : Out :=
  word i s fun w => compute s w g d t.ext fun l => f (rdF w l t a)

/-- A two-source floating-point instruction. -/
def fbin (i : Instr) (s : State) (g : Guard) (t : FTy) (d : Reg) (a b : Src) (f : Nat → Nat → Nat × Nat) : Out :=
  word i s fun w => compute s w g d t.ext fun l => f (rdF w l t a) (rdF w l t b)

/-- A group-wide result with its flags: an enabled flag traps every front lane, and nothing is written (R326). -/
def crossOp (s : State) (w : Warp) (g : Guard) (fl : Nat) (f : Warp → Warp) : State :=
  if (w.passing g).isEmpty then s.setWarp w.done
  else if w.traps fl then s.trapFront w (.of 0x40)
  else s.setWarp ((f w).raise fl).done

/-- The stochastic or plain rounding of cvt (R238, R242). -/
def cvtRm (r : CvtRnd) (w : Warp) (l : Lane) : RM :=
  match r with
  | .mode r => r.rm
  | .rsto k c => .rsto (leaven (rdSrc w l false k) (rdSrc w l false c))

/-- The rounding of cvtblk in virtual lane k (R338). -/
def blkRm (r : BlkRnd) (w : Warp) (k : Nat) : RM :=
  match r with
  | .mode r => r.rm
  | .rsto c => .rsto (leaven (bits (rdS w c).toNat 0 32) ((bits (rdS w c).toNat 32 32 + k) % 2 ^ 32))

/-- `fadd` (R327). -/
def execFadd (g : Guard) (t : FTy) (r : Rnd) (d : Reg) (a b : Src) (s : State) : Out :=
  fbin (.fadd g t r d a b) s g t d a b (t.fmt.add r.rm)

/-- `fsub` (R327). -/
def execFsub (g : Guard) (t : FTy) (r : Rnd) (d : Reg) (a b : Src) (s : State) : Out :=
  fbin (.fsub g t r d a b) s g t d a b (t.fmt.sub r.rm)

/-- `fmul` (R327). -/
def execFmul (g : Guard) (t : FTy) (r : Rnd) (d : Reg) (a b : Src) (s : State) : Out :=
  fbin (.fmul g t r d a b) s g t d a b (t.fmt.mul r.rm)

/-- `fma`: a × b + c with one rounding (R327). -/
def execFma (g : Guard) (t : FTy) (r : Rnd) (d : Reg) (a b c : Src) (s : State) : Out :=
  word (.fma g t r d a b c) s fun w => compute s w g d t.ext fun l =>
    t.fmt.fma r.rm (rdF w l t a) (rdF w l t b) (rdF w l t c)

/-- `fdiv` (R327). -/
def execFdiv (g : Guard) (t : FTy) (r : Rnd) (d : Reg) (a b : Src) (s : State) : Out :=
  fbin (.fdiv g t r d a b) s g t d a b (t.fmt.div r.rm)

/-- `fmin` (R329). -/
def execFmin (g : Guard) (t : FTy) (nan : Bool) (d : Reg) (a b : Src) (s : State) : Out :=
  fbin (.fmin g t nan d a b) s g t d a b (t.fmt.minmax false nan)

/-- `fmax` (R329). -/
def execFmax (g : Guard) (t : FTy) (nan : Bool) (d : Reg) (a b : Src) (s : State) : Out :=
  fbin (.fmax g t nan d a b) s g t d a b (t.fmt.minmax true nan)

/-- `fabs`: the sign bit cleared (R330). -/
def execFabs (g : Guard) (t : FTy) (d : Reg) (a : Src) (s : State) : Out :=
  fun1 (.fabs g t d a) s g t d a fun x => (x % t.fmt.signBit, 0)

/-- `fneg`: the sign bit inverted (R330). -/
def execFneg (g : Guard) (t : FTy) (d : Reg) (a : Src) (s : State) : Out :=
  fun1 (.fneg g t d a) s g t d a fun x => (t.fmt.flip x, 0)

/-- `fsetp` (R331). -/
def execFsetp (g : Guard) (c : CondF) (k : Comb) (t : FTy) (d : BitVec 3) (a b : Src) (s : State) : Out :=
  word (.fsetp g c k t d a b) s fun w => computeP s w g d fun l =>
    let r := t.fmt.cmp c (rdF w l t a) (rdF w l t b)
    (k.eval l.pred r.1, r.2)

/-- `fclass`: the class mask of A (R332). -/
def execFclass (g : Guard) (t : FTy) (d : Reg) (a : Src) (s : State) : Out :=
  word (.fclass g t d a) s fun w => compute0 s w g d .zx32 fun l => t.fmt.cls (rdF w l t a)

/-- `fmovi` (R334). -/
def execFmovi (g : Guard) (t : FTy) (d : Reg) (imm : BitVec 32) (s : State) : Out :=
  word (.fmovi g t d imm) s fun w => compute0 s w g d t.ext fun _ => fmoviN t imm

/-- `frnd` (R333). -/
def execFrnd (g : Guard) (t : FTy) (r : Rnd) (x : Bool) (d : Reg) (a : Src) (s : State) : Out :=
  fun1 (.frnd g t r x d a) s g t d a (t.fmt.toIntegral r.rm x)

/-- `fscale`: a × 2^n (R327, R333). -/
def execFscale (g : Guard) (t : FTy) (r : Rnd) (d : Reg) (a b : Src) (s : State) : Out :=
  word (.fscale g t r d a b) s fun w => compute s w g d t.ext fun l =>
    t.fmt.scale r.rm (rdF w l t a) (signed 32 (rdSrc w l false b))

/-- `fdot2` (R328). -/
def execFdot2 (g : Guard) (bf : Bool) (r : Rnd) (d : Reg) (a b c : Src) (s : State) : Out :=
  word (.fdot2 g bf r d a b c) s fun w => compute s w g d .zx32 fun l =>
    let f : FFmt := if bf then .bf16 else .f16
    fdot2N f r.rm (rdPair w l f a) (rdPair w l f b) (rdF w l .f32 c)

/-- `cvt` (R335, R336). -/
def execCvt (g : Guard) (dt sty : Ty) (alt : Bool) (r : CvtRnd) (d : Reg) (a : Src) (s : State) : Out :=
  word (.cvt g dt sty alt r d a) s fun w => compute s w g d dt.ext fun l =>
    cvtN dt sty alt (cvtRm r w l) (rdTy w l sty a)

/-- `cvtblk` (R338). -/
def execCvtblk (g : Guard) (e : BlkElem) (sty : BlkSrc) (r : BlkRnd) (d : Reg) (a : Src) (b : SSrc) (s : State) : Out :=
  word (.cvtblk g e sty r d a b) s fun w =>
    let f := fun k l => blockElem e sty (blkRm r w k) (rdS w b).toNat (rdBlk w l sty a)
    match d with
    | .v n => lanewise s w g fun k l => if w.traps (f k l).2 then .trap (.of 0x40) else .done (l.put e.ext n (f k l).1) (f k l).2
    | .s _ => compute s w g d e.ext (f 0)

/-- `cvtsc`: the block scale over the passing lanes (R337). -/
def execCvtsc (g : Guard) (e : BlkElem) (sty : BlkSrc) (d : BitVec 6) (a : Src) (s : State) : Out :=
  word (.cvtsc g e sty d a) s fun w =>
    let r := blockScale e sty ((w.passing g).map fun k => rdBlk w (w.lane k) sty a)
    crossOp s w g r.2 fun w => w.sset d.toNat (BitVec.ofNat 64 r.1)

/-- `pack` (R339). -/
def execPack (g : Guard) (t : PackTy) (d : BitVec 8) (a : Src) (s : State) : Out :=
  word (.pack g t d a) s fun w =>
    let e := t.ty.iw
    let stream := (w.passing g).foldl (fun n k => n + (rdTy w (w.lane k) t.ty a % 2 ^ e) * 2 ^ (e * k)) 0
    lanewise s w g fun k l => .done (if k < e then l.put .zx32 d (bits stream (32 * k) 32) else l) 0

/-- `unpack` (R339). -/
def execUnpack (g : Guard) (t : PackTy) (d : BitVec 8) (a : Src) (s : State) : Out :=
  word (.unpack g t d a) s fun w =>
    let e := t.ty.iw
    let stream := w.front.foldl (fun n k => n + rdSrc w (w.lane k) false a * 2 ^ (32 * k)) 0
    lanewise s w g fun k l => .done (l.put .zx32 d (wrap 32 (t.ty.ival (bits stream (e * k) e)))) 0

/-- `exp2` (R340, R241). -/
def execExp2 (g : Guard) (r : Rnd) (d : Reg) (a : Src) (s : State) : Out :=
  fun1 (.exp2 g r d a) s g .f32 d a (SFun.exp2.eval r.rm)

/-- `log2` (R340, R241). -/
def execLog2 (g : Guard) (r : Rnd) (d : Reg) (a : Src) (s : State) : Out :=
  fun1 (.log2 g r d a) s g .f32 d a (SFun.log2.eval r.rm)

/-- `rcp` (R340, R241). -/
def execRcp (g : Guard) (r : Rnd) (d : Reg) (a : Src) (s : State) : Out :=
  fun1 (.rcp g r d a) s g .f32 d a (SFun.rcp.eval r.rm)

/-- `rsqrt` (R340, R241). -/
def execRsqrt (g : Guard) (r : Rnd) (d : Reg) (a : Src) (s : State) : Out :=
  fun1 (.rsqrt g r d a) s g .f32 d a (SFun.rsqrt.eval r.rm)

/-- `sqrt` (R340, R241). -/
def execSqrt (g : Guard) (r : Rnd) (d : Reg) (a : Src) (s : State) : Out :=
  fun1 (.sqrt g r d a) s g .f32 d a (SFun.sqrt.eval r.rm)

/-- `tanh` (R340, R241). -/
def execTanh (g : Guard) (r : Rnd) (d : Reg) (a : Src) (s : State) : Out :=
  fun1 (.tanh g r d a) s g .f32 d a (SFun.tanh.eval r.rm)

/-- `sigmoid` (R340, R241). -/
def execSigmoid (g : Guard) (r : Rnd) (d : Reg) (a : Src) (s : State) : Out :=
  fun1 (.sigmoid g r d a) s g .f32 d a (SFun.sigmoid.eval r.rm)

/-- `sinpi` (R340, R241). -/
def execSinpi (g : Guard) (r : Rnd) (d : Reg) (a : Src) (s : State) : Out :=
  fun1 (.sinpi g r d a) s g .f32 d a (SFun.sinpi.eval r.rm)

/-- `cospi` (R340, R241). -/
def execCospi (g : Guard) (r : Rnd) (d : Reg) (a : Src) (s : State) : Out :=
  fun1 (.cospi g r d a) s g .f32 d a (SFun.cospi.eval r.rm)

end Machine

end Sys2Proof
end

