-- ==== Sys2Proof/Machine/Block.lean ====
section
/-!
DEFINITION. The arithmetic of matrix and attention instructions (R227 to R233): operand elements, the exact block sum with its one rounding, and the accumulator.
-/

namespace Sys2Proof

/-- How an operand element is read (R229): a format, or an integer of a width, signed or not. -/
inductive EKind where
  | flt (f : FFmt)
  | int (bits : Nat) (sgn : Bool)
deriving DecidableEq, Repr

/-- The element of an operand format (R227, R228, R229). -/
def Fmt.elem : Fmt → EKind
  | .f64 => .flt .f64 | .f32 => .flt .f32 | .f16 => .flt .f16 | .bf16 => .flt .bf16
  | .e4m3 => .flt .e4m3 | .mx8a => .flt .e4m3 | .pg8 => .flt .e4m3
  | .e5m2 => .flt .e5m2 | .mx8b => .flt .e5m2
  | .mx4 => .flt .e2m1 | .e2m1 => .flt .e2m1 | .pg4 => .flt .e2m1
  | .e3m2 => .flt .e3m2 | .mx6a => .flt .e3m2
  | .e2m3 => .flt .e2m3 | .mx6b => .flt .e2m3 | .pg6 => .flt .e2m3
  | .i8 => .int 8 true | .mxi8 => .int 8 true | .n8 => .int 8 false
  | .i4 => .int 4 true | .mxi4 => .int 4 true | .n4 => .int 4 false | .mxn4 => .int 4 false

/-- The implied factor as a number of halvings (R227). -/
def Fmt.halvings : Fmt → Nat
  | .mxi8 => 6 | .mxi4 => 2 | .mxn4 => 3
  | _ => 0

/-- The exact value of an element. -/
def EKind.dec : EKind → Nat → FV
  | .flt f, x => f.dec x
  | .int w sgn, x => if sgn && decide (2 ^ (w - 1) ≤ x % 2 ^ w) then .fin true (2 ^ w - x % 2 ^ w) 0 else .fin false (x % 2 ^ w) 0

/-- The block size of a class (R231). -/
def Fmt.block (f : Fmt) : Nat := if f.cls = 0 then 4 else if f.cls = 1 then 8 else if f.cls = 2 then 16 else 32

/-- The format in which a class accumulates (R230). -/
def Fmt.acc (f : Fmt) : FFmt := if f.cls = 0 then .f64 else .f32

/-- Columns of a class's result (R373). -/
def Fmt.cols (f : Fmt) : Nat := if f.cls = 0 then 16 else 32

/-- A NaN that the matrix engine generates (R232). -/
def FFmt.genNan (f : FFmt) (c : Nat) : Nat := f.qnan + c

/-- A scale: exact, or NaN (R225). -/
def scaleOf (x : Nat) : Option Dy :=
  match FFmt.sc20.dec (x % 2 ^ 32) with
  | .fin _ m e => some ⟨m, e⟩
  | .nan _ _ _ => none
  | .inf _ => none

/-- The scale of a format without one. -/
def Dy.one : Dy := ⟨1, 0⟩

/-- The partial of one block (R231, R233): the products' operands, the two scales, the implied factor in halvings; the value and its flags. -/
def FFmt.blockSum (f : FFmt) (prods : List (FV × FV)) (sa sb : Option Dy) (imp : Nat) : Nat × Nat :=
  match sa, sb with
  | some a, some b =>
    let infs := fun (n : Bool) => prods.any fun p => infProd p.1 p.2 && xor p.1.neg p.2.neg == n
    if prods.any fun p => p.1.isNan || p.2.isNan then (f.genNan 1, 0)
    else if prods.any fun p => zeroTimesInf p.1 p.2 then (f.genNan 4, flNV)
    else if infs true && infs false then (f.genNan 3, flNV)
    else if infs true || infs false then (if a.m = 0 || b.m = 0 then (f.genNan 4, flNV) else (f.withSign (infs true) f.infCode, 0))
    else
      let t := prods.foldl (fun (t : Dy) p => t.add (p.1.dy.mul p.2.dy)) Dy.zero
      let minus := if t.m = 0 then prods.all fun p => xor p.1.neg p.2.neg && (p.1.isZero || p.2.isZero) else decide (t.m < 0)
      f.roundDy .rne ((t.mul (a.mul b)).mul ⟨1, -(imp : Int)⟩) minus
  | _, _ => (f.genNan 2, 0)

/-- A partial taken into an accumulator (R231, R233). -/
def FFmt.accum (f : FFmt) (acc p : Nat) : Nat × Nat :=
  match f.dec acc, f.dec p with
  | .nan _ _ _, _ => (acc, 0)
  | _, .nan _ _ _ => (p, 0)
  | .inf a, .inf b => if a == b then (acc, 0) else (f.genNan 3, flNV)
  | _, _ => f.add .rne acc p

/-- A list cut into blocks of n, at most k of them. -/
def chunks {α : Type} (n : Nat) : Nat → List α → List (List α)
  | 0, _ => []
  | k + 1, l => if l.isEmpty then [] else l.take n :: chunks n k (l.drop n)

/-- One block of a multiplication: its products and its scales. -/
structure MBlock where
  prods : List (FV × FV)
  sa    : Option Dy
  sb    : Option Dy
deriving DecidableEq, Repr

/-- An accumulator after a list of blocks (R375): the first is taken as it stands where the accumulator starts empty. -/
def FFmt.accBlocks (f : FFmt) (imp : Nat) : Option Nat → List MBlock → Option Nat × Nat
  | acc, [] => (acc, 0)
  | none, b :: bs =>
    let p := f.blockSum b.prods b.sa b.sb imp
    let r := f.accBlocks imp (some p.1) bs
    (r.1, p.2 ||| r.2)
  | some a, b :: bs =>
    let p := f.blockSum b.prods b.sa b.sb imp
    let q := f.accum a p.1
    let r := f.accBlocks imp (some q.1) bs
    (r.1, p.2 ||| q.2 ||| r.2)

/-- The k-th element of an image of w-bit elements (R224). -/
def imageElem (w img k : Nat) : Nat := bits img (w * k) w

/-- One row or column of an operand: its elements and its scale words. -/
structure MRow where
  elems  : List FV
  scales : List Nat
deriving DecidableEq, Repr

/-- The first k elements of a row's image (R373). -/
def Fmt.row (f : Fmt) (k img : Nat) (sc : List Nat) : MRow := ⟨(List.range k).map fun j => f.elem.dec (imageElem f.bits img j), sc⟩

/-- The scale of a block of a row (R374): a page's one word serves every block; block-scaled words serve 32 elements each. -/
def Fmt.scaleAt (f : Fmt) (r : MRow) (first : Nat) : Option Dy :=
  if f.blockScaled then scaleOf (r.scales.getD (first / 32) 0) else if f.pageScaled then scaleOf (r.scales.getD 0 0) else some Dy.one

/-- The operands of a product as the exact sum takes them: an integer product of zero is the integer 0, which has no sign (R230, R233). -/
def Fmt.operands (f : Fmt) (p : FV × FV) : FV × FV := if f.cls = 4 ∧ (p.1.isZero ∨ p.2.isZero) then (.fin false 0 0, .fin false 0 0) else p

/-- The blocks of a row against a column along k (R231). -/
def blocksOf (fa fb : Fmt) (a b : MRow) : List MBlock :=
  let n := fa.block
  let k := Nat.min a.elems.length b.elems.length
  (chunks n (k / n) ((a.elems.zip b.elems).map fa.operands)).zipIdx.map fun p => ⟨p.1, fa.scaleAt a (p.2 * n), fb.scaleAt b (p.2 * n)⟩

end Sys2Proof
end

