-- ==== Sys2Proof/Machine/Tiers.lean ====
section
/-!
DEFINITION. The fabric address map (R16 to R18), the memory-side page table (R164 to R167), the room a write finds in the compressed first tier (R31 to R39),
and the range registers (R55, R56, R162).
-/

namespace Sys2Proof.Machine

/-- Regions of a package's offsets (R16). -/
inductive Region where
  | first | second | cxl
  | host (p : Nat)
  | shelf | mgmt | reserved
deriving DecidableEq, Repr

/-- Package of a fabric address (R16). -/
def pkgOf (fa : Nat) : Nat := bits fa 46 6
/-- Offset of a fabric address within its package (R16). -/
def offOf (fa : Nat) : Nat := bits fa 0 46

/-- The region of an offset (R16). -/
def regionOf (o : Nat) : Region :=
  if o < 0x020000000000 then .first
  else if o < 0x100000000000 then .reserved
  else if o < 0x120000000000 then .second
  else if o < 0x300000000000 then .cxl
  else if o < 0x320000000000 then .host 0
  else if o < 0x340000000000 then .host 1
  else if o < 0x3E0000000000 then .reserved
  else if o < 0x3E0018000000 then .shelf
  else if o < 0x3F0000000000 then .reserved
  else if o < 0x3F0001000000 then .mgmt
  else .reserved

/-- The shelf's base (R16). -/
def shelfBase : Nat := 0x3E0000000000
/-- The shelf's size (R161). -/
def shelfSize : Nat := 384 * 1024 * 1024

/-- RATIO of CMP_CFG (R35). -/
def State.ratio (s : State) : Nat := bits s.regs.cmpCfg.toNat 8 9

/-- The backed first tier in bytes (R34). -/
def State.firstSize (s : State) : Nat :=
  (s.ratio * (2 ^ 40 - 2 ^ 36 * s.boot.mapped.length) / 128) / 65536 * 65536

/-- Whether a host port's link is up (R17). -/
def State.portIsUp (s : State) (p : Nat) : Bool := s.portUp.getD p false

/-- Packages of the domain (R15, R98). -/
def State.domPkgs (s : State) : Nat := if bit s.regs.domCfg.toNat 24 then bits s.regs.domCfg.toNat 16 6 + 1 else 1

/-- STATE of a link (R24). -/
def State.linkState (s : State) (n : Nat) : Nat := bits (s.regs.ablStat.getD n 0).toNat 0 2

/-- The links that are up, those to a package first: its own link, else one towards a package that forwards (R23, R25). -/
def State.pathsTo (s : State) (p : Nat) : List Nat :=
  let up := (List.range 16).filter fun n => s.linkState n == 2
  let own := up.filter fun n => bits (s.regs.ablStat.getD n 0).toNat 24 6 == p
  own ++ up.filter fun n => !own.contains n

/-- The end of the CXL memory found at step 23 (R16, R17). -/
def Boot.cxlEnd (b : Boot) : Nat := b.cxlEnds.foldl Nat.max 0x120000000000

/-- A flit of a class sent over a link (R21, R22): it takes the next sequence number, acknowledges the last flit received in order, and stays in the replay buffer until it is acknowledged itself. It goes on
virtual channel 0, the manual saying of none which flits it carries (log entry 81: DESIGN CHOICE). -/
def State.sendFlit (s : State) (n cls : Nat) (msgs : List LinkMsg) : State :=
  let lk := s.links.getD n Link.clear
  let f : Flit := ⟨BitVec.ofNat 4 cls, 0, BitVec.ofNat 12 lk.next, BitVec.ofNat 12 (lk.expect + 4095), 0, (List.range 240).map fun j => (Config.flitPayload s.free).getD j 0, msgs⟩
  { s with free := s.free + 1, links := s.links.set n { lk with next := (lk.next + 1) % 4096, replay := lk.replay ++ [f] }, sent := s.sent ++ [.flit n f] }

/-- A flit sent towards a package, over the first link on a path to it. -/
def State.sendTo (s : State) (p cls : Nat) (msgs : List LinkMsg) : State :=
  match s.pathsTo p with
  | n :: _ => s.sendFlit n cls msgs
  | [] => s

/-- A message about a fabric address of another package leaves for it (R25, R192); one about this package's own needs none. -/
def State.cross (s : State) (fa cls : Nat) (m : LinkMsg) : State := if pkgOf fa = s.pkg then s else s.sendTo (pkgOf fa) cls [m]

/-- Whether a fabric address is backed (R17). An address of another package of the domain is judged by the same map, while some link is up (R23); one of a package outside it is not backed (log entry 13:
DEDUCED). -/
def State.backed (s : State) (fa : Nat) : Bool :=
  let o := offOf fa
  (pkgOf fa == s.pkg || (decide (pkgOf fa < s.domPkgs) && !(s.pathsTo (pkgOf fa)).isEmpty)) && (match regionOf o with
    | .first => decide (o < s.firstSize)
    | .second => true
    | .cxl => decide (o < s.boot.cxlEnd)
    | .host p => s.portIsUp p
    | .shelf => true
    | .mgmt => true
    | .reserved => false)

/-- Whether an address is host-homed (R16). -/
def hostHomed (fa : Nat) : Bool :=
  match regionOf (offOf fa) with
  | .host _ => true
  | _ => false

/-! The page table (R164 to R167) -/

/-- An 8-byte entry of a table. -/
def State.tblEntry (s : State) (base i : Nat) : Nat := memRead s.mem (base + 8 * i) 8

/-- NEXT of an upper entry, if it is a table (R164). -/
def nextTable (e : Nat) : Option Nat :=
  if bits e 0 2 = 1 && bits e 2 9 = 0 && bits e 52 12 = 0 then some (bits e 11 41 * 2048) else none

/-- Whether the newest version of a word of fabric memory is poison (R199). -/
def State.badWord (s : State) (w : Nat) : Bool := ((alGet s.vers (.fab w)).bind List.getLast?).any Version.poison

/-- Whether an 8-byte entry of a table is poisoned (R199). -/
def State.badEntry (s : State) (a : Nat) : Bool := s.badWord (a / 4) || s.badWord (a / 4 + 1)

/-- Whether a walk meets a poisoned entry (R164, R199). -/
def State.walkPoison (s : State) (o : Nat) : Bool :=
  let next := fun (b i : Nat) => nextTable (s.tblEntry b i)
  let root := bits s.regs.mtRoot.toNat 11 41 * 2048
  s.badEntry (root + 8 * bits o 40 6) || (next root (bits o 40 6)).any fun t2 =>
    s.badEntry (t2 + 8 * bits o 32 8) || (next t2 (bits o 32 8)).any fun t1 =>
      s.badEntry (t1 + 8 * bits o 24 8) || (next t1 (bits o 24 8)).any fun t0 => s.badEntry (t0 + 8 * bits o 16 8)

/-- The address of the level-0 entry of a page, if the walk reaches one (R164). -/
def State.walkTo (s : State) (o : Nat) : Option Nat :=
  match nextTable (s.tblEntry (bits s.regs.mtRoot.toNat 11 41 * 2048) (bits o 40 6)) with
  | none => none
  | some t2 => match nextTable (s.tblEntry t2 (bits o 32 8)) with
    | none => none
    | some t1 => match nextTable (s.tblEntry t1 (bits o 24 8)) with
      | none => none
      | some t0 => some (t0 + 8 * bits o 16 8)

/-- Whether the memory side translates an address: first and second tiers of this package, with EN set (R164, R166). -/
def State.translated (s : State) (fa : Nat) : Bool :=
  bit s.regs.mtRoot.toNat 0 && decide (pkgOf fa = s.pkg) && (match regionOf (offOf fa) with
    | .first => true
    | .second => true
    | .cxl => true
    | .host _ => false
    | .shelf => false
    | .mgmt => false
    | .reserved => false)

/-- The outcome of a memory-side translation (R167). -/
inductive PageOut where
  | present (ro : Bool) | absent | unmapped | poisoned
deriving DecidableEq, Repr

/-- What a level-0 entry says (R164): a non-zero reserved field is read as unmapped. -/
def pageOut (e : Nat) : PageOut :=
  if bits e 52 12 ≠ 0 || bits e 6 2 ≠ 0 || bit e 2 then .unmapped
  else match bits e 0 2 with
    | 1 => .present (bit e 3)
    | 2 => .absent
    | 3 => .poisoned
    | _ => .unmapped

/-- The outcome for a fabric address (R167); a walk that meets a poisoned entry gives the outcome poisoned (R199, log entry 83: DEDUCED). -/
def State.pageState (s : State) (fa : Nat) : PageOut :=
  if s.translated fa then
    if s.walkPoison (offOf fa) then .poisoned
    else match s.walkTo (offOf fa) with
    | some a => pageOut (memRead s.mem a 8)
    | none => .unmapped
  else .present false

/-- The page of a fabric address: its number (R164). -/
def pageOf (fa : Nat) : Nat := fa / 65536

/-- Whether a page is in a migration's final hold (R43). -/
def State.held (s : State) (fa : Nat) : Bool := s.migs.any fun m => m.hold && m.page == pageOf fa

/-- The frame offset of a first-tier or second-tier address: what its entry names, or the address's own offset without translation (R164). -/
def State.frameOff (s : State) (fa : Nat) : Nat :=
  if s.translated fa then
    match s.walkTo (offOf fa) with
    | some a => bits (memRead s.mem a 8) 16 30 * 65536 + fa % 65536
    | none => offOf fa
  else offOf fa

/-- The die of a channel's home slice (R18). -/
def dieOfChan (c : Nat) : Nat := c / 128

/-- The channel of an offset within its region (R18). -/
def chanOf (a : Nat) : Nat := let g := a >>> 8; (g ^^^ (g >>> 9) ^^^ (g >>> 18) ^^^ (g >>> 27)) % 512

/-- The offset of an address within its region, a row of R16's table (R18). -/
def regionRel (o : Nat) : Nat :=
  match regionOf o with
  | .first => o
  | .second => o - 0x100000000000
  | .cxl => o - 0x120000000000
  | .shelf => o - shelfBase
  | .host _ => o
  | .mgmt => o
  | .reserved => o

/-- A saturating count in a field. -/
def satInc (w : Word) (lo len : Nat) : Word :=
  BitVec.ofNat 64 (setBits w.toNat lo len (Nat.min (bits w.toNat lo len + 1) (2 ^ len - 1)))

/-- A word of a page's entry with ACC set: in memory, and in the newest version of its word. -/
def State.setAcc (s : State) (a e : Nat) : State :=
  { s with
    mem := memWrite s.mem a 8 (setBits e 4 1 1)
    vers := s.vers.map fun (p : Loc × List Version) =>
      if p.1 == .fab (a / 4) then (p.1, p.2.dropLast ++ (p.2.getLast?.map fun v => { v with val := v.val ||| 16 }).toList) else p }

/-- A walk: it sets ACC in the level-0 entry it reaches and counts in MT_STAT of the page's die (R164, R165, R166). -/
def State.walk (s : State) (die fa : Nat) : State :=
  if s.translated fa then
    let s1 := { s with regs := { s.regs with mtStat := listSet s.regs.mtStat die (satInc (s.regs.mtStat.getD die 0) 16 16) } }
    match s.walkTo (offOf fa) with
    | some a =>
      let e := memRead s.mem a 8
      if bit e 4 then s1 else s1.setAcc a e
    | none => s1
  else s

/-- Where the storage behind an offset lies (R18, R19): the HBM4E stack and its channel, a shelf bank of a compute die, an I/O die's LPDDR-6, a CXL port's window on its I/O die, a host. -/
inductive Storage where
  | stack (die stack chan : Nat)
  | bank (die bank : Nat)
  | lpddr (ioDie : Nat)
  | cxl (port ioDie : Nat)
  | host (port : Nat)
  | registers
  | nowhere
deriving DecidableEq, Repr

/-- The I/O die that owns a CXL memory port (R19). -/
def cxlDie (port : Nat) : Nat := port / 2

/-- The storage of an offset, the end of each CXL port's window and the channel that stores each channel's granules being given (R18 to R20): the windows lie one after another from the region's base (log entry 4: DESIGN
CHOICE). -/
def storageOf (ends : List Nat) (sub : Nat → Nat) (o : Nat) : Storage :=
  let c := chanOf (regionRel o)
  match regionOf o with
  | .first => let d := sub c; .stack (dieOfChan d) (d / 32 % 4) (d % 32)
  | .second => let g := (o - 0x100000000000) >>> 8; .lpddr ((g ^^^ (g >>> 8)) % 2)
  | .cxl => match ends.findIdx? fun e => decide (o < e) with
    | some p => .cxl p (cxlDie p)
    | none => .nowhere
  | .shelf => .bank (dieOfChan c) (c % 128)
  | .host p => .host p
  | .mgmt => .registers
  | .reserved => .nowhere

/-- The die that homes an address of this package (R18, R19). -/
def homeDie (fa : Nat) : Nat := dieOfChan (chanOf (regionRel (offOf fa)))

/-- The walk a line request makes on the die that homes its address (R165). -/
def State.walkFor (s : State) (fa : Nat) : State := s.walk (homeDie fa) fa

/-- A line request that joins the walk of another request for its page (R165, R166). -/
def State.mergeFor (s : State) (fa : Nat) : State :=
  if s.translated fa then
    { s with regs := { s.regs with mtStat := listSet s.regs.mtStat (homeDie fa) (satInc (s.regs.mtStat.getD (homeDie fa) 0) 32 16) } }
  else s

/-- Whether an address is translated by a level-0 entry whose ACC is clear. -/
def State.accClear (s : State) (fa : Nat) : Bool :=
  s.translated fa && ((s.walkTo (offOf fa)).map fun a => !bit (memRead s.mem a 8) 4).getD false

/-- A walk for a fetch or for a request that waits at the memory side, made only where it would set ACC: those that find it set are taken to be answered by the walk cache or an open walk
(R165, log entry 76: DEDUCED). -/
def State.touch (s : State) (fa : Nat) : State := if s.accClear fa then s.walkFor fa else s

/-! Room in the first tier (R31 to R38) -/

/-- The sheet of a first-tier frame offset: channel and number in it, as one number (R31). -/
def sheetOf (o : Nat) : Nat := chanOf o + 512 * ((o >>> 8) >>> 13)

/-- The channel of a sheet (R31). -/
def sheetChan (sh : Nat) : Nat := sh % 512

/-- The channel that stores the granules of a channel: itself, or the substitute of one in a mapped-out stack (R20). -/
def State.stored (s : State) (c : Nat) : Nat := (alGet s.boot.subst c).getD c

/-- The channel whose pool stores a sheet (R20). -/
def State.poolOf (s : State) (sh : Nat) : Nat := s.stored (sheetChan sh)

/-- The storage behind a fabric address of this package (R18 to R20, R164). -/
def State.storageAt (s : State) (fa : Nat) : Storage := storageOf s.boot.cxlEnds s.stored (s.frameOff fa)

/-- The sheets that a page of frame offsets touches (R31). -/
def pageSheets (frame : Nat) : List Nat := union [] ((List.range 256).map fun g => sheetOf (65536 * frame + 256 * g))

/-- The frame offset of line i of a sheet (R31): its sixteen granules by ascending g >> 9. -/
def sheetLine (sh i : Nat) : Nat :=
  let hi := (sh / 512) * 16 + i / 2
  let c := sh % 512
  let low := (c ^^^ (hi % 512) ^^^ ((hi / 512) % 512) ^^^ ((hi / 262144) % 512)) % 512
  (hi * 512 + low) * 256 + (i % 2) * 128

/-- Stored bytes of one line (R32). -/
def lineBytes (ws : List Nat) : Nat :=
  let w0 := ws.headD 0
  if ws.all (· == 0) then 0
  else if ws.all (· == w0) then 4
  else if ws.all fun w => let d := signed 32 (wrap 32 ((w : Int) - w0)); decide (-128 ≤ d) && decide (d ≤ 127) then 35
  else 128

/-- The words of a line of memory. -/
def lineWords (m : Memory) (a : Nat) : List Nat := (List.range 32).map fun j => memRead m (a + 4 * j) 4

/-- The chunks a sheet takes for stored sizes of its lines (R33). -/
def chunksFor (ls : List Nat) : Nat :=
  let t := 8 + ls.foldl (· + ·) 0
  if ls.all (· == 0) then 0 else if t ≤ 3584 then (t + 511) / 512 else 8

/-- Chunks a sheet holds now (R33). -/
def State.sheetChunks (s : State) (sh : Nat) : Nat := (alGet s.chunks sh).getD 0

/-- The tables that the entries of a table of n entries name (R164). -/
def State.tablesUnder (s : State) (base n : Nat) : List Nat := (List.range n).filterMap fun i => nextTable (s.tblEntry base i)

/-- The tables that MT_ROOT reaches, by level: 3, 2, 1, 0 (R164). -/
def State.tables (s : State) : List Nat × List Nat × List Nat × List Nat :=
  let l3 := [bits s.regs.mtRoot.toNat 11 41 * 2048]
  let l2 := s.tablesUnder (bits s.regs.mtRoot.toNat 11 41 * 2048) 64
  let l1 := (l2.map fun t => s.tablesUnder t 256).flatten
  (l3, l2, l1, (l1.map fun t => s.tablesUnder t 256).flatten)

/-- The level-0 tables that MT_ROOT reaches. -/
def State.leafTables (s : State) : List Nat := s.tables.2.2.2

/-- The pages that the level-0 tables map, each with its entry (R164). -/
def State.mappedPages (s : State) : List (Nat × Nat) :=
  let l3 := bits s.regs.mtRoot.toNat 11 41 * 2048
  let under := fun (n : Nat) (p : Nat × Nat) => (List.range n).filterMap fun i => (nextTable (s.tblEntry p.2 i)).map fun t => (256 * p.1 + i, t)
  let l0 := (((under 64 (0, l3)).map (under 256)).flatten.map (under 256)).flatten
  (l0.map fun p => (List.range 256).map fun i => (s.pkg * 2 ^ 30 + 256 * p.1 + i, s.tblEntry p.2 i)).flatten

/-- Whether a level-0 entry maps its page to a frame. -/
def mapsTo (e f : Nat) : Bool := pageOut e != .unmapped && bits e 16 30 == f

/-- Whether a page of this package is behind a first-tier frame. -/
def State.behind (s : State) (page f : Nat) : Bool := ((s.walkTo (offOf (page * 65536))).map fun a => mapsTo (memRead s.mem a 8) f).getD false

/-- The page whose content a first-tier frame holds while translation is on (log entry 8: DESIGN CHOICE): the one last written or moved there, else the one that the tables map to it, else, where no entry leads to it, the page of the
frame's own address, unless that page is mapped elsewhere. -/
def State.framePage (s : State) (f : Nat) : Option Nat :=
  let own := s.pkg * 2 ^ 30 + f
  match (alGet s.frames f).filter fun p => s.behind p f with
  | some p => some p
  | none => match (s.mappedPages.find? fun p => mapsTo p.2 f).map Prod.fst with
    | some p => some p
    | none => if ((s.walkTo (offOf (own * 65536))).map fun a => pageOut (memRead s.mem a 8) != .unmapped).getD false then none else some own

/-- The fabric address whose content a first-tier frame offset holds, if any (log entry 8: DESIGN CHOICE): without translation the offset itself, else that of the page behind the frame. -/
def State.contentAt (s : State) (fo : Nat) : Option Nat :=
  if bit s.regs.mtRoot.toNat 0 then (s.framePage (fo / 65536)).map fun p => p * 65536 + fo % 65536 else some (s.pkg * 2 ^ 46 + fo)

/-- The chunks the content of a sheet takes (R33). -/
def State.sheetNeed (s : State) (sh : Nat) : Nat :=
  chunksFor ((List.range 32).map fun i => ((s.contentAt (sheetLine sh i)).map fun fa => lineBytes (lineWords s.mem fa)).getD 0)

/-- Free chunks of a channel (R35). -/
def State.freeChunks (s : State) (c : Nat) : Nat := Config.channelChunks - (alGet s.taken c).getD 0

/-- Chunks taken from a channel's pool. -/
def State.takeChunks (s : State) (c n : Nat) : State := { s with taken := alSet s.taken c ((alGet s.taken c).getD 0 + n) }

/-- Chunks returned to a channel's pool. -/
def State.giveChunks (s : State) (c n : Nat) : State := { s with taken := alSet s.taken c ((alGet s.taken c).getD 0 - n) }

/-- LOW of CMP_CFG, set when some channel's pool falls below LOW_MARK, and its interrupt (R35). -/
def State.lowCheck (s : State) (c : Nat) : State :=
  if s.freeChunks c < bits s.regs.cmpCfg.toNat 24 24 && !bit s.regs.cmpCfg.toNat 0 then
    { s with regs := { s.regs with cmpCfg := s.regs.cmpCfg ||| 1 },
             signals := if bit s.regs.cmpCfg.toNat 1 then s.signals ++ [.lowPool] else s.signals }
  else s

/-- The room the registration of a word needs (R37): none where the sheet holds a reservation or the word lies outside this package's first tier; otherwise 8 - k chunks of its
channel. None when the pool cannot supply them (R38). The word's line is dirty then, unless another package or a host homes it. -/
def State.room (s : State) (fa : Nat) : Option State :=
  if pkgOf fa ≠ s.pkg || hostHomed fa then some s
  else
    let fo := s.frameOff fa
    let s0 := { s with dirty := union s.dirty [fa / 128] }
    match regionOf fo with
    | .first =>
      let sh := sheetOf fo
      let s1 := if bit s.regs.mtRoot.toNat 0 then { s0 with frames := alSet s.frames (fo / 65536) (fa / 65536) } else s0
      if ((alGet s.reserved sh).getD 0) != 0 then some s1
      else
        let need := 8 - s.sheetChunks sh
        if need = 0 then some { s1 with reserved := alSet s.reserved sh 0 }
        else if need ≤ s.freeChunks (s.poolOf sh) then
          some (({ s1 with reserved := alSet s.reserved sh need }.takeChunks (s.poolOf sh) need).lowCheck (s.poolOf sh))
        else none
    | _ => some s0

/-- The reservation that the registration of a word lacks (R38): channel, sheet, chunks. -/
def State.lack (s : State) (fa : Nat) : Nat × Nat × Nat :=
  let sh := sheetOf (s.frameOff fa)
  (s.poolOf sh, sh, 8 - s.sheetChunks sh)

/-- Whether a fabric address lies in a first-tier sheet. -/
def State.inSheet (s : State) (sh fa : Nat) : Bool := let fo := s.frameOff fa; regionOf fo == .first && sheetOf fo == sh

/-- Whether a sheet's reservation is still needed: some dirty line lies in it, or a store release that an outbox holds, whose room was made when it was issued, will write there (R37, R39). -/
def State.sheetDirty (s : State) (sh : Nat) : Bool :=
  (s.dirty.any fun l => s.inSheet sh (l * 128)) || s.ords.any fun p => p.2.outbox.any fun e => match e.kind with
    | .release _ (some w) => w.pieces.any fun q => match q.loc with
      | .fab x => pkgOf (4 * x) == s.pkg && s.inSheet sh (4 * x)
      | _ => false
    | _ => false

/-- What migrations to the first tier have reserved for a sheet, 8 chunks each (R43). -/
def State.migHold (s : State) (sh : Nat) : Nat := 8 * (s.migs.filter fun m => m.toFst && (pageSheets m.frame).contains sh).length

/-- The reservation of a sheet set to n chunks, none being listed where it has none. -/
def State.setReserved (s : State) (sh n : Nat) : State := { s with reserved := if n = 0 then alDel s.reserved sh else alSet s.reserved sh n }

/-- A sheet stored (R37, R38, R43): with no dirty line left in it, in the chunks that R33 gives, and the rest of what it held and had reserved returns to the pool, but for what a migration has reserved; while a
line is dirty, chunks that its content no longer takes stay reserved for it. -/
def State.storeSheet (s : State) (sh : Nat) : State :=
  let k := s.sheetChunks sh
  let h := s.migHold sh
  let r := (alGet s.reserved sh).getD 0 - h
  let n := s.sheetNeed sh
  if s.sheetDirty sh then (if n < k then { s with chunks := alSet s.chunks sh n, reserved := alSet s.reserved sh (h + r + (k - n)) } else s)
  else
    let s1 := { s with chunks := alSet s.chunks sh n }.setReserved sh h
    if n ≤ k + r then s1.giveChunks (s.poolOf sh) (k + r - n) else (s1.takeChunks (s.poolOf sh) (n - k - r)).lowCheck (s.poolOf sh)

/-- The line of an address written back: when no dirty line of its sheet is left, the sheet is stored (R37). -/
def State.writeBack (s : State) (line : Nat) : State :=
  let s1 := { s with dirty := s.dirty.filter (· != line) }
  let fo := s.frameOff (line * 128)
  match regionOf fo with
  | .first => if pkgOf (line * 128) = s.pkg && !s1.sheetDirty (sheetOf fo) then s1.storeSheet (sheetOf fo) else s1
  | _ => s1

/-! Range registers (R55, R56, R162) -/

/-- VALID (R55). -/
def Range.valid (r : Range) : Bool := bit r.size.toNat 5
/-- VBASE (R55). -/
def Range.vbase (r : Range) : Nat := bits r.base.toNat 16 40 * 65536
/-- SIZE (R55). -/
def Range.bytes (r : Range) : Nat := bits r.size.toNat 16 40 * 65536
/-- FBASE (R55). -/
def Range.fbase (r : Range) : Nat := bits r.map.toNat 16 36 * 65536
/-- Read permission (R55). -/
def Range.rd (r : Range) : Bool := bit r.size.toNat 0
/-- Write permission (R55). -/
def Range.wr (r : Range) : Bool := bit r.size.toNat 1
/-- Execute permission (R55). -/
def Range.ex (r : Range) : Bool := bit r.size.toNat 2
/-- RACY (R55). -/
def Range.racy (r : Range) : Bool := bit r.size.toNat 3
/-- NOLOG (R55). -/
def Range.nolog (r : Range) : Bool := bit r.size.toNat 4
/-- KEY (R55). -/
def Range.slot (r : Range) : Nat := bits r.key.toNat 0 13

/-- Whether a range covers every byte of a virtual access (R162). -/
def Range.covers (r : Range) (va len : Nat) : Bool :=
  r.valid && decide (r.vbase ≤ va) && decide (va + len ≤ r.vbase + r.bytes)

/-- The lowest valid range that covers a virtual access (R162). -/
def Context.range (c : Context) (va len : Nat) : Option Range := c.ranges.find? fun r => r.covers va len

/-- A virtual address in a range (R56). -/
def Range.fabric (r : Range) (va : Nat) : Nat := r.fbase + (va - r.vbase)

/-- The lowest valid range whose fabric window covers an access (R161). -/
def Context.fabRange (c : Context) (fa len : Nat) : Option Range :=
  c.ranges.find? fun r => r.valid && decide (r.fbase ≤ fa) && decide (fa + len ≤ r.fbase + r.bytes)

/-- Whether an entry of a context's freeze table, frozen or thawing, covers any byte of a window. -/
def Context.frozenIn (c : Context) (fa len : Nat) : Bool :=
  c.frozen.any fun e => decide (fa < e.base + e.size) && decide (e.base < fa + len)

/-- Whether any byte of a window is frozen: some context's entry covers it (R195). -/
def State.frozenAny (s : State) (fa n : Nat) : Bool := s.ctxs.any fun p => p.2.frozenIn fa n

/-! Instruction fetch (R163, R284) -/

/-- What a fetch of a word finds (R163, R167). -/
inductive Fetch where
  | word (w : Word)
  | fault (cause : Nat)
  | wait (page : Nat)
deriving DecidableEq, Repr

/-- The code word at a virtual address, as it stood when the launch's trays were placed; one whose version is poison traps (R163, R199, R284). -/
def State.fetch (s : State) (l : Launch) (va : Nat) : Fetch :=
  match (s.ctx l.ctx).range va 8 with
  | none => .fault 0x10
  | some r =>
    if !r.ex then .fault 0x11
    else
      let fa := r.fabric va
      if !s.backed fa then .fault 0x14
      else match s.pageState fa with
        | .absent => .wait (pageOf fa)
        | .unmapped => .fault 0x10
        | .poisoned => .fault 0x14
        | .present _ => if l.badCode.contains (fa / 4) || l.badCode.contains (fa / 4 + 1) then .fault 0x14 else .word (BitVec.ofNat 64 (memRead l.code fa 8))

/-- The walk of a fetch at a virtual address, if an executable range covers it (R163, R164). -/
def State.touchCode (s : State) (l : Launch) (va : Nat) : State :=
  match (s.ctx l.ctx).range va 8 with
  | some r => if r.ex then s.touch (r.fabric va) else s
  | none => s

end Sys2Proof.Machine
end

