-- ==== Sys2Proof/Machine/Order.lean ====
section
/-!
DEFINITION. The order machine (R170 to R178): words and their versions, visibility and reads, outboxes and their drains, releases and acquires; and the tracking of
synchronisation-free regions (R179 to R184).
-/

namespace Sys2Proof

/-- The scope of an instance (R172). -/
def Machine.Inst.scope : Machine.Inst → Scope
  | .group _ => .group
  | .tray _ _ => .tray
  | .patch _ _ => .patch
  | .launch _ => .launch
  | .device _ => .device
  | .system => .system

namespace Machine

/-! Instances (R172) -/

/-- The patch of a tray of a launch (R87). -/
def LaunchF.patchOf (f : LaunchF) (idx : Nat) : Nat := (idx / f.dw / f.ph) * (f.dw / f.pw) + idx % f.dw / f.pw
/-- The core index of a tray within its patch (R87). -/
def LaunchF.patchCore (f : LaunchF) (idx : Nat) : Nat := (idx / f.dw % f.ph) * f.pw + idx % f.dw % f.pw

/-- The domain's height in packages (R98). -/
def State.domHeight (s : State) : Nat := if bit s.regs.domCfg.toNat 24 then bits s.regs.domCfg.toNat 4 4 + 1 else 1

/-- The package at domain coordinates of a core, if the domain has it (R15). -/
def State.pkgAt (s : State) (x y : Nat) : Option Nat :=
  let p := y / 24 * s.domWidth + x / 28
  if x / 28 < s.domWidth ∧ y / 24 < s.domHeight ∧ p < s.domPkgs then some p else none

/-- The domain coordinates of the trays of a deckle at an origin, in deckle-index order (R86). -/
def LaunchF.cells (f : LaunchF) (ox oy : Nat) : List (Nat × Nat) := (List.range (f.dw * f.dh)).map fun i => (ox + i % f.dw, oy + i / f.dw)

/-- The member packages of a launch at an origin, ascending (R99). -/
def State.membersAt (s : State) (f : LaunchF) (ox oy : Nat) : List Nat :=
  let ps := (f.cells ox oy).filterMap fun p => s.pkgAt p.1 p.2
  (List.range 64).filter fun p => ps.contains p

/-- The instances of the scopes up to launch that a group belongs to (R172). -/
def State.groupInsts (s : State) (l t g : Nat) : List Inst :=
  [.group (.group l t g), .tray l t, .patch l (((s.launch? l).map fun x => x.f.patchOf t).getD 0), .launch l]

/-- The started record behind an engine command. -/
def State.rec? (s : State) (c ch seq : Nat) : Option Rec := ((s.ctx c).chains.getD ch Chain.clear).recs.find? fun r => r.seq == seq

/-- Every instance an agent belongs to (R172). -/
def State.members (s : State) (a : Agent) : List Inst :=
  let outer := [Inst.device s.pkg, Inst.system]
  match a with
  | .group l t g => s.groupInsts l t g ++ outer
  | .handler l n =>
    union (((s.handler? l n).map fun h => h.warp.lanes.foldl (fun (is : List Inst) x => match x.origin with
      | some o => union is (s.groupInsts l o.tray o.group)
      | none => is) []).getD []) outer
  | .engine c ch seq => union (((s.rec? c ch seq).map Rec.insts).getD []) outer
  | .port _ => outer

/-- An agent's instances of a scope (R172). -/
def State.instOf (s : State) (a : Agent) (sc : Scope) : List Inst := (s.members a).filter fun i => i.scope == sc

/-- An agent as word 0 of a log record names it: its bits [55:5], in place (R203). -/
def State.agentTag (s : State) (a : Agent) : Nat :=
  let ltag := ((s.launchOf a).map Launch.ltag).getD 0
  match a with
  | .group _ t g => ltag * 2 ^ 36 + t * 2 ^ 12 + g * 2 ^ 5
  | .handler l n => 2 ^ 52 + ltag * 2 ^ 36 + n % 2 ^ 24 * 2 ^ 12 + ((s.handler? l n).map Handler.slot).getD 0 * 2 ^ 5
  | .engine _ ch _ => 2 * 2 ^ 52 + ch * 2 ^ 5
  | .port p => 4 * 2 ^ 52 + p * 2 ^ 5

/-! Words and versions (R171, R174) -/

/-- The value of a word as it stands. -/
def State.locVal (s : State) : Loc → Word
  | .fab w => BitVec.ofNat 64 (memRead s.mem (4 * w) 4)
  | .sp l t w => BitVec.ofNat 64 (((s.tray? l t).map fun x => memRead x.sp (4 * w) 4).getD 0)
  | .pm l t w => match s.tray? l t with
    | some x => BitVec.ofNat 64 (memRead x.pm (4 * w) 4)
    | none => Config.farWord l t w s.cycle
  | .ctl l t r => ((s.tray? l t).map fun x => if r = 0 then x.hvec else BitVec.ofNat 64 x.lplim).getD 0

/-- The bytes of a word written as it stands. -/
def State.setLoc (s : State) (loc : Loc) (mask : BitVec 4) (v : Word) : State :=
  match loc with
  | .fab w => { s with mem := memMask s.mem (4 * w) mask (v.setWidth 32) }
  | .sp l t w => s.modTray l t fun x => { x with sp := memMask x.sp (4 * w) mask (v.setWidth 32) }
  | .pm l t w => s.modTray l t fun x => { x with pm := memMask x.pm (4 * w) mask (v.setWidth 32) }
  | .ctl l t r => s.modTray l t fun x => if r = 0 then { x with hvec := v } else { x with lplim := v.toNat }

/-- The versions of a word, oldest first: one initial version where nothing was written (R171). -/
def State.versOf (s : State) (loc : Loc) : List Version :=
  (alGet s.vers loc).getD [⟨s.locVal loc, none, .init, false⟩]

/-- The newest version of a word. -/
def State.newest (s : State) (loc : Loc) : Version := (s.versOf loc).getLastD ⟨0, none, .init, false⟩

/-- Bytes of mask of one word over another. -/
def mergeWord (old new : Word) (mask : BitVec 4) : Word :=
  [0, 1, 2, 3].foldl (fun (r : Word) j =>
    if mask.getLsbD j then BitVec.ofNat 64 (setBits r.toNat (8 * j) 8 (bits new.toNat (8 * j) 8)) else r) old

/-- The value a write leaves in a word: the written bytes merged into the newest version; a control register is written whole. -/
def State.merged (s : State) (loc : Loc) (mask : BitVec 4) (v : Word) : Word :=
  match loc with
  | .ctl _ _ _ => v
  | _ => mergeWord (s.newest loc).val v mask

/-- A new newest version of a word (R171): the written bytes merged into the newest version; a write clears poison (R199). -/
def State.newVersion (s : State) (loc : Loc) (mask : BitVec 4) (v : Word) (writer : Option Agent) (pub : Pub) : State :=
  let s1 := s.setLoc loc mask v
  { s1 with vers := alSet s1.vers loc (s.versOf loc ++ [⟨s.merged loc mask v, writer, pub, false⟩]) }

/-- A word given a poison version (R28, R199), which lies in every view: every read meets it until a later write clears it (R28, log entry 83: DEDUCED). -/
def State.poison (s : State) (loc : Loc) : State :=
  { s with vers := alSet s.vers loc (s.versOf loc ++ [⟨s.locVal loc, none, .init, true⟩]) }

/-- Whether a version is visible to an agent (R174). -/
def Version.visible (v : Version) (a : Agent) (view : List RelId) : Bool :=
  v.writer == some a || (match v.pub with
    | .none => false
    | .init => true
    | .rel r => view.contains r)

/-- The index of the newest visible version. -/
def newestVisible (a : Agent) (view : List RelId) (vs : List Version) : Nat :=
  (vs.zipIdx.foldl (fun (m : Nat) p => if p.1.visible a view then p.2 else m) 0)

/-- A version, or the next one where it is poison that a later write has cleared (R28, R199; log entry 83: DEDUCED). -/
def pastPoison (vs : List Version) (i : Nat) : Nat := if ((vs[i]?).any Version.poison) && decide (i + 1 < vs.length) then i + 1 else i

/-- The floor of a read (R174): the newest of the newest visible version and the versions already read or written. -/
def State.floor (s : State) (a : Agent) (loc : Loc) : Nat :=
  let o := s.ord a
  pastPoison (s.versOf loc) (Nat.max (newestVisible a o.view (s.versOf loc)) ((alGet o.seen loc).getD 0))

/-- An agent has read or written a version of a word (R174). -/
def State.see (s : State) (a : Agent) (loc : Loc) (i : Nat) : State :=
  let o := s.ord a
  s.setOrd a { o with seen := alSet o.seen loc (Nat.max i ((alGet o.seen loc).getD 0)) }

/-- A version of another agent that an agent has read, kept for a later acquire fence (R177); initial versions and the device's own lie in every view. -/
def State.noteRead (s : State) (a : Agent) (loc : Loc) (i : Nat) (v : Version) : State :=
  if v.pub == .init || v.writer == some a then s
  else let o := s.ord a; s.setOrd a { o with reads := union o.reads [(loc, i)] }

/-- The mode in which an agent takes part in the order log (R438): 0 none, 1 record, 2 replay. A replay that is ending follows the log no more (log entry 46: DEDUCED). -/
def State.modeOf (s : State) (a : Agent) : Nat :=
  match a with
  | .engine c ch seq => ((s.rec? c ch seq).map Rec.mode).getD 0
  | _ => ((s.launchOf a).map fun l => if l.f.mode == 2 && l.ending.isSome then 0 else l.f.mode).getD 0

/-- The index of the version a plain read returns: the floor or a newer version, which of them being left open (R174, log entry 2: DESIGN CHOICE). In a recorded or replayed run it is the floor, which
the log determines, unless the word is racy (R3, R148, log entry 2). -/
def State.pick (s : State) (a : Agent) (racy : Bool) (fl n : Nat) : Nat × State :=
  if n ≤ fl + 1 || (!racy && s.modeOf a != 0) then (fl, s)
  else (fl + Config.freeChoice s.free % (n - fl), { s with free := s.free + 1 })

/-- The pieces of pending writes of an agent to a word, oldest first (R174). -/
def pendingPieces (o : Ord) (loc : Loc) : List Piece :=
  o.outbox.foldl (fun (ps : List Piece) e =>
    let of := fun (w : WriteOp) => w.pieces.filter fun p => p.loc == loc
    match e.kind with
    | .write w => ps ++ of w
    | .release _ (some w) => ps ++ of w
    | _ => ps) []

/-- What a read of one word returns: the value, whether the version is poison, and the version. -/
structure ReadRes where
  val    : Word
  ver    : Version
deriving DecidableEq, Repr

/-- The core that an agent's accesses use (R187, R188). -/
def State.coreOf (s : State) (a : Agent) : Option Nat :=
  match a with
  | .group l t _ => (s.tray? l t).map Tray.core
  | .handler l n => (s.handler? l n).map Handler.core
  | .engine _ _ _ => none
  | .port _ => none

/-- A device-homed word kept in the first-level cache of the core that reads it (R188); one homed in another package only while a freeze covers it (R192). -/
def State.fill (s : State) (a : Agent) (loc : Loc) (frozen : Bool) : State :=
  match s.coreOf a, loc with
  | some c, .fab w =>
    if hostHomed (4 * w) || (pkgOf (4 * w) != s.pkg && !frozen) || s.cached.contains (w, c) then s else { s with cached := s.cached ++ [(w, c)] }
  | _, _ => s

/-- The copies of some words leave every cache of this package; the home of a line in another package receives the acknowledgement (R192, R196; log entry 81: DESIGN CHOICE). -/
def State.dropReplicas (s : State) (hit : Nat → Bool) : State :=
  let lines := ((s.cached.map Prod.fst).filter hit).foldl (fun (l : List Nat) w => if l.contains (w / 32) then l else l ++ [w / 32]) []
  lines.foldl (fun (s : State) n => s.cross (128 * n) 4 (.acknowledge [n])) { s with cached := s.cached.filter fun p => !hit p.1 }

/-- A read of the bytes of mask of a word by an agent (R174, R195): a read that its own pending writes answer whole returns the newest of them; otherwise the newest version for a synchronising read or
a frozen word, and the floor or a newer one for a plain read, under its own pending bytes. -/
def State.readWord (s : State) (a : Agent) (loc : Loc) (mask : BitVec 4) (plain frozen racy : Bool) : ReadRes × State :=
  let vs := s.versOf loc
  let n := vs.length
  let ps := pendingPieces (s.ord a) loc
  let own := ps.foldl (fun (m : BitVec 4) p => m ||| p.mask) 0
  let laid := fun (v : Word) => ps.foldl (fun x p => mergeWord x (p.val.setWidth 64) p.mask) v
  if own &&& mask == mask then
    let x := laid (s.newest loc).val
    (⟨x, ⟨x, some a, .none, false⟩⟩, s)
  else
    let pk := if plain && !frozen then s.pick a racy (s.floor a loc) n else (n - 1, s)
    let v := vs.getD pk.1 ⟨0, none, .init, false⟩
    let s1 := (pk.2.see a loc pk.1).noteRead a loc pk.1 v
    (⟨laid v.val, v⟩, if plain then s1.fill a loc frozen else s1)

/-! Releases, acquires (R173, R175, R177) -/

/-- A release by its name. -/
def State.rel? (s : State) (r : RelId) : Option Release := s.rels.find? fun x => x.id == r

/-- Whether an agent gains from a release by an acquire at a scope (R175). -/
def State.gains (s : State) (a : Agent) (sc : Scope) (r : Release) : Bool :=
  (r.insts.any fun i => (s.members a).contains i) && ((s.instOf a sc).any fun i => r.members.contains i)

/-- What an acquire at a scope does to the first-level cache (R188): at patch scope or wider every word of the core that is not registered to it leaves the cache, but for frozen ones. -/
def State.invalidate (s : State) (a : Agent) (sc : Scope) : State :=
  match s.coreOf a with
  | none => s
  | some c =>
    if sc == .group || sc == .tray then s
    else { s with cached := s.cached.filter fun p => p.2 != c || alGet s.regd p.1 == some c || s.frozenAny (4 * p.1) 4 }

/-- An acquire at a scope that reads from some releases (R175): it ends the region open before it (R179) and invalidates (R188). -/
def State.acquire (s : State) (a : Agent) (sc : Scope) (rs : List RelId) : State :=
  let view := rs.foldl (fun (v : List RelId) r => match s.rel? r with
    | some x => if s.gains a sc x then union v (x.id :: x.view) else v
    | none => v) (s.ord a).view
  let o := s.ord a
  let c := s.ctxOf a
  ((s.invalidate a sc).setOrd a { o with view := view, reads := [], region := o.region + 1 }).modCtx c fun x =>
    { x with track := x.track.filter fun t => !(t.agent == a && decide (t.region ≤ o.region)) }

/-- The release behind a publication, if any. -/
def Pub.rels : Pub → List RelId
  | .rel r => [r]
  | .none => []
  | .init => []

/-- Whether an outbox holds an entry that performs a release (R175). -/
def Ord.hasRelease (o : Ord) : Bool := o.outbox.any fun e => match e.kind with
  | .write _ => false
  | _ => true

/-- Whether an outbox holds a write, alone or with a release (R169). -/
def Ord.hasWrite (o : Ord) : Bool := o.outbox.any fun e => match e.kind with
  | .write _ => true
  | .release _ (some _) => true
  | _ => false

/-- The versions that an agent has read since its last acquire, as they stand now (R177). -/
def State.readVers (s : State) (a : Agent) : List Version := (s.ord a).reads.filterMap fun p => (s.versOf p.1)[p.2]?

/-- The releases that an acquire fence reads from (R177): the publishing releases of those versions. -/
def State.readRels (s : State) (a : Agent) : List RelId := (s.readVers a).foldl (fun (l : List RelId) v => union l v.pub.rels) []

/-- Whether an acquire fence must wait (R175): an older release of its own has not drained, or one that it reads from is still in its agent's outbox. -/
def State.fenceWaits (s : State) (a : Agent) : Bool :=
  (s.ord a).hasRelease || (s.readVers a).any fun v => v.pub == .none && (v.writer.map fun b => (s.ord b).hasRelease).getD false

/-- A region of an agent ends: its tracking slots are freed (R179, R184). -/
def State.closeRegion (s : State) (a : Agent) (region : Nat) : State :=
  s.modCtx (s.ctxOf a) fun x => { x with track := x.track.filter fun t => !(t.agent == a && decide (t.region ≤ region)) }

/-- A written word registered to a core at its home (R187, R189): it is taken from any other core, and the other copies are invalidated; not where a later version has taken its place. -/
def State.registerTo (s : State) (w core : Nat) (a : Agent) : State :=
  if (s.newest (.fab w)).writer == some a then { s with regd := alSet s.regd w core, cached := s.cached.filter fun p => p.1 != w || p.2 == core } else s

/-- The writes of an agent that have drained register at their homes, since a release of the agent drains (R187). -/
def State.registerLate (s : State) (a : Agent) : State :=
  (s.unregd.filter fun p => p.2.2 == a).foldl (fun (s : State) p => s.registerTo p.1 p.2.1 a) { s with unregd := s.unregd.filter fun p => p.2.2 != a }

/-- A release performed (R173, R175): the agent's writes register (R187), every version the agent wrote that no release has published takes it, the written words of a joined write are published by it,
its view is the agent's view and itself, and it joins Pub of the agent's instances of its scope. -/
def State.performRelease (s : State) (a : Agent) (insts : List Inst) : RelId × State :=
  let o := s.ord a
  let id : RelId := ⟨a, o.nrel + 1⟩
  let view := union o.view [id]
  let s1 := (s.registerLate a).setOrd a { o with nrel := o.nrel + 1, view := view }
  (id, { s1 with
    vers := s1.vers.map fun p => (p.1, p.2.map fun v => if v.writer == some a && v.pub == .none then { v with pub := .rel id } else v),
    rels := s1.rels ++ [⟨id, s.agentTag a, some (s.ctxOf a), insts, s1.members a, view⟩] })

/-- The instances a release of an agent at a scope joins (R172, R173). -/
def State.relInsts (s : State) (a : Agent) (sc : Scope) : List Inst := s.instOf a sc

/-- A release performed at once, outside the outbox. -/
def State.releaseNow (s : State) (a : Agent) (sc : Scope) : RelId × State := s.performRelease a (s.relInsts a sc)

/-! Memory-side outcome of a write, and drains (R167, R168, R173) -/

/-- The page in a migration's final hold that a write must wait for (R43, R167). -/
def State.writeInHold (s : State) (w : WriteOp) : Option Nat :=
  w.pieces.findSome? fun p => match p.loc with
    | .fab x => if s.held (4 * x) then some (pageOf (4 * x)) else none
    | _ => none

/-- The failure of a write at the memory side (R167), by the first word that fails. -/
def State.writeFails (s : State) (w : WriteOp) : Option Nat :=
  w.pieces.findSome? fun p => match p.loc with
    | .fab x => if !s.backed (4 * x) then some 0x14 else match s.pageState (4 * x) with
      | .present ro => if ro then some 0x11 else none
      | .absent => none
      | .unmapped => some 0x10
      | .poisoned => some 0x14
    | _ => none

/-- The absent page that a write must wait for (R167). -/
def State.writeAbsent (s : State) (w : WriteOp) : Option Nat :=
  w.pieces.findSome? fun p => match p.loc with
    | .fab x => match s.pageState (4 * x) with
      | .absent => some (pageOf (4 * x))
      | _ => none
    | _ => none

/-- The first address of a write on a page. -/
def WriteOp.addrOn (w : WriteOp) (page : Nat) : Nat :=
  (w.pieces.findSome? fun p => match p.loc with
    | .fab x => if pageOf (4 * x) == page then some (4 * x) else none
    | _ => none).getD (page * 65536)

/-- The room every word of a write needs (R37). -/
def State.roomFor (s : State) (w : WriteOp) : Option State :=
  w.pieces.foldl (fun (o : Option State) p => match o, p.loc with
    | some s, .fab x => s.room (4 * x)
    | some s, _ => some s
    | none, _ => none) (some s)

/-- The first reservation that a write lacks (R38): channel, sheet, chunks. -/
def State.lackFor (s : State) (w : WriteOp) : Nat × Nat × Nat :=
  (w.pieces.foldl (fun (o : State × Option (Nat × Nat × Nat)) p => match o.2, p.loc with
    | none, .fab x => (match o.1.room (4 * x) with
      | some s1 => (s1, none)
      | none => (o.1, some (o.1.lack (4 * x))))
    | _, _ => o) (s, none)).2.getD (0, 0, 0)

/-- The wait for the reservation that a write lacks. -/
def State.roomWait (s : State) (w : WriteOp) : Wait := let x := s.lackFor w; .room x.1 x.2.1 x.2.2 w.va.toNat

/-- The fabric lines of a write, by the address of a first word in each. -/
def WriteOp.lines (w : WriteOp) : List Nat :=
  w.pieces.foldl (fun (l : List Nat) p => match p.loc with
    | .fab x => if l.any fun a => a / 128 == 4 * x / 128 then l else l ++ [4 * x]
    | _ => l) []

/-- The walks of a write's lines at their homes (R165). -/
def State.walkLines (s : State) (w : WriteOp) : State := w.lines.foldl State.walkFor s

/-- What a write meets at the memory side (R167, R37, R43). -/
inductive WriteSide where
  /-- It waits for a page: absent, or in a migration's final hold. -/
  | waits (page : Nat)
  | fails (reason : Nat)
  | noRoom
  /-- It may be performed in this state, which holds its room. -/
  | ready (s : State)

/-- The memory side's answer to a write (R167): a page in a final hold makes it wait whatever its entry says; then failure, an absent page, room. -/
def State.writeSide (s : State) (w : WriteOp) : WriteSide :=
  match s.writeInHold w with
  | some p => .waits p
  | none => match s.writeFails w with
    | some c => .fails c
    | none => match s.writeAbsent w with
      | some p => .waits p
      | none => match s.roomFor w with
        | some s1 => .ready (s1.walkLines w)
        | none => .noRoom

/-- The deferred store record set or its MORE bit (R168). -/
def Warp.setDsr (w : Warp) (r : WriteOp) (reason : Nat) : Warp :=
  match w.dsr with
  | some d => { w with dsr := some { d with more := true } }
  | none => { w with dsr := some ⟨r.pc, r.vlane, r.ident, r.va, BitVec.ofNat 8 reason, false⟩ }

/-- STATUS of a command that a failed write ends (R167, R39): out of space for want of chunks, else CODE 0x0010 with the cause. -/
def failStatus (reason : Nat) : Word32 := if reason = 0x15 then statusOf 4 0 else statusOf 0x10 reason

/-- A command whose record a failed write was to build is lost with it (R389): the oldest of the outbox that has not been. -/
def loseCommand (w : WriteOp) : List OutEntry → List OutEntry
  | [] => []
  | e :: es => match e.kind with
    | .command sc ch addr d pc false =>
      if pc == w.pc && (w.pieces.head?.map Piece.loc) == some (.fab (addr / 4)) then { e with kind := .command sc ch addr d pc true } :: es else e :: loseCommand w es
    | _ => e :: loseCommand w es

/-- A failed write charged (R167, R168, R195, R390): to its group's deferred store record, unless its launch is ending (R54), and to the command whose record it was; to an engine command, which ends with the cause; to a host port, which reports
it. -/
def State.chargeFailure (s : State) (a : Agent) (w : WriteOp) (reason : Nat) : State :=
  match a with
  | .engine c ch seq => s.modCtx c fun x => { x with chains := x.chains.modify ch fun h =>
      { h with recs := h.recs.map fun r => if r.seq == seq then { r with ending := some (r.ending.getD (failStatus reason)) } else r } }
  | .port p => { s with signals := s.signals ++ [.aer p w.va.toNat] }
  | _ =>
    let s1 := s.setOrd a { s.ord a with outbox := loseCommand w (s.ord a).outbox }
    if ((s1.launchOf a).bind Launch.ending).isSome then s1 else s1.modWarp a fun x => x.setDsr w reason

/-- A tray has published (R117). -/
def State.publishTray (s : State) (l t : Nat) : State := s.modTray l t fun x => { x with published := true }

/-- The trays of an agent have published (R117): a group's own, a handler group's origins'. -/
def State.publish (s : State) (a : Agent) : State :=
  match a with
  | .group l t _ => s.publishTray l t
  | .handler l n => ((s.handler? l n).map fun h => h.warp.lanes).getD [] |>.foldl (fun s x => match x.origin with
      | some o => s.publishTray l o.tray
      | none => s) s
  | .engine _ _ _ => s
  | .port _ => s

/-- A write of an agent that reaches the scratchpad or the patch window of a tray it does not belong to: that tray has published (R117). -/
def State.reached (s : State) (a : Agent) (l t : Nat) : State := if (s.members a).contains (.tray l t) && !(match a with
    | .engine _ _ _ => true
    | _ => false) then s else s.publishTray l t

/-- A written word as its home sees it (R187, R189 to R192): it is to be registered to the writer's core, with the write's own release at once and else later; to none when it is written at the home
itself (core none: an atomic, an engine, a port). One homed in another package leaves no copy here. A host-homed line is taken exclusive, by the writing core or by the I/O die; a host port's own
write takes it back. -/
def State.register (s : State) (a : Agent) (w : Nat) (core : Option Nat) (released : Bool) : State :=
  if hostHomed (4 * w) then match a with
    | .port _ => { s with hostLines := alDel s.hostLines (4 * w / 64) }
    | _ => { s with hostLines := alSet s.hostLines (4 * w / 64) core }
  else if pkgOf (4 * w) ≠ s.pkg then s
  else match core with
    | some c =>
      let rest := s.unregd.filter fun p => p.1 != w
      if released then ({ s with unregd := rest }).registerTo w c a else { s with unregd := rest ++ [(w, c, a)] }
    | none => { s with regd := alDel s.regd w, unregd := s.unregd.filter fun p => p.1 != w }

/-- A line that leaves the first-level caches of some cores for its home (R187, R189): its words stand there with their values, and no core holds them (log entries 77 and 83: DEDUCED); once no core has a word of
it, it is written back, and its sheet is stored when nothing of it is dirty (R37). -/
def State.lineBack (s : State) (line : Nat) (core : Nat → Bool) : State :=
  let s1 := { s with
    regd := s.regd.filter fun p => !(p.1 / 32 == line && core p.2)
    unregd := s.unregd.filter fun p => !(p.1 / 32 == line && core p.2.1)
    cached := s.cached.filter fun p => !(p.1 / 32 == line && core p.2) }
  if (s1.regd.any fun p => p.1 / 32 == line) || s1.unregd.any fun p => p.1 / 32 == line then s1 else s1.writeBack line

/-- A migrating page's line written in its old frame: its dirty bit is set (R43). -/
def State.markDirty (s : State) (fa : Nat) : State :=
  { s with migs := s.migs.map fun m => if m.page == pageOf fa then { m with dirty := union m.dirty [fa % 65536 / 128] } else m }

/-- A word written at its home: a watched length entry that reaches its target wakes the controller (R120). -/
def State.wakeCheck (s : State) (w : Nat) : State :=
  let base := bits s.regs.srvCtl.toNat 16 36 * 65536
  let fa := 4 * w
  if bit s.regs.srvCtl.toNat 1 && decide (base ≤ fa) && decide (fa < base + 65536) && decide (fa % 16 < 8) then
    let e := fa - fa % 16
    let len := (s.newest (.fab (e / 4))).val.toNat
    let tgt := (s.newest (.fab (e / 4 + 1))).val.toNat
    if tgt ≠ 0 && decide (tgt ≤ len) then
      let i := (e - base) / 16
      let s1 := s.newVersion (.fab (e / 4 + 1)) 15 0 none .init
      let wake := BitVec.ofNat 64 (setBits (s1.regs.srvWake.getD (i / 64) 0).toNat (i % 64) 1 1)
      { s1 with regs := { s1.regs with srvWake := listSet s1.regs.srvWake (i / 64) wake }, signals := s1.signals ++ [.serving i] }
    else s
  else s

/-- A piece of a write made the newest version of its word, published by pub (R173). -/
def State.putPiece (a : Agent) (pub : Pub) (s : State) (p : Piece) : State :=
  let s1 := s.newVersion p.loc p.mask (p.val.setWidth 64) (some a) pub
  s1.see a p.loc ((s1.versOf p.loc).length - 1)

/-- What the home does with a word that has been written: its registration, and a migration's dirty bit; a tray's window publishes the tray. -/
def State.homePiece (a : Agent) (core : Option Nat) (released : Bool) (s : State) (p : Piece) : State :=
  match p.loc with
  | .fab x => (s.register a x core released).markDirty (4 * x)
  | .sp l t _ => s.reached a l t
  | .pm l t _ => s.reached a l t
  | .ctl _ _ _ => s

/-- The length counter that a written word may belong to is compared, once every word of the write stands (R120). -/
def State.wakePiece (s : State) (p : Piece) : State :=
  match p.loc with
  | .fab x => s.wakeCheck x
  | _ => s

/-- The writes of an operation made the newest versions of their words in one step, published by pub (R171, R173), and registered to a core, with their own release at once, or at the home to none (R187, R190). -/
def State.applyAt (s : State) (a : Agent) (w : WriteOp) (pub : Pub) (core : Option Nat) : State :=
  w.pieces.foldl State.wakePiece (w.pieces.foldl (State.homePiece a core (pub != .none)) (w.pieces.foldl (State.putPiece a pub) s))

/-- A write of an agent performed, its words to be registered to the agent's core (R187). -/
def State.applyWrite (s : State) (a : Agent) (w : WriteOp) (pub : Pub) : State := s.applyAt a w pub (s.coreOf a)

/-- A write's lines homed in other packages sent to them, each with the directory update of its registration there (R25, R192; log entry 81: DESIGN CHOICE). -/
def State.crossWrite (s : State) (w : WriteOp) : State :=
  w.lines.foldl (fun (s : State) fa => (s.cross fa 2 (.data s.pkg s.free)).cross fa 3 (.directory [fa / 128])) s

/-- Whether a write overlaps a word of another. -/
def WriteOp.overlaps (a b : WriteOp) : Bool := a.pieces.any fun p => b.pieces.any fun q => p.loc == q.loc

/-- Whether the k-th entry of an outbox is a write that may drain (R173). -/
def mayDrain (box : List OutEntry) (k : Nat) : Option WriteOp :=
  match box[k]? with
  | some ⟨.write w, _⟩ =>
    if (box.take k).all fun e => match e.kind with
      | .write v => !v.overlaps w
      | _ => false
    then some w else none
  | _ => none

/-- An outbox without its k-th entry. -/
def State.popBox (s : State) (a : Agent) (k : Nat) : State :=
  let o := s.ord a
  s.setOrd a { o with outbox := o.outbox.eraseIdx k }

/-- What a write's drain meets. -/
inductive DrainOut where
  | done (s : State)
  | held (page : Nat)
  | room

/-- A write drained (R173): it fails at the memory side and is charged, waits for a page or for room, or becomes the newest version of its words with no publishing release. A host port's write that
covers a frozen byte is discarded and reported (R195). -/
def State.drainOp (s : State) (a : Agent) (w : WriteOp) (pub : Pub) : DrainOut :=
  let refused := match a with
    | .port _ => w.pieces.any fun p => match p.loc with
      | .fab x => s.frozenAny (4 * x) 4
      | _ => false
    | _ => false
  if refused then .done (s.chargeFailure a w 0x12)
  else match s.writeSide w with
    | .fails reason => .done ((s.walkLines w).chargeFailure a w reason)
    | .waits p => .held p
    | .ready s1 => .done ((s1.crossWrite w).applyWrite a w pub)
    | .noRoom => .room

/-! Tracking (R179 to R184) -/

/-- The 16-byte and 8-byte slots the tracked accesses of a context take, in bytes (R184). -/
def trackUse (ts : List Track) : Nat :=
  let locs := ts.foldl (fun (l : List Loc) t => if l.contains t.loc then l else l ++ [t.loc]) []
  locs.foldl (fun n loc =>
    let here := ts.filter fun t => t.loc == loc
    let regs := here.foldl (fun (l : List (Agent × Nat)) t => if l.contains (t.agent, t.region) then l else l ++ [(t.agent, t.region)]) []
    let ro := regs.filter fun r => here.all fun t => !(t.agent == r.1 && t.region == r.2 && t.write)
    n + 16 + 8 * (if ro.length = regs.length then ro.length - 1 else ro.length)) 0

/-- The tracked access of another agent's open region that conflicts with an access (R180). -/
def conflict? (ts : List Track) (t : Track) : Option Track :=
  ts.find? fun u => !(u.agent == t.agent) && u.loc == t.loc && (u.mask &&& t.mask) != 0 && (u.write || t.write) && (u.plain || t.plain)

/-- Word 3 of the tag for cause 0x30 (R182). -/
def raceW3 (u : Track) (cls : Nat) : Word :=
  let eng := match u.agent with
    | .engine _ _ _ => 1
    | _ => 0
  let opc := match u.agent with
    | .engine _ _ seq => seq % 2 ^ 53
    | _ => u.pc.toNat / 8
  BitVec.ofNat 64 (eng * 2 ^ 63 + u.write.toNat * 2 ^ 62 + cls * 2 ^ 60 + u.agent.isHandler.toNat * 2 ^ 59 + opc)

/-- Word 4 of the tag for cause 0x30 (R182). -/
def raceW4 (me : Option Nat) (u : Track) : Word :=
  match u.agent with
  | .engine _ ch _ => BitVec.ofNat 64 (0xFFFFFF * 2 ^ 32 + ch * 2 ^ 26)
  | .group l t g => BitVec.ofNat 64 ((if me == some l then t else 0xFFFFFF) * 2 ^ 32 + u.vlane * 2 ^ 21 + g * 2 ^ 16 + u.ident.toNat)
  | .handler l _ =>
    let o := u.origin.getD ⟨0, 0, 0⟩
    BitVec.ofNat 64 ((if me == some l then o.tray else 0xFFFFFF) * 2 ^ 32 + o.vlane * 2 ^ 21 + o.group * 2 ^ 16 + u.ident.toNat)
  | .port _ => BitVec.ofNat 64 (0xFFFFFF * 2 ^ 32)

/-- Whether a location is homed in a package: what is no fabric word is the package's own (R186). -/
def homedAt (pkg : Nat) : Loc → Bool
  | .fab w => pkgOf (4 * w) == pkg
  | .sp _ _ _ => true
  | .pm _ _ _ => true
  | .ctl _ _ _ => true

/-- Whether agents of other packages may reach a location: fabric memory or a patch window (R160, R186). -/
def Loc.shared : Loc → Bool
  | .fab _ => true
  | .sp _ _ _ => false
  | .pm _ _ _ => true
  | .ctl _ _ _ => false

/-- The accesses of one operation checked against the open regions of other agents and given their slots (R181, R184): the trap they meet, or the state that tracks them. An access
that finds no slot raises 0x31 and no race. A word homed in another package is checked there and takes no slot here (R186); in a domain of several packages agents of the others take part too, and whether an
access meets one of theirs, or their lack of slots, is left open (log entry 88: DESIGN CHOICE). -/
def State.track (s : State) (a : Agent) (ts : List Track) (va : Nat) : Except Trap State :=
  let c := s.ctxOf a
  let x := s.ctx c
  let all := x.track ++ ts.filter fun t => !x.track.contains t
  let use := trackUse (all.filter fun t => homedAt s.pkg t.loc)
  let cap := bits x.shadow.toNat 0 16 * 65536
  if cap < use then .error (.at 0x31 va)
  else match ts.findSome? fun t => conflict? x.track t with
    | some u => .error ⟨0x30, BitVec.ofNat 64 va, raceW3 u 0, raceW4 a.launchId u⟩
    | none => match if 1 < s.domPkgs && ts.any fun t => t.loc.shared then Config.farTrack s.cycle va else none with
    | some none => .error (.at 0x31 va)
    | some (some (w3, w4)) => .error ⟨0x30, BitVec.ofNat 64 va, w3, w4⟩
    | none => .ok (s.setCtx c { x with track := all, peak := Nat.min (Nat.max x.peak (use / 16)) 0xFFFFFFFF })

end Machine

end Sys2Proof
end

