-- ==== Sys2Proof/Machine/Log.lean ====
section
/-!
DEFINITION. Writes of the device itself, and the order log (R200 to R210, R437, R438): its ring, the gate an event passes in record and replay, and divergence.
-/

namespace Sys2Proof.Machine

/-- n bytes at a fabric address written by the device itself, published as given: by default every agent sees them (log entry 12: DEDUCED). -/
def State.devWrite (s : State) (fa n v : Nat) (pub : Pub := .init) : State :=
  (List.range ((n + 3) / 4)).foldl (fun (s : State) j =>
    let m : BitVec 4 := if 4 * j + 4 ≤ n then 15 else BitVec.ofNat 4 (2 ^ (n - 4 * j) - 1)
    s.newVersion (.fab (fa / 4 + j)) m (BitVec.ofNat 64 (bits v (32 * j) 32)) none pub) s

/-- A list of bytes as a number, the first lowest (R9). -/
def ofBytes : List (BitVec 8) → Nat
  | [] => 0
  | b :: r => b.toNat + 256 * ofBytes r

/-- A number as n bytes, lowest first (R9). -/
def toBytes : Nat → Nat → List (BitVec 8)
  | 0, _ => []
  | n + 1, v => BitVec.ofNat 8 (v % 256) :: toBytes n (v / 256)

/-- The mode of a context's running launches: record, replay, or neither (R201, R438). -/
def State.ctxMode (s : State) (c : Nat) : Nat :=
  let ms := (s.launches.filter fun l => l.ctx == c && l.ran).map fun l => l.f.mode
  if ms.contains 1 then 1 else if ms.contains 2 then 2 else 0

/-- Who logs: its context, its mode, and bits [55:5] of word 0 in place (R203). -/
structure Who where
  ctx  : Nat
  mode : Nat
  tag  : Nat
deriving DecidableEq, Repr

/-- The distributor at a decision about a launch (R203, AKIND 3). -/
def distWho (l : Launch) (ltag : Nat) : Who := ⟨l.ctx, l.f.mode, 3 * 2 ^ 52 + ltag * 2 ^ 36⟩

/-- A host port's append to a context's chain (R438). -/
def State.portWho (s : State) (c p : Nat) : Who := ⟨c, s.ctxMode c, 4 * 2 ^ 52 + p * 2 ^ 5⟩

/-- Records the ring of a context holds at most (R200). -/
def Context.logCap (x : Context) : Nat := bits x.log.toNat 0 16 * 2048
/-- Records in the ring (R201). -/
def Context.logUsed (x : Context) : Nat := (x.prod + 2 ^ 28 - x.cons) % 2 ^ 28

/-- STATUS stopped (R54, R63). -/
def statusStopped : Word32 := statusOf 0x0A 0

/-- The mode in which what STOP has ended still logs: it waits for the log no more (R202), so in record mode what comes about while the ring is full is not recorded, and no replay is followed (log entry 46: DEDUCED). -/
def State.stoppedMode (s : State) (c mode : Nat) : Nat := if mode = 1 ∧ (s.ctx c).logUsed ≠ (s.ctx c).logCap then 1 else 0

/-- The STATUS with which an agent's launch or command ends, if it is ending. -/
def State.endingOf (s : State) (a : Agent) : Option Word32 :=
  match a with
  | .engine c ch seq => (s.rec? c ch seq).bind Rec.ending
  | _ => (s.launchOf a).bind Launch.ending

/-- An agent as it logs (R203, R438). -/
def State.who (s : State) (a : Agent) : Who :=
  let m := s.modeOf a
  ⟨s.ctxOf a, if s.endingOf a = some statusStopped then s.stoppedMode (s.ctxOf a) m else m, s.agentTag a⟩
/-- The fabric address of record k (R201). -/
def Context.logAddr (x : Context) (k : Nat) : Nat := bits x.log.toNat 16 36 * 65536 + 32 * (if x.logCap = 0 then 0 else k % x.logCap)

/-- Word j of the record at CONS. -/
def State.logWord (s : State) (c j : Nat) : Nat := memRead s.mem ((s.ctx c).logAddr (s.ctx c).cons + 8 * j) 8

/-- Whether the record at CONS is poisoned (R199). -/
def State.logBad (s : State) (c : Nat) : Bool := (List.range 8).any fun j => s.badWord ((s.ctx c).logAddr (s.ctx c).cons / 4 + j)

/-- The records of a context's ring from CONS on: word 0, A and B of each. -/
def State.logRecs (s : State) (c : Nat) : List (Nat × Nat × Nat) :=
  let x := s.ctx c
  (List.range x.logUsed).map fun j =>
    let a := x.logAddr ((x.cons + j) % 2 ^ 28)
    (memRead s.mem a 8, memRead s.mem (a + 16) 8, memRead s.mem (a + 24) 8)

/-- Whether a TYPE is one of R205. -/
def logType (t : Nat) : Bool := (1 ≤ t && t ≤ 9) || (0x10 ≤ t && t ≤ 0x18)

/-- What the log says to an event (R202, R209, R210). -/
inductive Gate where
  | free
  | record
  | wait
  | replay (a b : Nat)
  | reserved
deriving DecidableEq, Repr

/-- The gate of an event of a type and a virtual lane: room in record mode; in replay mode the record at CONS must name it, and a poisoned one names nothing. -/
def State.gate (s : State) (w : Who) (ty vl : Nat) : Gate :=
  let x := s.ctx w.ctx
  match w.mode with
  | 1 => if x.logUsed = x.logCap then .wait else .record
  | 2 =>
    if x.logUsed = 0 || s.logBad w.ctx then .wait
    else
      let w0 := s.logWord w.ctx 0
      if !logType (bits w0 56 8) || 5 ≤ bits w0 52 4 then .reserved
      else if bits w0 56 8 = ty ∧ bits w0 0 56 = w.tag + vl then .replay (s.logWord w.ctx 2) (s.logWord w.ctx 3)
      else .wait
  | _ => .free

/-- Word 0 of the record of an event (R203). -/
def Who.word0 (w : Who) (ty vl : Nat) : Nat := ty * 2 ^ 56 + w.tag + vl

/-- An event that waited on the log waits no more. -/
def Context.passed (x : Context) (w0 : Nat) : Context := { x with waits := x.waits.filter fun p => p.1 != w0 }

/-- A record written at PROD (R200, R203). -/
def State.logPut (s : State) (w : Who) (ty vl a b : Nat) : State :=
  let x := s.ctx w.ctx
  let r := w.word0 ty vl + 2 ^ 64 * (s.now.toNat + 2 ^ 64 * (a % 2 ^ 64 + 2 ^ 64 * (b % 2 ^ 64)))
  (s.devWrite (x.logAddr x.prod) 32 r).modCtx w.ctx fun x => ({ x with prod := (x.prod + 1) % 2 ^ 28 }).passed (w.word0 ty vl)

/-- CONS moved past the record it names (R209). -/
def State.logNext (s : State) (c : Nat) : State := s.modCtx c fun x => ({ x with cons := (x.cons + 1) % 2 ^ 28 }).passed (s.logWord c 0)

/-- A distributor or host record diverges: every replaying launch of the context ends (R210). -/
def State.divergeAll (s : State) (c : Nat) : State :=
  let s1 := { s with launches := s.launches.map fun (l : Launch) =>
    if l.ctx == c && l.f.mode == 2 then { l with ending := some (l.ending.getD (s.divergedStatus l.id)) } else l }
  s1.modCtx c fun x => { x with diverged := true }

/-- An event waits on the log, and since when (R202). -/
def State.stalled (s : State) (w : Who) (ty vl : Nat) : State :=
  s.modCtx w.ctx fun x => { x with waits := if x.waits.any fun p => p.1 == w.word0 ty vl then x.waits else x.waits ++ [(w.word0 ty vl, s.now)] }

/-- An event that has come about waits on the log where that holds it (R202). -/
def State.stallIf (s : State) (w : Who) (ty vl : Nat) (here : Bool) : State := if here && s.gate w ty vl == .wait then s.stalled w ty vl else s

/-- A chain of a context. -/
def State.chain (s : State) (c ch : Nat) : Chain := (s.ctx c).chains.getD ch Chain.clear

/-- Whether a group stands still: evicted, halted, in a slide's hold, or its launch ending (R54, R95, R114, R219). -/
def State.stands (s : State) (w : Warp) : Bool := w.evicted || w.halted || !((s.launchOf w.agent).any fun l => l.phase == .running && l.ending.isNone)

/-- Whether a group waits where an event of a type, other than a scheduler decision, may be held by the log: at the instruction, or with its outbox. -/
def State.waitsFor (s : State) (w : Warp) (ty vl : Nat) : Bool :=
  let box := (s.ord w.agent).outbox.head?.map OutEntry.kind
  let at_ := w.wait == some (.log ty vl) || (ty == 0 && w.wait == some .logFlush)
  !w.gone && !s.stands w && (match ty with
    | 3 => w.wait == some .swait
    | 4 => w.wait == some .qpush || w.wait == some .qpop
    | 5 => (match box with
      | some (.command _ _ _ _ _ _) => true
      | _ => false)
    | 6 => at_ || (match box with
      | some (.freeze _ _ _ _) => true
      | some (.thaw _ _) => true
      | _ => false)
    | _ => at_)

/-- Whether a decision about a group still stands where the log may hold it: a closed compaction window, its fairness timer, a stage's move, lanes on their way back; a gathering is looked at by the launch alone. -/
def State.decides (s : State) (w : Warp) (ty : Nat) : Bool :=
  match ty with
  | 0x13 => (s.trayOf w.agent).any fun t => t.windows.any fun x => x.closed && x.groups.min? == some w.agent.groupNo
  | 0x14 => !s.stands w && decide (4096 ≤ w.fairT)
  | 0x15 => (s.trayOf w.agent).any fun t => t.warps.any fun v => v.wait == some .move && !s.stands v
  | 0x18 => w.lanes.any fun l => l.back.isSome
  | _ => true

/-- Whether an event, given by word 0 of the record it waits for, still waits on the log of a context (R202, R203): the log holds it, and its agent is there: a launch's group, a started command, the distributor with something to decide, a held
append. -/
def State.stillWaits (s : State) (c w0 : Nat) : Bool :=
  let ty := bits w0 56 8
  let shut := fun (m : Nat) => s.gate ⟨c, m, bits w0 0 56⟩ ty 0 == .wait
  match bits w0 52 4 with
  | 2 => (s.chain c (bits w0 5 7)).recs.any fun r =>
    r.st == 1 && shut (s.who (.engine c (bits w0 5 7) r.seq)).mode && (if ty = 0x17 then r.ending.isSome else r.ending.isNone && r.hold == some .log)
  | 3 => (if s.ctxMode c = 0 then shut 1 || shut 2 else shut (s.ctxMode c)) && ((s.launches.any fun l => l.ctx == c && l.phase == .running) || (s.ctx c).chains.any fun h => h.recs.any fun r => r.readyAt.isSome)
  | 4 => shut (s.portWho c (bits w0 5 7)).mode && !(s.ctx c).held.isEmpty
  | k => s.launches.any fun l => l.ctx == c && l.ltag == bits w0 36 16 && l.ran && (
    if ty = 0x16 then shut l.f.mode && l.ending.isNone
    else
      let w := if k = 0 then s.warp? (.group l.id (bits w0 12 24) (bits w0 5 7)) else (s.handlers.find? fun h => h.launch == l.id && h.n % 2 ^ 24 == bits w0 12 24).map Handler.warp
      (w.map fun w => shut (s.who w.agent).mode && (if 0x10 ≤ ty then l.ending.isNone && s.decides w ty else s.waitsFor w ty (bits w0 0 5))).getD false)

/-- STALL: an agent waits on the log (R200). -/
def State.stall (s : State) (c : Nat) : Bool := (s.ctx c).waits.any fun p => s.stillWaits c p.1

/-- Waits on the log that are over are noted no more (R202). -/
def State.pruneWaits (s : State) : State :=
  { s with ctxs := s.ctxs.map fun p => if p.2.waits.isEmpty then p else (p.1, { p.2 with waits := p.2.waits.filter fun q => s.stillWaits p.1 q.1 }) }

/-- Whether an append of a group is still in its outbox, so that its record is still to be written (R407). -/
def State.appending (s : State) (a : Agent) : Bool :=
  (s.ord a).outbox.any fun e => match e.kind with
    | .command _ _ _ _ _ _ => true
    | _ => false

/-! Appends (R62), which the log may hold (R202, R209, R438) -/

/-- A chain of a context changed by f. -/
def State.modChain (s : State) (c ch : Nat) (f : Chain → Chain) : State := s.modCtx c fun x => { x with chains := x.chains.modify ch f }

/-- A record of a chain changed by f. -/
def State.modRec (s : State) (c ch seq : Nat) (f : Rec → Rec) : State :=
  s.modChain c ch fun h => { h with recs := h.recs.map fun r => if r.seq == seq then f r else r }

/-- The power state (R74): 0 Active, 1 Idle, 2 Retention, 3 entering Off. -/
def State.power (s : State) : Nat := bits s.regs.pwrCtl.toNat 4 2

/-- A wake towards a power state begins, or goes on to the deeper of two (R71, R74). -/
def State.wakeTo (s : State) (target level : Nat) : State :=
  let old := s.waking.getD (target, level)
  { s with waking := some (Nat.min target old.1, Nat.max level old.2) }

/-- An append as the power unit sees it (R74): it ends an entry to Retention and wakes the device. -/
def State.appendSeen (s : State) : State :=
  let s1 := { s with active := s.now }
  let s2 := if s.retaining then { s1 with retaining := false, regs := { s1.regs with pwrCtl := s1.regs.pwrCtl ||| 0x80 } } else s1
  if s.power = 1 || s.power = 2 then s2.wakeTo 0 0 else s2

/-- An append (R62): STATUS and LINK of the record are zeroed, the previous tail links to it, and it takes the next sequence number. -/
def State.append (s : State) (c ch addr : Nat) (who : Option Agent) (insts : List Inst) (rel : Option RelId) : State :=
  let h := s.chain c ch
  let s1 := (s.appendSeen.devWrite (addr + 4) 4 0).devWrite (addr + 56) 8 0
  let s2 := match h.tail with
    | some t => s1.devWrite (t + 56) 8 addr
    | none => s1
  s2.modChain c ch fun h =>
    { h with seq := (h.seq + 1) % 2 ^ 64, tail := some addr, recs := h.recs ++ [⟨(h.seq + 1) % 2 ^ 64, addr, 0, who, insts, rel, none, none, [], 0, none, 0, [], 0, none, 0, none, none⟩] }

/-- A held append takes effect (R62, R178): a port belongs to the device and system instances only. -/
def State.appendHeld (s : State) (c : Nat) (h : Held) : State :=
  (s.modCtx c fun x => { x with held := x.held.drop 1 }).append c h.chain h.addr (some (.port h.who)) [.device s.pkg, .system] (some h.rel)

/-- Whether the release of a held append has been performed (R178). -/
def State.heldReady (s : State) (h : Held) : Bool := decide (h.rel.num ≤ (s.ord h.rel.agent).nrel)

/-- The held appends of a context take effect, in order, as far as their releases and the log let them (R178, R202, R209): at most n. An append whose number is not the logged one is performed and diverges. -/
def State.flushHeld (s : State) (c : Nat) : Nat → State
  | 0 => s
  | n + 1 => match (s.ctx c).held with
    | [] => s
    | h :: _ =>
      let w := s.portWho c h.who
      let seq := (s.chain c h.chain).seq + 1
      if !s.heldReady h then s
      else match s.gate w 5 0 with
      | .wait => s.stalled w 5 0
      | .free => (s.appendHeld c h).flushHeld c n
      | .record => ((s.appendHeld c h).logPut w 5 0 h.chain seq).flushHeld c n
      | .replay a b => if a = h.chain && b = seq % 2 ^ 64 then ((s.appendHeld c h).logNext c).flushHeld c n else (s.appendHeld c h).divergeAll c
      | .reserved => (s.appendHeld c h).divergeAll c

/-- Every held append of a context that the log lets through. -/
def State.flushAll (s : State) (c : Nat) : State := s.flushHeld c (s.ctx c).held.length

/-- A host append, or one of the serving controller's (R62, R74, R123, R178, R209): the power unit sees it as it arrives; a release at system scope, which waits for the port's earlier writes, then the append, held while the log does not let it through.
rest says that it follows another of its launch list. -/
def State.hostAppend (s : State) (c who ch addr : Nat) (rest : Bool := false) : State :=
  let a : Agent := .port who
  let s := s.appendSeen
  let r : RelId × State := if (s.ord a).outbox.isEmpty then s.releaseNow a .system else (⟨a, (s.ord a).nextRel⟩, s.release a .system)
  (r.2.modCtx c fun x => { x with held := x.held ++ [⟨who, ch, addr, r.1, rest⟩] }).flushAll c

/-- Whether a launch list of the serving controller is part-way onto a chain: no other append falls between its records (R123). -/
def State.midList (s : State) (c ch : Nat) : Bool := (((s.ctx c).held.find? fun h => h.chain == ch).map Held.rest).getD false

/-- The record at CONS consumed (R209); a held append whose record is now at CONS takes effect. -/
def State.logTake (s : State) (c : Nat) : State := (s.logNext c).flushAll c

/-- The trap of a replay divergence (R210): word 3 the index at CONS, word 4 the type the agent reached. -/
def State.divergence (s : State) (c ty : Nat) : Trap := ⟨0x38, 0, BitVec.ofNat 64 (s.ctx c).cons, BitVec.ofNat 64 ty⟩

/-- An event of a group that is not per lane diverges (R210): its whole front traps; a group without a Ready lane ends its launch so. -/
def State.divergeFront (s : State) (w : Warp) (ty : Nat) : State :=
  let c := s.ctxOf w.agent
  if w.front.isEmpty then (s.endLaunch (w.agent.launchId.getD 0) (s.divergedStatus (w.agent.launchId.getD 0))).modCtx c fun x => { x with diverged := true }
  else s.trapFront w (s.divergence c ty)

/-- An event takes effect: its record is written, or compared and consumed; maskB is the part of B that is compared (R200, R209, R210). The gate has been passed. -/
def State.logEvent (s : State) (w : Who) (ty vl a b : Nat) (maskB : Nat := 2 ^ 64 - 1) : Except Trap State :=
  match s.gate w ty vl with
  | .free => .ok s
  | .record => .ok (s.logPut w ty vl a b)
  | .wait => .ok s
  | .replay ra rb =>
    if ra = a % 2 ^ 64 && (rb &&& maskB) = (b % 2 ^ 64 &&& maskB) then .ok (s.logTake w.ctx) else .error (s.divergence w.ctx ty)
  | .reserved => .error (s.divergence w.ctx ty)

/-- An engine command ends with a status, unless it is ending already (R63, R390). -/
def State.endCommand (s : State) (c ch seq : Nat) (st : Word32) : State :=
  s.modRec c ch seq fun r => { r with ending := some (r.ending.getD st) }

end Sys2Proof.Machine
end

