-- ==== Sys2Proof/Machine/Access.lean ====
section
/-!
DEFINITION. One lane's access to memory: the address (R350), the checks at issue (R147, R150, R153, R159, R161, R162, R195, R218, R351), the memory-side outcome (R167), the reads and
writes, and the form in which a memory instruction acts on its lanes, with the waits of R369.
-/

namespace Sys2Proof

/-- Bytes of a value of a type in memory (R349). -/
def AtomTy.bytes (t : AtomTy) : Nat := if t.is64 then 8 else 4
/-- Bytes of a value of a bit type in memory. -/
def BitTy.bytes (t : BitTy) : Nat := if t.is64 then 8 else 4

/-- The type code of an atomic's type as a memory type. -/
def AtomTy.float : AtomTy → Bool
  | .f32 => true | .f64 => true
  | .i32 => false | .i64 => false | .n32 => false | .n64 => false | .b32 => false | .b64 => false

/-- A loaded value of a narrow type as 32 bits (R349). -/
def loadExt (t : Ty) (v : Nat) : Nat :=
  match t with
  | .i8 => wrap 32 (signed 8 v)
  | .i16 => wrap 32 (signed 16 v)
  | _ => v

namespace Machine

/-- The kinds of access that R162 and R167 tell apart. -/
inductive Kind where
  | load | store | red | atom
deriving DecidableEq, Repr

/-- Whether the kind needs read permission (R162). -/
def Kind.reads : Kind → Bool
  | .load => true | .atom => true | .store => false | .red => false
/-- Whether the kind needs write permission (R162). -/
def Kind.writes : Kind → Bool
  | .load => false | .atom => true | .store => true | .red => true

/-- Where an access falls: bytes of a tray's lane-private window, or words of the order machine with a byte mask. -/
inductive Place where
  | lp (launch tray : Nat) (addrs : List Nat)
  | mem (locs : List Loc) (mask : BitVec 4)
deriving DecidableEq, Repr

/-- An access whose checks have passed: its place, the first byte within the first word, its fabric address if it has one, how R148 and R195 treat it, the address that a tag reports. -/
structure Target where
  place  : Place
  sub    : Nat
  fab    : Option Nat
  racy   : Bool
  nolog  : Bool
  frozen : Bool
  va     : Nat
deriving DecidableEq, Repr

/-- The address of a lane's access (R350). -/
def ea (w : Warp) (l : Lane) (sp : Space) (m : MemOpd) (width : Nat) : Nat :=
  let b := signed 32 (rdSrc w l false m.b)
  if sp == .g then wrap 64 ((rdSrc w l true m.a : Int) + b + signed 10 m.off.toNat * (width : Int))
  else wrap 32 ((rdSrc w l false m.a : Int) + b + signed 10 m.off.toNat * (width : Int))

/-- The address of a cas, which has no index (R361). -/
def eaCas (w : Warp) (l : Lane) (sp : Space) (a : Src) (off : BitVec 10) (width : Nat) : Nat :=
  if sp == .g then wrap 64 ((rdSrc w l true a : Int) + signed 10 off.toNat * (width : Int))
  else wrap 32 ((rdSrc w l false a : Int) + signed 10 off.toNat * (width : Int))

/-- The tray a lane's scratchpad, patch and lane-private accesses reach: for a handler lane, that of its origin lane (R151, log entry 9: DEDUCED). -/
def State.laneTray (s : State) (w : Warp) (l : Lane) : Option Tray :=
  match w.agent, l.origin with
  | .handler la _, some o => s.tray? la o.tray
  | _, _ => s.trayOf w.agent

/-- The words of an offset and a width, from a way of naming words: one word with a mask, or whole words. -/
def placeOf (mk : Nat → Loc) (off width : Nat) : Place :=
  if width < 4 then .mem [mk (off / 4)] (BitVec.ofNat 4 ((2 ^ width - 1) * 2 ^ (off % 4)))
  else .mem ((List.range (width / 4)).map fun j => mk (off / 4 + j)) 15

/-- The window offset of a byte of a thread's lane-private array (R149). -/
def lpByte (words : Nat) (ident : BitVec 16) (a : Nat) : Nat :=
  bits ident.toNat 5 5 * 128 * words + (a / 4 * 32 + bits ident.toNat 0 5) * 4 + a % 4

/-- Whether an access to fabric bytes touches the queue bytes of a running pipeline (R108, R161): they lie in this package's shelf, where it holds the pipeline's trays. -/
def State.inQueue (s : State) (fa width : Nat) : Bool :=
  let base := s.pkg * 2 ^ 46 + shelfBase
  s.launches.any fun l => l.ran && l.descr.members.getLsbD s.pkg && match l.pipe with
    | none => false
    | some p => p.stages.dropLast.any fun q => decide (fa < base + q.qbase + 64 * 2 ^ q.qlog2) && decide (base + q.qbase < fa + width)

/-- The checks of a range on a fabric access, by ascending code (R161, R162, R190, R195, R147); the code 0x23 for queue bytes (R108). -/
def State.fabChecks (s : State) (r : Range) (fa width : Nat) (k : Kind) (flt : Bool) : Option Nat :=
  if (k.reads && !r.rd) || (k.writes && !r.wr) then some 0x11
  else if k.writes && s.frozenAny fa width then some 0x12
  else if flt && hostHomed fa then some 0x16
  else if fa % width ≠ 0 then some 0x17
  else if s.inQueue fa width then some 0x23
  else none

/-- The tray within the patch of a tray that a patch address names, if it is in bounds (R159). -/
def LaunchF.patchTray (f : LaunchF) (idx core : Nat) : Nat :=
  (idx / f.dw / f.ph * f.ph + core / f.pw) * f.dw + (idx % f.dw / f.pw * f.pw + core % f.pw)

/-- Where a lane's access falls, or the lowest code it breaks (R351). -/
def State.target (s : State) (w : Warp) (l : Lane) (sp : Space) (k : Kind) (flt : Bool) (a width : Nat) : Except Nat Target :=
  match s.launchOf w.agent, s.laneTray w l with
  | some la, some t =>
    let x := s.ctx la.ctx
    match sp with
    | .lp =>
      if a % width ≠ 0 then .error 0x17
      else if t.lplim < a / 4 + (width + 3) / 4 then .error 0x21
      else .ok ⟨.lp la.id t.idx ((List.range width).map fun j => lpByte la.f.lpWords l.ident (a + j)), 0, none, true, true, false, a⟩
    | .sp =>
      if a % width ≠ 0 then .error 0x17
      else if la.f.spBytes < a + width then .error 0x20
      else .ok ⟨placeOf (.sp la.id t.idx) a width, a % 4, none, la.f.racy, la.f.racy, false, a⟩
    | .pm =>
      let core := a / 2 ^ 20
      let o := a % 2 ^ 20
      if a % width ≠ 0 then .error 0x17
      else if la.f.pw * la.f.ph ≤ core || la.f.pmBytes < o + width then .error 0x22
      else .ok ⟨placeOf (.pm la.id (la.f.patchTray t.idx core)) o width, a % 4, none, la.f.racy, la.f.racy, false, a⟩
    | .sh =>
      let fa := s.pkg * 2 ^ 46 + shelfBase + a
      if shelfSize < a + width then .error (if a % width ≠ 0 then 0x17 else 0x23)
      else match x.fabRange fa width with
        | none => .error (if a % width ≠ 0 then 0x17 else 0x23)
        | some r => match s.fabChecks r fa width k flt with
          | some c => .error c
          | none => .ok ⟨placeOf .fab fa width, fa % 4, some fa, r.racy, r.nolog, s.frozenAny fa width, a⟩
    | .g =>
      if bits a 56 8 ≠ 0 then .error 0x10
      else match x.range a width with
        | none => .error 0x10
        | some r =>
          let fa := r.fabric a
          match s.fabChecks r fa width k flt with
          | some c => .error c
          | none => .ok ⟨placeOf .fab fa width, fa % 4, some fa, r.racy, r.nolog, s.frozenAny fa width, a⟩
  | _, _ => .error 0x10

/-- The bound of its space that a lane's access breaks, whatever else it breaks (R147). -/
def State.bound? (s : State) (w : Warp) (l : Lane) (sp : Space) (a width : Nat) : Option Nat :=
  match s.launchOf w.agent, s.laneTray w l with
  | some la, some t => match sp with
    | .lp => if t.lplim < (a + width + 3) / 4 then some 0x21 else none
    | .sp => if la.f.spBytes < a + width then some 0x20 else none
    | .pm => if la.f.pw * la.f.ph ≤ a / 2 ^ 20 || la.f.pmBytes < a % 2 ^ 20 + width then some 0x22 else none
    | .sh =>
      let fa := s.pkg * 2 ^ 46 + shelfBase + a
      if shelfSize < a + width || ((s.ctx la.ctx).fabRange fa width).isNone || s.inQueue fa width then some 0x23 else none
    | .g =>
      if bits a 56 8 ≠ 0 then none
      else if (((s.ctx la.ctx).range a width).map fun r => s.inQueue (r.fabric a) width).getD false then some 0x23 else none
  | _, _ => none

/-- The offset that a bound's tag reports of a lane's access (R144): its own, or for a `.g` access to queue bytes the shelf offset it reaches. -/
def State.boundOff (s : State) (w : Warp) (sp : Space) (a width : Nat) : Nat :=
  match sp, s.launchOf w.agent with
  | .g, some la => (((s.ctx la.ctx).range a width).map fun r => (r.fabric a - (s.pkg * 2 ^ 46 + shelfBase)) % 2 ^ 32).getD 0
  | _, _ => a

/-- The trap of a code that an access at an address breaks: for a bound, the mask of the front lanes that broke it and the offset (R144, R147). -/
def accessTrap (mask : Nat → Word32) (c a off : Nat) : Trap :=
  if 0x20 ≤ c ∧ c ≤ 0x23 then .at c ((mask c).toNat * 2 ^ 32 + off) else .at c a

/-- The mask of a group-wide access: the whole front breaks what it breaks. -/
def Warp.frontMask (w : Warp) : Nat → Word32 := fun _ => maskOf w.front

/-- The mask of the passing lanes that break a bound, by code. -/
def State.boundMask (s : State) (w : Warp) (g : Guard) (sp : Space) (width : Nat) (addr : Lane → Nat) (c : Nat) : Word32 :=
  maskOf ((w.passing g).filter fun k => s.bound? w (w.lane k) sp (addr (w.lane k)) width == some c)

/-! Watchpoints (R217, R218) -/

/-- Whether a watchpoint is hit by an access of a kind to fabric bytes. -/
def wpHits (p : Word × Word) (fa width : Nat) (k : Kind) : Bool :=
  bit p.1.toNat 0 && decide (bits p.1.toNat 2 50 ≤ (fa + width - 1) / 4) && decide (fa / 4 ≤ bits p.2.toNat 2 50) &&
    ((bit p.2.toNat 1 && k != .load) || (bit p.2.toNat 0 && k != .store))

/-- The lowest watchpoint an access hits: none below debug level 2 (R72), and in replay halting ones change nothing (R218, R221). -/
def State.watch? (s : State) (w : Warp) (l : Lane) (t : Target) (width : Nat) (k : Kind) : Option Nat :=
  if l.exempt || decide (s.dbgLevel < 2) then none
  else match t.fab, s.launchOf w.agent with
    | some fa, some la => ((s.ctx la.ctx).wp.zipIdx.find? fun p => wpHits p.1 fa width k && !(la.f.mode == 2 && bit p.1.1.toNat 1)).map Prod.snd
    | _, _ => none

/-- Every group and handler group of a context on this package halts (R219): the cause and number of the hit are kept. -/
def State.haltHere (s : State) (c cause num : Nat) : State :=
  let hw := fun (w : Warp) => { w with halted := true }
  let mine := fun (l : Nat) => ((s.launch? l).map fun x => x.ctx == c).getD false
  let s1 := { s with
    trays := s.trays.map fun (t : Tray) => if mine t.launch then { t with warps := t.warps.map hw } else t,
    handlers := s.handlers.map fun (h : Handler) => if mine h.launch then { h with warp := hw h.warp } else h }
  s1.modCtx c fun x => { x with halted := true, hitCause := cause, hitNum := num }

/-- The other member packages of a context's running launches (R99, R219). -/
def State.memberPkgs (s : State) (c : Nat) : List Nat :=
  (List.range 64).filter fun p => p != s.pkg && s.launches.any fun l => l.ctx == c && l.ran && l.descr.members.getLsbD p

/-- Whether a launch is a context's. -/
def State.launchIn (s : State) (c l : Nat) : Bool := ((s.launch? l).map fun x => x.ctx == c).getD false

/-- A group that halted goes on. -/
def Warp.resumed (w : Warp) : Warp := { w with halted := false }

/-- Every halted agent of a context on this package resumes, and HALTED clears (R220, R221). -/
def State.resumeHere (s : State) (c : Nat) : State :=
  let s1 := { s with
    trays := s.trays.map fun (t : Tray) => if s.launchIn c t.launch then { t with warps := t.warps.map Warp.resumed } else t
    handlers := s.handlers.map fun (h : Handler) => if s.launchIn c h.launch then { h with warp := h.warp.resumed } else h }
  s1.modCtx c fun x => { x with halted := false }

/-- The cross-trigger of a context's halt (R219): it halts here and, by a message, on every member package of its launches. -/
def State.halt (s : State) (c cause num : Nat) : State :=
  (s.memberPkgs c).foldl (fun (s : State) p => s.sendTo p 1 [.halt s.pkg s.free c cause num]) (s.haltHere c cause num)

/-- A halting hit of a group: its front stops before the word, exempt at the issue after RESUME (R219, R221). -/
def State.haltHit (s : State) (w : Warp) (cause num : Nat) : State :=
  (s.setWarp (w.mapLanes w.front fun _ l => { l with exempt := true })).halt (s.ctxOf w.agent) cause num

/-! The checks of one access (R351) -/

/-- The tracked accesses of a target (R181, R184). -/
def State.tracksOf (s : State) (w : Warp) (k : Nat) (l : Lane) (t : Target) (kd : Kind) (plain : Bool) : List Track :=
  match t.place with
  | .lp _ _ _ => []
  | .mem locs m => locs.map fun loc => ⟨loc, m, kd.writes, plain, w.agent, (s.ord w.agent).region, l.pc, k, l.ident, l.origin⟩

/-- The checks of one lane's access: its target and the state that tracks it, or its trap. A watchpoint found here traps: where the lowest one hit halts, the instruction has halted before its accesses are
checked (R218: watched, State.hitHalt). -/
def State.check (s : State) (w : Warp) (k : Nat) (sp : Space) (kd : Kind) (flt plain : Bool) (a width : Nat) (mask : Nat → Word32) :
    Except Trap (Target × State) :=
  let l := w.lane k
  match s.target w l sp kd flt a width with
  | .error c => .error (accessTrap mask c a (s.boundOff w sp a width))
  | .ok t =>
    let r := if t.racy || t.frozen then Except.ok s else s.track w.agent (s.tracksOf w k l t kd plain) t.va
    match r with
    | .error e => .error e
    | .ok s1 => match s.watch? w l t width kd with
      | some n => .error (.at 0x51 n)
      | none => .ok (t, s1)

/-- The lowest of the watchpoints that an instruction's accesses hit, if it halts (R218): another hit of that issue is not taken (log entry 89: DEDUCED). -/
def State.haltOf (s : State) (w : Warp) (hits : List Nat) : Option Nat :=
  hits.min?.filter fun n => bit (((s.ctx (s.ctxOf w.agent)).wp.getD n (0, 0)).1.toNat) 1

/-- The halting watchpoint that the passing lanes' accesses meet (R218). -/
def State.haltWatch (s : State) (w : Warp) (g : Guard) (sp : Space) (kd : Kind) (flt : Bool) (width : Nat) (addr : Lane → Nat) : Option Nat :=
  s.haltOf w ((w.passing g).filterMap fun k => match s.target w (w.lane k) sp kd flt (addr (w.lane k)) width with
    | .error _ => none
    | .ok t => s.watch? w (w.lane k) t width kd)

/-- The halting watchpoint that some accesses of a whole group meet (R218), made as its lowest front lane's. -/
def State.hitHalt (s : State) (w : Warp) (sp : Space) (kd : Kind) (width : Nat) (as : List Nat) : Option Nat :=
  let l := w.lane (w.front.headD 0)
  s.haltOf w (as.filterMap fun a => match s.target w l sp kd false a width with
    | .error _ => none
    | .ok t => s.watch? w l t width kd)

/-- The lanes of a memory instruction after its halting watchpoints have been looked at (R218, R219). -/
def watched (s : State) (w : Warp) (g : Guard) (sp : Space) (kd : Kind) (flt : Bool) (width : Nat) (addr : Lane → Nat) (k : State) : State :=
  match s.haltWatch w g sp kd flt width addr with
  | some n => s.haltHit w 0x51 n
  | none => k

/-- The memory side's answer to a load or a value-returning atomic (R43, R167). -/
inductive Side where
  | served
  | absent (page : Nat)
  | hold (page : Nat)
  | fails (cause : Nat)
deriving DecidableEq, Repr

/-- The memory side's answer at a fabric address. -/
def State.side (s : State) (fa : Nat) : Side :=
  if !s.backed fa then .fails 0x14
  else if s.held fa then .hold (pageOf fa)
  else match s.pageState fa with
    | .present _ => .served
    | .absent => .absent (pageOf fa)
    | .unmapped => .fails 0x10
    | .poisoned => .fails 0x14

/-! Reading and writing at a target -/

/-- A value read: the number, and whether some word's version is poison (R199), with the publishing releases of the versions (R175). -/
structure MemVal where
  val    : Nat
  poison : Bool
  pubs   : List RelId
  vers   : List Version
deriving DecidableEq, Repr

/-- The bytes of a list of window offsets, the first lowest. -/
def lpRead (m : Memory) : List Nat → Nat
  | [] => 0
  | a :: r => (memGet m a).toNat + 256 * lpRead m r

/-- Bytes written at a list of window offsets. -/
def lpWrite (m : Memory) : List Nat → Nat → Memory
  | [], _ => m
  | a :: r, v => lpWrite (memPut m a (BitVec.ofNat 8 (v % 256))) r (v / 256)

/-- A read of every word of a place (R171, R174). -/
def State.readLocs (s : State) (a : Agent) (m : BitVec 4) (plain frozen racy : Bool) : List Loc → MemVal × State
  | [] => (⟨0, false, [], []⟩, s)
  | loc :: r =>
    let x := s.readWord a loc m plain frozen racy
    let y := x.2.readLocs a m plain frozen racy r
    (⟨x.1.val.toNat % 2 ^ 32 + 2 ^ 32 * y.1.val, x.1.ver.poison || y.1.poison, x.1.ver.pub.rels ++ y.1.pubs, x.1.ver :: y.1.vers⟩, y.2)

/-- A run of scratchpad bytes: its words. -/
def spWords (l t off n : Nat) : List Loc := (List.range ((off % 4 + n + 3) / 4)).map fun j => .sp l t (off / 4 + j)

/-- n bytes of a tray's scratchpad read plainly by a group (R174): the value. -/
def State.readSp (s : State) (a : Agent) (la : Launch) (t off n : Nat) : Nat × State :=
  let r := s.readLocs a 15 true false la.f.racy (spWords la.id t off n)
  (bits r.1.val (8 * (off % 4)) (8 * n), r.2)

/-- A read of width bytes at a target by an agent. -/
def State.readAt (s : State) (a : Agent) (t : Target) (width : Nat) (plain : Bool) : MemVal × State :=
  match t.place with
  | .lp l i as => (⟨lpRead ((s.tray? l i).map Tray.lp |>.getD []) as, false, [], []⟩, s)
  | .mem locs m =>
    let r := s.readLocs a m plain t.frozen t.racy locs
    ({ r.1 with val := bits r.1.val (8 * t.sub) (8 * width) }, r.2)

/-- The write of a value at a target (R171): one piece a word, the value in the bytes of the mask. -/
def writeOp (l : Lane) (k : Nat) (t : Target) (v : Nat) : WriteOp :=
  match t.place with
  | .lp _ _ _ => ⟨[], l.pc, k, l.ident, BitVec.ofNat 64 t.va⟩
  | .mem locs m => ⟨locs.zipIdx.map fun p => ⟨p.1, m, BitVec.ofNat 32 (bits (v * 2 ^ (8 * t.sub)) (32 * p.2) 32)⟩, l.pc, k, l.ident, BitVec.ofNat 64 t.va⟩

/-- What a write at a target publishes at its issue (R117): anything outside the tray's scratchpad and lane-private window. -/
def State.publishFor (s : State) (a : Agent) (sp : Space) : State :=
  match sp with
  | .lp => s
  | .sp => s
  | .pm => s.publish a
  | .sh => s.publish a
  | .g => s.publish a

/-- A store of width bytes at a target: lane-private words at once, others at the outbox's tail (R152, R173). -/
def State.storeAt (s : State) (a : Agent) (l : Lane) (k : Nat) (t : Target) (v : Nat) : State :=
  match t.place with
  | .lp la i as => s.modTray la i fun x => { x with lp := lpWrite x.lp as v, lpDirty := union x.lpDirty (as.map fun b => b / 128) }
  | .mem _ _ => s.push a (.write (writeOp l k t v)) false

/-- The dirty lane-private lines of a tray written to the pool of its context (R152). -/
def State.lpWriteBack (s : State) (l i : Nat) : State :=
  match s.tray? l i, s.launch? l with
  | some t, some la =>
    let base := fun (a : Nat) => bits (s.ctx la.ctx).lppool.toNat 16 36 * 65536 + t.lpUnits.getD (a / 65536) 0 * 65536 + a % 65536
    let s1 := t.lpDirty.foldl (fun (s : State) n => s.devWrite (base (128 * n)) 128 (memRead t.lp (128 * n) 128)) s
    s1.modTray l i fun x => { x with lpDirty := [] }
  | _, _ => s

/-- Whether an agent's outbox holds a write to a word of a place (R359). -/
def State.pendingAt (s : State) (a : Agent) (t : Target) : Bool :=
  match t.place with
  | .lp _ _ _ => false
  | .mem locs _ => locs.any fun loc => !(pendingPieces (s.ord a) loc).isEmpty

/-! A release at issue (R169) -/

/-- The trap of a held deferred store record (R169). -/
def DeferredRec.trap (d : DeferredRec) : Trap where
  cause := if d.reason == 0x15 then 0x15 else 0x13
  detail := d.va
  w3 := BitVec.ofNat 64 (d.more.toNat * 2 ^ 61 + d.reason.toNat * 2 ^ 53 + d.pc.toNat / 8)
  w4 := BitVec.ofNat 64 (d.vlane * 2 ^ 16 + d.ident.toNat)

/-- A group at an instruction that performs a release (R169): while a write of its outbox is pending it waits; with a deferred store record held the front traps and the record is cleared; else it
goes on, and its trays have published (R117). -/
def releasing (s : State) (w : Warp) (k : State → State) : State :=
  match w.dsr with
  | some d => s.trapFront { w with dsr := none } d.trap
  | none => if (s.ord w.agent).hasWrite then s.setWarp (w.waiting s.now .drain) else k (s.publish w.agent)

/-- A memory instruction that performs a release when some lane passes (R169). -/
def releasingIf (s : State) (w : Warp) (g : Guard) (k : State → State) : State := if (w.passing g).isEmpty then k s else releasing s w k

/-! Memory instructions, lane by lane (R352, R359, R369) -/

/-- What becomes of a lane at a memory instruction: its fate, or it waits with the lanes after it. -/
inductive MFate where
  | fate (f : Fate)
  | hold (r : Wait)
deriving DecidableEq, Repr

/-- The lanes of a memory instruction in ascending order, the state threaded through; once one holds, those after it hold. -/
def memLoop (f : State → Nat → State × MFate) : List Nat → State → State × List (Nat × MFate)
  | [], s => (s, [])
  | k :: ks, s =>
    match f s k with
    | (s1, .hold r) => (s1, (k, .hold r) :: ks.map fun j => (j, .hold r))
    | (s1, .fate x) => let q := memLoop f ks s1; (q.1, (k, .fate x) :: q.2)

/-- The lanes whose fate is settled. -/
def settled (fs : List (Nat × MFate)) : List (Nat × Fate) := fs.filterMap fun p => match p.2 with
  | .fate f => some (p.1, f)
  | .hold _ => none

/-- The lanes that hold, and for what. -/
def holding (fs : List (Nat × MFate)) : List (Nat × Wait) := fs.filterMap fun p => match p.2 with
  | .fate _ => none
  | .hold r => some (p.1, r)

/-- The pending-register notes of a load (R138, R221). -/
def pendOf (w : Warp) (d count : Nat) : List Pend :=
  (List.range count).map fun j => ⟨0, d + j, w.frontPc, w.lanes.map fun l => (l.vget (d + j)).setWidth 128⟩

/-- The end of a memory instruction: the fates of its passing lanes, the others past it; the lanes that hold keep the group waiting (R369, R439). -/
def memEnd (s : State) (w : Warp) (g : Guard) (pd : List Pend) (fs : List (Nat × MFate)) : State :=
  let rest := (w.front.filter fun k => !(w.lane k).passes g).map fun k => (k, Fate.done (w.lane k) 0)
  let w1 := (s.warp? w.agent).getD w
  let s2 := applyFates s { w1 with pend := w1.pend ++ pd } (settled fs ++ rest)
  match holding fs with
  | [] => s2
  | (k, x) :: hs => s2.modWarp w.agent fun v =>
      { v with wait := some x, waitF := maskOf (k :: hs.map Prod.fst), waitAt := if w.wait == some x then w.waitAt else s.now }

/-- A memory instruction: the passing lanes one after another by f. -/
def memDo (s : State) (w : Warp) (g : Guard) (pd : List Pend) (f : State → Nat → State × MFate) : State :=
  let r := memLoop f (w.passing g) s
  memEnd r.1 w g pd r.2

/-- A value written to a vector register, pair or quad (R349). -/
def Lane.putW (l : Lane) (d : BitVec 8) (width v : Nat) : Lane := l.rset d.toNat (if width ≤ 4 then 1 else width / 4) v

/-- The low bytes of a vector register, pair or quad (R349). -/
def Lane.getW (l : Lane) (d : BitVec 8) (width : Nat) : Nat := l.rget d.toNat (if width ≤ 4 then 1 else width / 4) % 2 ^ (8 * width)

/-- Whether a target lies where requests are sampled: `.g`, `.sh` or `.pm` (R215). -/
def Target.sampledPlace (t : Target) : Bool :=
  t.fab.isSome || (match t.place with
    | .mem (.pm _ _ _ :: _) _ => true
    | _ => false)

/-- The line a target falls in: the location of its first word, in units of 32 words. -/
def Target.line (t : Target) : Option Loc :=
  match t.place with
  | .mem (.fab w :: _) _ => some (.fab (w / 32))
  | .mem (.pm l i w :: _) _ => some (.pm l i (w / 32))
  | _ => none

/-- The unit that serves an access (R215): 0 the first-level cache, 1 the second-level cache with the shelf's banks, 2 another core, 3 HBM4E, 4 the second tier, 5 another package, 6 a host. Which lines a
second-level cache holds the spec does not state: a free value (log entry 97: DESIGN CHOICE). -/
def State.servedBy (s : State) (a : Agent) (t : Target) : Nat :=
  match t.place with
  | .mem (.fab w :: _) _ =>
    if hostHomed (4 * w) then (if (alGet s.hostLines (4 * w / 64)).isSome then 0 else 6)
    else if ((s.coreOf a).map fun c => s.cached.contains (w, c) || alGet s.regd w == some c || s.unregd.any fun p => p.1 == w && p.2.1 == c).getD false then 0
    else if pkgOf (4 * w) ≠ s.pkg then 5
    else if (alGet s.regd w).isSome then 2
    else if Config.inSecondLevel s.cycle (w / 32) then 1
    else match s.storageAt (4 * w) with
      | .stack _ _ _ => 3
      | .lpddr _ => 4
      | .cxl _ _ => 4
      | .bank _ _ => 1
      | .host _ => 6
      | .registers => 1
      | .nowhere => 1
  | .mem (.pm l i _ :: _) _ => if (s.tray? l i).map Tray.core == s.coreOf a then 0 else 2
  | _ => 0

/-- Whether the memory side has done with a tagged request, which may then complete: not while its page is absent or held (R215, R167). -/
def State.completable (s : State) (r : Request) : Bool := match r.fab.map s.side with
  | some (.absent _) => false
  | some (.hold _) => false
  | _ => true

/-- A line request of the instruction being issued (R350): the first of its line is walked for at its home when it reads there, or joins the walk that another of its requests began for the page (R165, log
entry 76: DEDUCED). -/
def State.lineReq (s : State) (t : Target) (walk : Bool) : State :=
  match t.line with
  | none => s
  | some ln =>
    if s.lines.contains ln then s
    else
      let same := fun (fa : Nat) => s.lines.any fun x => match x with
        | .fab n => n * 128 / 65536 == pageOf fa
        | _ => false
      let s1 := match t.fab with
        | some fa => if !walk then s else if same fa then s.mergeFor fa else s.walkFor fa
        | none => s
      { s1 with lines := s1.lines ++ [ln] }

/-- A load's line request to another package's home, one for each line (R25, R192). -/
def State.crossRead (s : State) (t : Target) : State :=
  match t.fab with
  | some fa => if (t.line.map s.lines.contains).getD true then s else s.cross fa 1 (.read s.pkg s.free)
  | none => s

/-- A lane's atomic sent to another package's home (R190); ret says that it returns a value. -/
def State.crossAtom (s : State) (a : Agent) (l : Lane) (k : Nat) (t : Target) (width : Nat) (ret : Bool) : State :=
  match t.fab with
  | some fa => s.cross fa 1 (.atomic (BitVec.ofNat 52 fa) width a k l.ident l.pc (BitVec.ofNat 64 t.va) ret)
  | none => s

/-- A line request of a group as its first-level cache sees it: the lanes of an instruction that fall in one line make one (R350), and the 2^LOG2N-th is tagged, whether it is served, parks, fails or only
moves a line (R214, R215, log entry 15: DEDUCED). -/
def State.requested (s : State) (w : Warp) (k : Nat) (t : Target) (kind srv : Nat) : State :=
  let c := s.ctxOf w.agent
  let x := s.ctx c
  let s0 := s.lineReq t (kind != 2)
  if s.dbgLevel < 1 || !bit x.smpc.toNat 8 || !t.sampledPlace || (t.line.map s.lines.contains).getD true then s0
  else
    let core := (s.coreOf w.agent).getD 0
    let n := (alGet s.sampleCnt (256 * core + c)).getD 0 + 1
    if n < 2 ^ bits x.smpc.toNat 0 5 then { s0 with sampleCnt := alSet s.sampleCnt (256 * core + c) n }
    else { s0 with
      sampleCnt := alSet s.sampleCnt (256 * core + c) 0
      requests := s0.requests ++ [⟨w.agent, core, s.now, (w.lane k).pc, t.va, kind, w.agent.trayNo, k, w.agent.groupNo, t.fab, srv⟩] }

/-- An access of a group that is performed: its line request, which a load sends at once to another package's home (R215, R192). -/
def State.sampled (s : State) (w : Warp) (k : Nat) (t : Target) (kind srv : Nat) : State := (if kind = 1 then s.crossRead t else s).requested w k t kind srv

/-- A plain load of one lane: its checks, the memory side, the read (R351, R352, R167, R199). -/
def loadLane (w : Warp) (mask : Nat → Word32) (sp : Space) (width : Nat) (addr : Lane → Nat) (put : Lane → Nat → Lane) (s : State) (k : Nat) :
    State × MFate :=
  let l := w.lane k
  match s.check w k sp .load false true (addr l) width mask with
  | .error e => (s, .fate (.trap e))
  | .ok (t, s1) => match (t.fab.map s.side).getD .served with
    | .fails c => (s1.requested w k t 1 (s1.servedBy w.agent t), .fate (.trap (.at c (addr l))))
    | .absent p => (s1.requested w k t 1 (s1.servedBy w.agent t), .fate (.park p (addr l)))
    | .hold p => (s, .hold (.page p (addr l)))
    | .served =>
      let r := s1.readAt w.agent t width true
      if r.1.poison then (s1.requested w k t 1 (s1.servedBy w.agent t), .fate (.trap (.at 0x14 (addr l))))
      else (r.2.sampled w k t 1 (s1.servedBy w.agent t), .fate (.done (put l r.1.val) 0))

/-- A plain store of one lane (R351, R352). -/
def storeLane (w : Warp) (mask : Nat → Word32) (sp : Space) (width : Nat) (addr : Lane → Nat) (get : Lane → Nat) (s : State) (k : Nat) : State × MFate :=
  let l := w.lane k
  match s.check w k sp .store false true (addr l) width mask with
  | .error e => (s, .fate (.trap e))
  | .ok (t, s1) => (((s1.storeAt w.agent l k t (get l)).publishFor w.agent sp).sampled w k t 2 (s1.servedBy w.agent t), .fate (.done l 0))

end Machine

end Sys2Proof
end

