-- ==== Sys2Proof/Machine/Control.lean ====
section
/-!
DEFINITION. Control transfers, ending, waiting and ceding (R297 to R308), the return of parked and trapped lanes (R140, R145, R208), handler return (R404), block headers (R129 to R131)
and compaction (R132 to R135).
-/

namespace Sys2Proof

/-- ENTRY of a header (R130). -/
def Header.entry (h : Header) : Bool := h.flags.getLsbD 0
/-- COMPACT of a header (R130). -/
def Header.compact (h : Header) : Bool := h.flags.getLsbD 1
/-- YIELD of a header (R130). -/
def Header.yields (h : Header) : Bool := h.flags.getLsbD 2
/-- MATRIX of a header (R130). -/
def Header.matrix (h : Header) : Bool := h.flags.getLsbD 3

namespace Machine

/-! Transfers (R297) -/

/-- The cause of a target, if it may not be transferred to (R297): the word there is read through the context's ranges, and a target that fetch cannot read does not trap here. -/
def State.targetCause (s : State) (la : Launch) (t : Nat) : Nat :=
  if bits t 56 8 ≠ 0 then 0x10
  else if t % 8 ≠ 0 then 0x03
  else match s.fetch la t with
    | .word x => if bits x.toNat 56 8 ≠ 0xFF then 0x03 else 0
    | .fault _ => 0
    | .wait _ => 0

/-- The absent page that some target lies on, and that target (R297, R163). -/
def State.targetWait (s : State) (la : Launch) (ts : List (Nat × Nat)) : Option (Nat × Nat) :=
  ts.findSome? fun p => if bits p.2 56 8 ≠ 0 || p.2 % 8 ≠ 0 then none else match s.fetch la p.2 with
    | .wait pg => some (pg, p.2)
    | .word _ => none
    | .fault _ => none

/-- The walk that the check of a target makes, where the page does not serve it; where it does, the block's own fetch walks (R163, R164, log entry 76: DEDUCED). -/
def State.touchTarget (s : State) (la : Launch) (t : Nat) : State :=
  if bits t 56 8 ≠ 0 || t % 8 ≠ 0 then s else match s.fetch la t with
    | .word _ => s
    | .wait _ => s.touchCode la t
    | .fault _ => s.touchCode la t

/-- A transfer of some front lanes to their targets (R297): it waits for an absent page; with a cause found every front lane traps with the lowest; else the lanes move, the other front lanes advance, but for
those that end in the same issue, and f writes the registers. -/
def transferBut (s : State) (w : Warp) (gone : List Nat) (ts : List (Nat × Nat)) (f : Warp → Warp) : State :=
  match s.launchOf w.agent with
  | none => s
  | some la =>
    let s := ts.foldl (fun (s : State) p => s.touchTarget la p.2) s
    match s.targetWait la ts with
    | some p => s.setWarp (w.waiting s.now (.page p.1 p.2))
    | none =>
      let cs := (ts.map fun p => s.targetCause la p.2).filter (· ≠ 0)
      match cs.min? with
      | some 0x10 => s.trapLanes w (w.front.map fun k => (k, .at 0x10 (((ts.find? fun p => p.1 == k).map Prod.snd).getD 0)))
      | some c => s.trapFront w (.of c)
      | none =>
        let rest := w.front.filter fun k => !(ts.any fun p => p.1 == k) && !gone.contains k
        s.setWarp (ts.foldl (fun (v : Warp) p => v.setLane p.1 ((v.lane p.1).goto (BitVec.ofNat 56 p.2))) ((f w).advance rest)).unwait

/-- A transfer of some front lanes; the others go on (R297). -/
def transfer (s : State) (w : Warp) (ts : List (Nat × Nat)) (f : Warp → Warp) : State := transferBut s w [] ts f

/-- The target of a relative branch (R299). -/
def relTarget (pc : Pc) (off : BitVec 20) : Nat := wrap 64 ((pc.toNat : Int) + 8 * signed 20 off.toNat)

/-- `nop` (R298). -/
def execNop (g : Guard) (s : State) : Out := word (.nop g) s fun w => groupwise s w g id

/-- `bra` (R299): the passing lanes transfer to the label. -/
def execBra (g : Guard) (off : BitVec 20) (s : State) : Out :=
  word (.bra g off) s fun w => transfer s w ((w.passing g).map fun k => (k, relTarget w.frontPc off)) id

/-- `brx` (R300): each passing lane transfers to its own target. -/
def execBrx (g : Guard) (a : Reg) (s : State) : Out :=
  word (.brx g a) s fun w => transfer s w ((w.passing g).map fun k => (k, rdReg w (w.lane k) true a)) id

/-- `call` (R301): s62 takes the return address when the transfer takes place. -/
def execCall (g : Guard) (off : BitVec 20) (s : State) : Out :=
  word (.call g off) s fun w =>
    transfer s w ((w.passing g).map fun k => (k, relTarget w.frontPc off))
      fun v => if (w.passing g).isEmpty then v else v.sset 62 (BitVec.ofNat 64 (w.frontPc.toNat + 8))

/-- `callx` (R301): D takes the return address in every lane that transfers, or once. -/
def execCallx (g : Guard) (d a : Reg) (s : State) : Out :=
  word (.callx g d a) s fun w =>
    transfer s w ((w.passing g).map fun k => (k, rdReg w (w.lane k) true a))
      fun v => match d with
        | .v n => v.mapLanes (w.passing g) fun _ l => l.dset n.toNat (w.frontPc.toNat + 8)
        | .s n => if (w.passing g).isEmpty then v else v.sset n.toNat (BitVec.ofNat 64 (w.frontPc.toNat + 8))

/-- `loop` (R303): the counter goes down by one and the passing lanes branch while it is not zero. -/
def execLoop (g : Guard) (a : BitVec 6) (off : BitVec 20) (s : State) : Out :=
  word (.loop g a off) s fun w =>
    if (w.passing g).isEmpty then s.setWarp w.done
    else
      let v := w.sget a.toNat - 1
      transfer s w (if v == 0 then [] else (w.passing g).map fun k => (k, relTarget w.frontPc off)) fun w => w.sset a.toNat v

/-! Barriers complete (R366, R177): also when a group exits -/

/-- The trays of a barrier: the tray, or every tray of its patch that this package holds (R366). -/
def State.barTrays (s : State) (l t : Nat) (patch : Bool) : List Tray :=
  if patch then
    match s.launch? l with
    | none => []
    | some la => s.trays.filter fun x => x.launch == l && la.f.patchOf x.idx == la.f.patchOf t
  else (s.tray? l t).toList

/-- The arrivals at a barrier kind of some trays: each with its tray. -/
def arrivalsOf (ts : List Tray) (patch : Bool) : List (Tray × BarArr) :=
  ts.foldl (fun (l : List (Tray × BarArr)) t => l ++ ((t.arrivals.filter fun a => a.patch == patch).map fun a => (t, a))) []

/-- Whether every participant with a lane left has arrived and every arrival's release has drained (R366, R177); a flushed tray that waits for its replacement has yet to arrive (R118), and so has an evicted group that has not arrived (R115; log entry 92: DEDUCED). -/
def State.barReady (s : State) (ts : List Tray) (patch : Bool) : Bool :=
  !(arrivalsOf ts patch).isEmpty &&
  (ts.all fun t => !(((s.launch? t.launch).map fun l => l.replace.contains t.idx).getD false)) &&
  (ts.all fun t => t.warps.all fun w => w.gone || t.arrivals.any fun a => a.patch == patch && a.group == w.agent.groupNo) &&
  ((arrivalsOf ts patch).all fun p => decide (p.2.num ≤ (s.ord (.group p.1.launch p.1.idx p.2.group)).nrel))

/-- Every group and handler group, in order. -/
def State.allWarps (s : State) : List Warp :=
  s.trays.foldl (fun l t => l ++ t.warps) [] ++ s.handlers.map Handler.warp

/-- What a waiting group receives: at once, or, while it stands still, when it goes on (R363, R366). -/
def State.deliver (s : State) (a : Agent) (x : Late) : State :=
  match s.warp? a with
  | none => s
  | some w =>
    if s.stands w then s.setWarp { w with late := some x }
    else
      let w1 := { w with late := none }
      match x with
      | .result d v => s.setWarp (w1.sset d.toNat (BitVec.ofNat 64 v)).done
      | .trap t => (s.setWarp w1).trapFront w1 t
      | .barrier sc rels => (s.setWarp w1.done).acquire a sc rels

/-- What groups that go on again have still to receive. -/
def State.deliverLate (s : State) : State :=
  s.allWarps.foldl (fun (s : State) w => match w.late with
    | some x => if s.stands w then s else s.deliver w.agent x
    | none => s) s

/-- A barrier's groups go on: each acquires from every arrival's release, one that stands still when it goes on, and the arrivals are over (R366, R177). -/
def State.barDone (s : State) (ts : List Tray) (patch : Bool) : State :=
  let ar := arrivalsOf ts patch
  let rels := ar.map fun p => (⟨.group p.1.launch p.1.idx p.2.group, p.2.num⟩ : RelId)
  let s1 := ar.foldl (fun (s : State) p =>
    let a : Agent := .group p.1.launch p.1.idx p.2.group
    match (s.warp? a).bind Warp.wait with
    | some (.bar _ _) => s.deliver a (.barrier p.2.scope rels)
    | _ => s.acquire a p.2.scope rels) s
  ts.foldl (fun (s : State) t => s.modTray t.launch t.idx fun x => { x with arrivals := x.arrivals.filter fun a => !(a.patch == patch) }) s1

/-- The other packages that hold trays of a patch of a launch (R366). -/
def State.patchPkgs (s : State) (la : Launch) (p : Nat) : List Nat :=
  let xs := ((la.f.cells la.ox la.oy).zipIdx.filter fun q => la.f.patchOf q.2 == p).filterMap fun q => s.pkgAt q.1.1 q.1.2
  (List.range 64).filter fun k => k != s.pkg && xs.contains k

/-- The barriers of a patch that have completed. -/
def Launch.barNo (la : Launch) (p : Nat) : Nat := (alGet la.barNos p).getD 0

/-- The part that this package's trays have in a patch barrier told to the patch's other packages, once for each barrier: they have arrived, or exited for good (R366). -/
def State.tellBar (s : State) (la : Launch) (p : Nat) (gone : Bool) : State :=
  if la.toldBars.contains p then s
  else ((s.patchPkgs la p).foldl (fun (s : State) q => s.sendTo q 1 [.barrier s.pkg la.ctx la.chain la.seq p (la.barNo p) gone]) s).modLaunch la.id fun x => { x with toldBars := x.toldBars ++ [p] }

/-- Whether every other package of a patch has told that its part has arrived (R366). -/
def State.farArrived (s : State) (la : Launch) (p : Nat) : Bool := (s.patchPkgs la p).all fun q => la.farBars.any fun x => x.1 == q && x.2.1 == p && (x.2.2.1 == la.barNo p || x.2.2.2)

/-- A patch barrier that has completed is told anew, with the next number, the next time; packages whose part has exited stay so (R366). -/
def Launch.barOver (la : Launch) (p : Nat) : Launch :=
  { la with toldBars := la.toldBars.filter (· != p), farBars := la.farBars.filter fun x => x.2.1 != p || x.2.2.1 != la.barNo p || x.2.2.2, barNos := alSet la.barNos p (la.barNo p + 1) }

/-- A barrier that is ready on this package completes (R366), a patch barrier over several packages once all of them are: each waiting group acquires at its own scope from every arrival's release, and its front
advances. -/
def State.barSettle (s : State) (l t : Nat) (patch : Bool) : State :=
  let ts := s.barTrays l t patch
  match if patch then (s.launch? l).filter fun la => !(s.patchPkgs la (la.f.patchOf t)).isEmpty else none with
  | none => if s.barReady ts patch then s.barDone ts patch else s
  | some la =>
    let p := la.f.patchOf t
    if s.barReady ts true then
      let s1 := s.tellBar la p false
      if s1.farArrived la p then (s1.barDone ts true).modLaunch l fun x => x.barOver p else s1
    else if !ts.isEmpty && ts.all fun t => t.warps.all Warp.gone && !la.replace.contains t.idx then s.tellBar la p true
    else s

/-- The mark of a tray withdrawn: a group of it exited first (R112). -/
def State.unmark (s : State) (l t : Nat) : State :=
  s.modLaunch l fun la => { la with pipe := la.pipe.map fun p => { p with marked := if (p.marked.map Prod.fst) = some t then none else p.marked } }

/-- Whether a group is at the rendezvous latch (R139). -/
def Warp.latched (w : Warp) : Bool :=
  match w.wait with
  | some (.latch _) => true
  | _ => false

/-- The groups a gang value names. -/
def gangOf (g : Word32) : List Nat := (List.range 32).filter fun k => g.getLsbD k

/-- Some groups trap at the latch (R139). -/
def State.trapGang (s : State) (as : List Agent) : State :=
  as.foldl (fun (s : State) a => match s.warp? a with
    | some w => s.trapFront w (.of 0x4A)
    | none => s) s

/-- A group of a tray has exited: if one that waits at the latch names it, every group there traps (R139). -/
def State.latchExit (s : State) (l t g : Nat) : State :=
  let here := ((s.tray? l t).map Tray.warps).getD [] |>.filter Warp.latched
  if here.any fun v => (gangOf v.gang).contains g then s.trapGang (here.map Warp.agent) else s

/-- What an exit settles: a mark is withdrawn when a group of the tray has exited (R112), a gang that waits for it traps (R139), and the tray and patch barriers may complete without it (R366). -/
def State.barExit (s : State) (a : Agent) : State :=
  match a with
  | .group l t g =>
    let s1 := if ((s.warp? a).map Warp.gone).getD false then (s.unmark l t).latchExit l t g else s
    (s1.barSettle l t false).barSettle l t true
  | .handler _ _ => s
  | .engine _ _ _ => s
  | .port _ => s

/-! Lanes come back (R140, R145, R208) -/

/-- The lanes of a group that are on their way back with one kind of return. -/
def Warp.backs (w : Warp) (rte : Bool) : List Nat :=
  (List.range w.lanes.length).filter fun k => match (w.lane k).back with
    | some .unpark => !rte
    | some .resume => rte
    | some .skip => rte
    | none => false

/-- The header word at an address of a launch's code, if one stands there. -/
def State.headerAt (s : State) (l : Launch) (pc : Pc) : Option Header :=
  match s.fetch l pc.toNat with
  | .word x => (match decode x with
    | .ok (.blockHeader h) => some h
    | _ => none)
  | .fault _ => none
  | .wait _ => none

/-- The framing of a lane inside the block of a header at an address (R129). -/
def blockFrame (h : Header) (pc : Pc) : Frame := .body pc h.count.toNat h.matrix

/-- A lane returned to its group (R140, R145): one that skips a header stands in that header's block (R129). -/
def State.returnLane (s : State) (a : Agent) (l : Lane) : Lane :=
  let b := l.back.getD .unpark
  let r := l.returned b
  match b, l.frame, (s.launchOf a).bind fun la => s.headerAt la l.pc with
  | .skip, .header, some h => { r with frame := blockFrame h l.pc }
  | .skip, .entry, some h => { r with frame := blockFrame h l.pc }
  | _, _, _ => r

/-- Lanes on their way back become Ready (R208): a resident group's, by one READY record in record mode, and in replay when the READY record at CONS names them at the group's issue count; a record
whose count the group has passed, or that names a lane neither Parked nor Trapped, diverges. -/
def State.comeBack (s : State) (a : Agent) (rte : Bool) : State :=
  match s.warp? a with
  | none => s
  | some w =>
    let ks := w.backs rte
    let who := s.who a
    let ready := fun (s : State) (ks : List Nat) => s.modWarp a fun v => v.mapLanes ks fun _ l => s.returnLane a l
    if w.evicted then s
    else match s.gate who 0x18 0 with
      | .free => ready s ks
      | .record => if ks.isEmpty then s else match s.logEvent who 0x18 0 w.issues ((maskOf ks).toNat + rte.toNat * 2 ^ 32) with
        | .ok s1 => ready s1 ks
        | .error _ => s
      | .replay ra rb =>
        let named := (List.range 32).filter fun k => bit rb k
        let lost := named.any fun k => (w.lane k).st != .parked && (w.lane k).st != .trapped
        if bit rb 32 != rte then s
        else if ra < w.issues || (ra == w.issues && !w.retries && lost) then s.divergeFront w 0x18
        else if ra == w.issues && named.all ks.contains then ready (s.logTake who.ctx) named
        else s
      | .wait => if ks.isEmpty then s else s.stalled who 0x18 0
      | .reserved => if ks.isEmpty then s else s.divergeFront w 0x18

/-- Lanes of both kinds. -/
def State.comeBacks (s : State) (a : Agent) : State := (s.comeBack a false).comeBack a true

/-! Handler return (R145, R404) and exit (R304) -/

/-- One handler lane ends by rte (R404): its release at tray scope joins its origin's tray, the origin group is ordered after it, and the origin lane is returned. -/
def State.rteOne (s : State) (launch : Nat) (a : Agent) (r : Rte) (k : Nat) : State :=
  match s.warp? a with
  | none => s
  | some w => match (w.lane k).origin with
    | none => s
    | some o =>
      let x := s.performRelease a [.tray launch o.tray]
      let s1 := x.2.closeRegion a (x.2.ord a).region
      let og : Agent := .group launch o.tray o.group
      let oo := s1.ord og
      let s2 := s1.setOrd og { oo with view := union oo.view ((s1.rel? x.1).map (fun y => y.id :: y.view) |>.getD []) }
      (s2.modWarp a fun v => v.setLane k (v.lane k).killed).rteLane launch o r

/-- A handler group whose lanes have all ended frees its slot (R145). -/
def State.endHandler (s : State) (launch n : Nat) : State :=
  match s.handler? launch n with
  | some h => if h.warp.gone then { s with handlers := s.handlers.filter fun x => !(x.launch == launch && x.n == n) } else s
  | none => s

/-- The origin groups of some handler lanes. -/
def originsOf (la : Nat) (w : Warp) (ks : List Nat) : List Agent :=
  ks.foldl (fun (l : List Agent) k => match (w.lane k).origin with
    | some o => union l [.group la o.tray o.group]
    | none => l) []

/-- Some handler lanes end by rte, one after another, once the older entries of the outbox have drained; f is what the other lanes of the front do first (R404). -/
def rteLanes (s : State) (w : Warp) (la n : Nat) (ks : List Nat) (r : Rte) (f : State → State) : State :=
  releasing s w fun s =>
    if !(s.ord w.agent).outbox.isEmpty then s.setWarp (w.waiting s.now .drain)
    else
      let s1 := ks.foldl (fun (s : State) k => s.rteOne la w.agent r k) (f s)
      ((originsOf la w ks).foldl (fun (s : State) a => (s.comeBack a true).barExit a) s1).endHandler la n

/-- rte of the passing lanes of a handler group (R404); outside one the front traps. -/
def rteGroup (s : State) (w : Warp) (g : Guard) (r : Rte) : State :=
  match w.agent with
  | .handler la n =>
    if (w.passing g).isEmpty then s.setWarp w.done
    else rteLanes s w la n (w.passing g) r fun s => s.setWarp (w.advance (w.front.filter fun k => !(w.lane k).passes g)).unwait
  | .group _ _ _ => s.trapFront w (.of 0x02)
  | .engine _ _ _ => s
  | .port _ => s

/-- `rte.resume` (R404). -/
def execRteResume (g : Guard) (s : State) : Out := word (.rteResume g) s fun w => rteGroup s w g .resume
/-- `rte.skip` (R404). -/
def execRteSkip (g : Guard) (s : State) : Out := word (.rteSkip g) s fun w => rteGroup s w g .skip
/-- `rte.kill` (R404). -/
def execRteKill (g : Guard) (s : State) : Out := word (.rteKill g) s fun w => rteGroup s w g .kill

/-- Whether some lane other than the given ones is Ready, Parked or Trapped (R304). -/
def Warp.staysWithout (w : Warp) (ks : List Nat) : Bool :=
  (List.range w.lanes.length).any fun k => !ks.contains k && ((w.lane k).st == .ready || (w.lane k).st == .parked || (w.lane k).st == .trapped)

/-- The deferred store record that an exit of some lanes would lose (R304). -/
def Warp.lost (w : Warp) (ks : List Nat) : Option DeferredRec := if !ks.isEmpty && !w.staysWithout ks then w.dsr else none

/-- `exit` (R304): the passing lanes end, or every front lane traps at a deferred store record that would be lost; in a handler group it is rte with kill. -/
def execExit (g : Guard) (s : State) : Out :=
  word (.exit g) s fun w =>
    if w.agent.isHandler then rteGroup s w g .kill
    else match w.lost (w.passing g) with
      | some d => s.trapFront { w with dsr := none } d.trap
      | none =>
        let rest := w.front.filter fun k => !(w.lane k).passes g
        (s.setWarp ((w.advance rest).mapLanes (w.passing g) fun _ l => l.killed).unwait).barExit w.agent

/-- `ret` (R302): a lane whose target is zero ends as by exit, the others transfer; a trap of either part is the whole instruction's. -/
def execRet (g : Guard) (a : Reg) (s : State) : Out :=
  word (.ret g a) s fun w =>
    let ts := (w.passing g).map fun k => (k, rdReg w (w.lane k) true a)
    let ends := (ts.filter fun p => p.2 == 0).map Prod.fst
    let goes := ts.filter fun p => p.2 != 0
    match s.launchOf w.agent with
    | none => s
    | some la =>
      if ends.isEmpty || (s.targetWait la goes).isSome || goes.any (fun p => s.targetCause la p.2 != 0) then transfer s w goes id
      else match w.agent with
        | .handler li n => rteLanes s w li n ends .kill fun s => transferBut s w ends goes id
        | _ => match w.lost ends with
          | some d => s.trapFront { w with dsr := none } d.trap
          | none => (transferBut s w ends goes fun v => v.mapLanes ends fun _ l => l.killed).barExit w.agent

/-- `rbar` (R141, R305): the passing lanes wait until no lane of the group is Parked or Trapped. -/
def execRbar (g : Guard) (s : State) : Out :=
  word (.rbar g) s fun w =>
    if !w.held? then s.setWarp w.done
    else
      let v := w.advance (w.front.filter fun k => !(w.lane k).passes g)
      if (w.passing g).isEmpty then s.setWarp v.unwait
      else s.setWarp { v with wait := some .rbar, waitF := maskOf (w.passing g), waitAt := if w.wait.isSome then w.waitAt else s.now }

/-- The slice set (R136): the Ready lanes at the smallest PC above the issue address. -/
def Warp.sliceSet (w : Warp) : Option Word32 :=
  match w.minPc w.ready with
  | none => none
  | some p =>
    let up := w.ready.filter fun k => decide (p < (w.lane k).pc)
    match w.minPc up with
    | none => none
    | some q => some (maskOf (up.filter fun k => (w.lane k).pc == q))

/-- The group takes a slice, and the fairness timer is reset (R136, R137). -/
def Warp.takeSlice (w : Warp) : Warp :=
  match w.sliceSet with
  | some m => { w with slice := some m, sliced := false, fairT := 0 }
  | none => { w with fairT := 0 }

/-- `yield` (R306): every front lane advances; if one passed, the group takes a slice (R137), which replaces one in force (log entry 10: DEDUCED). -/
def execYield (g : Guard) (s : State) : Out :=
  word (.yield g) s fun w =>
    let v := w.done
    s.setWarp (if (w.passing g).isEmpty then v else v.takeSlice)

/-- `sleepuntil` (R307): the group waits until the time base reaches the instant. -/
def execSleepuntil (g : Guard) (a : BitVec 6) (s : State) : Out :=
  word (.sleepuntil g a) s fun w =>
    let t := w.sget a.toNat
    if (w.passing g).isEmpty || decide (t ≤ s.now) then s.setWarp w.done else s.setWarp (w.waiting s.now (.sleep t))

/-- `trap` (R308): the passing lanes trap with cause 0x52, the others advance. -/
def execTrap (g : Guard) (code : BitVec 8) (s : State) : Out :=
  word (.trap g code) s fun w => lanewise s w g fun _ _ => .trap (.of 0x52)

/-! Block headers (R129, R130) and compaction (R131 to R135) -/

/-- A group past a header: its front at the first instruction of the body. -/
def Warp.enter (w : Warp) (h : Header) : Warp :=
  (w.mapLanes w.front fun _ l => { l with pc := l.pc + 8, frame := blockFrame h l.pc, exempt := false }).unwait

/-- The groups of a tray that have a lane neither Exited nor Vacant. -/
def Tray.liveGroups (t : Tray) : List Nat := (t.warps.filter fun w => !w.gone).map fun w => w.agent.groupNo

/-- The non-exited lanes of a list of groups, by ascending group and virtual lane (R133). -/
def packLanes (ws : List Warp) : List Lane := ws.foldl (fun l w => l ++ w.lanes.filter fun x => x.st != .exited && x.st != .vacant) []

/-- A lane as a regrouping carries it (R133): v0 to v(LIVE - 1), the predicates, the PC, the identity. -/
def Lane.carried (l : Lane) (live : Nat) : Lane :=
  { l with v := l.v.zipIdx.map fun p => if p.2 < live then p.1 else 0, exempt := false }

/-- A fresh group of a regrouping (R133): listed lanes, Vacant lanes behind, and the group state of the lowest waiting group. -/
def freshGroup (base : Warp) (fstat : Word32) (a : Agent) (live : Nat) (ls : List Lane) : Warp :=
  { base with
    agent := a
    lanes := (ls.map fun l => l.carried live) ++ List.replicate (32 - ls.length) { Lane.vacant with v := List.replicate base.nregs 0 }
    fstat := fstat
    gang := 0
    wait := none
    waitF := 0
    issues := 0
    held := 0
    waited := 0
    fairT := 0
    slice := none
    sliced := false
    pend := []
    pendS := []
    attns := [] }

/-- Whether a window's groups regroup: fewer fresh groups than waiting ones (R132). -/
def regroups (ws : List Warp) : Bool := decide (((packLanes ws).length + 31) / 32 < ws.length)

/-- The ords of the fresh groups (R133, R135, R177): the union of the waiting groups' views, the largest release count, a new region; every waiting group's region closed. -/
def State.joinOrds (s : State) (as : List Agent) : State :=
  let os := as.map s.ord
  let view := os.foldl (fun v o => union v o.view) []
  let nrel := os.foldl (fun n o => Nat.max n o.nrel) 0
  let region := os.foldl (fun n o => Nat.max n o.region) 0
  let seen := os.foldl (fun (m : List (Loc × Nat)) o => o.seen.foldl (fun m p => alSet m p.1 (Nat.max p.2 ((alGet m p.1).getD 0))) m) []
  as.foldl (fun (s : State) a => (s.closeRegion a (s.ord a).region).setOrd a ⟨[], view, seen, [], nrel, region + 1⟩) s

/-- The tiles that waiting groups own are freed, and each adds 1 to its TGEN (R371). -/
def Tray.freeTiles (t : Tray) (gs : List Nat) : Tray :=
  { t with tiles := t.tiles.map fun x => match x.owner with
    | some g => if gs.contains g then { x with owner := none, tgen := x.tgen + 1, held := none, pending := false } else x
    | none => x }

/-- Some waiting groups of a closed window go past its header (R132, R133): they regroup, or continue unchanged. -/
def State.closeWindow (s : State) (t : Tray) (win : Window) (ws : List Warp) (h : Header) : State :=
  if regroups ws then
    let as := ws.map Warp.agent
    let gs := as.map Agent.groupNo
    let s1 := as.foldl (fun (s : State) a => (s.releaseNow a .tray).2) s
    let s2 := s1.joinOrds as
    let moved := ws.map fun w => w.enter h
    let ls := packLanes moved
    let n := (ls.length + 31) / 32
    let fstat := ws.foldl (fun (f : Word32) w => f ||| w.fstat) 0
    match moved with
    | [] => s
    | base :: _ =>
      let fresh := (List.range n).map fun j => freshGroup base fstat (.group t.launch t.idx (gs.getD j 0)) win.live ((ls.drop (32 * j)).take 32)
      let keep := fun (ws : List Warp) => ws.filter fun w => !(gs.drop n).contains w.agent.groupNo
      let place := fun (ws : List Warp) => fresh.foldl (fun (l : List Warp) w => l.map fun y => if y.agent == w.agent then w else y) ws
      s2.modTray t.launch t.idx fun x => ({ x with warps := place (keep x.warps) }).freeTiles gs
  else ws.foldl (fun (s : State) w => s.setWarp (w.enter h)) s

/-- The logged close of a window (R135, R205): the lowest waiting group is the agent; A the header address, B the mask of waiting groups and the outcome. None while the log holds it. -/
def State.windowLog (s : State) (t : Tray) (win : Window) (re : Bool) : Except Trap (Option State) :=
  match win.groups.min? with
  | none => .ok none
  | some g =>
    let who := s.who (.group t.launch t.idx g)
    match s.gate who 0x13 0, s.logEvent who 0x13 0 win.h.toNat ((maskOf win.groups).toNat * 2 ^ 32 + re.toNat) with
    | .wait, _ => .ok none
    | _, .error e => .error e
    | _, .ok s1 => .ok (some s1)

/-- The agent that logs the close of a window (R205). -/
def State.windowWho (s : State) (t : Tray) (win : Window) : Who := s.who (.group t.launch t.idx (win.groups.min?.getD 0))

/-- A closed window's groups resume (R132, R135): where they regroup, once their releases can drain, and a group whose writes have set a deferred store record traps at the header instead (R131, R169); once the
log lets it (log entry 78: DEDUCED). -/
def State.windowRun (s : State) (t : Tray) (win : Window) (h : Header) : State :=
  let ws := t.warps.filter fun w => win.groups.contains w.agent.groupNo
  let re := regroups ws
  if re && ws.any fun w => !(s.ord w.agent).outbox.isEmpty then s
  else match s.windowLog t win re with
    | .error _ => (ws.head?.map fun w => s.divergeFront w 0x13).getD s
    | .ok none => s.stalled (s.windowWho t win) 0x13 0
    | .ok (some s1) =>
      let bad := ws.filter fun w => re && w.dsr.isSome
      let good := ws.filter fun w => !(re && w.dsr.isSome)
      let s2 := s1.modTray t.launch t.idx fun x => { x with windows := x.windows.erase win }
      let s3 := bad.foldl (fun (s : State) w => (w.dsr.map fun d => s.trapFront { w with dsr := none } d.trap).getD s) s2
      s3.closeWindow t win good h

/-- In replay, the groups that the window-close record at CONS names for a header of a tray (R135). -/
def State.loggedSet (s : State) (t : Tray) (h : Pc) : Option (List Nat) :=
  (List.range 32).findSome? fun g => match s.gate (s.who (.group t.launch t.idx g)) 0x13 0 with
    | .replay ra rb => if ra = h.toNat then some ((List.range 32).filter fun k => bit rb (32 + k)) else none
    | _ => none

/-- The groups that an open window closes with, once its moment has come (R132): its span is over, or every live group waits there. In replay, the logged groups, once they all wait, and no
others (R135). -/
def State.closing (s : State) (l : Launch) (t : Tray) (x : Window) : Option (List Nat) :=
  if x.closed then none
  else if l.f.mode = 2 then (s.loggedSet t x.h).filter fun gs => !gs.isEmpty && gs.all x.groups.contains
  else if decide (x.opened + 2 ^ (l.f.cwin + 4) ≤ s.cycle) || t.liveGroups.all x.groups.contains then some x.groups
  else none

/-- An open window closes with some of its groups; the others wait on, as having arrived after the close (R132, R135). -/
def State.shutWindow (s : State) (t : Tray) (x : Window) (gs : List Nat) : State :=
  let late : Window := { x with opened := s.cycle, groups := x.groups.filter fun g => !gs.contains g }
  s.modTray t.launch t.idx fun t => { t with
    windows := (t.windows.erase x) ++ ({ x with groups := gs, closed := true } : Window) :: (if late.groups.isEmpty then [] else [late]) }

/-- In replay, the group waiting in an open window that the record at CONS names for the close of a window at another header (R209, R210). -/
def State.otherWindow (s : State) (t : Tray) (x : Window) : Option Nat :=
  x.groups.find? fun g => match s.gate (s.who (.group t.launch t.idx g)) 0x13 0 with
    | .replay ra _ => ra != x.h.toNat
    | .reserved => true
    | _ => false

/-- The windows of a header looked at: an open one whose moment has come closes, and a closed one's groups resume if they may; a group that the log names for another header diverges. -/
def State.windowStep (s : State) (l : Launch) (i : Nat) (h : Header) (pc : Pc) : State :=
  let s1 := match s.tray? l.id i with
    | none => s
    | some t => match t.windows.find? fun (x : Window) => x.h == pc && !x.closed with
      | none => s
      | some x => match (s.otherWindow t x).bind fun g => s.warp? (.group l.id i g) with
        | some w => s.divergeFront w 0x13
        | none => ((s.closing l t x).map fun gs => s.shutWindow t x gs).getD s
  match s1.tray? l.id i with
  | none => s1
  | some t => match t.windows.find? fun (x : Window) => x.h == pc && x.closed with
    | none => s1
    | some x => s1.windowRun t x h

/-- A group waits at a compaction point (R131, R132): it joins the open window of the header, or opens one; the window closes when every live group waits there. -/
def State.joinWindow (s : State) (w : Warp) (h : Header) (la : Launch) (t : Nat) : State :=
  let pc := w.frontPc
  let s1 := (s.setWarp (w.waiting s.now (.window pc))).modTray la.id t fun x =>
    match x.windows.find? fun y => y.h == pc && !y.closed with
    | some win => { x with windows := x.windows.map fun y => if y == win then { win with groups := union win.groups [w.agent.groupNo] } else y }
    | none => { x with windows := x.windows ++ [⟨pc, s.cycle, h.live.toNat, [w.agent.groupNo], false⟩] }
  s1.windowStep la t h pc

/-- Whether an eviction finds a group waiting in an instruction whose place in a queue, or whose effect, does not stand: it issues again (R369, R412). -/
def Wait.lost : Wait → Bool
  | .qpush => true
  | .qpop => true
  | .bpctl => true
  | _ => false

/-- A group is evicted at an instruction boundary (R114), its tray's lane-private lines written to the pool (R152); one that waits in a compaction window leaves it, and processes the header again when it
returns (R132). -/
def State.evictGroup (s : State) (a : Agent) : State :=
  match s.warp? a with
  | none => s
  | some w =>
    let inWindow := match w.wait with
      | some (.window _) => true
      | _ => false
    let s1 := (s.lpWriteBack (a.launchId.getD 0) a.trayNo).setWarp { (if inWindow then w.unwait else if w.wait.any Wait.lost then { w with wait := some .again } else w) with evicted := true }
    match a with
    | .group l t g => if inWindow then s1.modTray l t fun x =>
        { x with windows := (x.windows.map fun y => { y with groups := y.groups.filter fun k => k != g }).filter fun y => !y.groups.isEmpty } else s1
    | _ => s1

/-- Whether every lane that is neither Exited nor Vacant is in the front. -/
def Warp.wholeFront (w : Warp) : Bool :=
  (List.range w.lanes.length).all fun k => (w.lane k).st == .exited || (w.lane k).st == .vacant || w.front.contains k

/-! Stage moves of a pipeline (R111, R112) -/

/-- The stage that the tray of a group is to move to: its mark; in replay that of the tray's next MOVE record, once no earlier record of the ring is the group's own (R112, R209, log entry 79:
DEDUCED). -/
def State.moveTo (s : State) (la : Launch) (t g : Nat) : Option Nat :=
  match la.pipe with
  | none => none
  | some p =>
    if la.f.mode = 2 then
      let tray := (s.who (.group la.id t 0)).tag
      let mine := (s.who (.group la.id t g)).tag
      (s.logRecs la.ctx).findSome? (fun r =>
        if bits r.1 56 8 = 0x15 && bits r.1 0 56 = tray then some (some r.2.2) else if bits r.1 5 51 * 32 = mine then some none else none) |>.join
    else p.marked.bind fun m => if m.1 = t then some m.2 else none

/-- A move takes effect when every group of the tray waits at a move point and has drained its outbox (R112): a tray barrier, then every group restarts in the new stage. A group that holds a deferred store
record traps at its move point instead (R169). -/
def State.moveSettle (s : State) (l t : Nat) : State :=
  match s.launch? l, s.tray? l t with
  | some la, some tr => match s.moveTo la t 0, la.pipe with
    | some r, some p =>
      if tr.warps.all fun w => w.wait == some .move && !w.evicted && !w.halted && (s.ord w.agent).outbox.isEmpty then
        if tr.warps.any fun w => w.dsr.isSome then
          tr.warps.foldl (fun (s : State) w => (w.dsr.map fun d => s.trapFront { w with dsr := none } d.trap).getD s) s
        else match s.gate (s.who (.group l t 0)) 0x15 0 with
        | .wait => s.stalled (s.who (.group l t 0)) 0x15 0
        | _ => match s.logEvent (s.who (.group l t 0)) 0x15 0 tr.stage r with
        | .error _ => (tr.warps.head?.map fun w => s.divergeFront w 0x15).getD s
        | .ok s1 =>
          let as := tr.warps.map Warp.agent
          let s2 := as.foldl (fun (s : State) a => (s.releaseNow a .tray).2) s1
          let view := as.foldl (fun v a => union v (s2.ord a).view) []
          let s3 := as.foldl (fun (s : State) a =>
            let o := s.ord a
            (s.closeRegion a o.region).setOrd a { o with view := view, reads := [], region := o.region + 1 }) s2
          let pc := ((p.stages[r]?).map Stage.sentry).getD 0
          let restart := fun (w : Warp) => Warp.atEntry l t w.agent.groupNo w.nregs pc la.f.param r
          (s3.modTray l t fun x => { x with stage := r, warps := x.warps.map restart }).unmark l t
      else s
    | _, _ => s
  | _, _ => s

/-- The vector registers of the tray that a group or a handler group belongs to (R130, R281). -/
def State.trayRegs (s : State) (w : Warp) : Nat := ((s.launchOf w.agent).map fun l => l.f.nregs).getD w.nregs

/-- A block header processed (R129 to R131): the checks of R130, the entry flag, compaction, then the body. -/
def execBlockHeader (h : Header) (s : State) : Out :=
  word (.blockHeader h) s fun w =>
    if h.count == 0 || decide (s.trayRegs w < h.live.toNat) || h.flags &&& 0xF0 != 0 then s.trapFront w (.of 0x02)
    else if w.front.any (fun k => (w.lane k).frame == .entry) && !h.entry then s.trapFront w (.of 0x03)
    else match w.agent with
      | .group l t g => (match s.launch? l with
        | none => s
        | some la =>
          let move := h.yields && ((s.tray? l t).map fun x => x.stage == 0).getD false && (s.moveTo la t g).isSome
          if move then (s.setWarp (w.waiting s.now .move)).moveSettle l t
          else if h.compact && la.f.compact && w.wholeFront && w.gang == 0 then
            match w.dsr with
            | some d => s.trapFront { w with dsr := none } d.trap
            | none => s.joinWindow w h la t
          else s.setWarp (w.enter h))
      | .handler _ _ => s.setWarp (w.enter h)
      | .engine _ _ _ => s
      | .port _ => s

end Machine

end Sys2Proof
end

