-- ==== Sys2Proof/Machine/Sync.lean ====
section
/-!
DEFINITION. Synchronisation (R154 to R156, R364 to R368): sync words, barriers, queues between pipeline stages, and waits on a completion word.
-/

namespace Sys2Proof.Machine

/-! Sync words (R154 to R156) -/

/-- The fields of a sync word (R154): TARGET, COUNT, GEN, and the last word with OVF at bit 0. -/
structure SyncWord where
  target : Nat
  count  : Nat
  gen    : Nat
  top    : Nat
deriving DecidableEq, Repr

/-- An arrival of n bytes (R155); one of no bytes changes no field (R364). -/
def SyncWord.arrive (x : SyncWord) (n : Nat) : SyncWord :=
  let sat := decide (0xFFFFFFFF < x.count + n)
  let c := if sat then 0xFFFFFFFF else x.count + n
  let top := if sat then setBits x.top 0 1 1 else x.top
  if n = 0 then x
  else if x.target = 0 then { x with count := c, top := top }
  else { x with count := c % x.target, gen := (x.gen + c / x.target) % 2 ^ 32, top := top }

/-- The sync word at a scratchpad offset, newest versions. -/
def State.syncWord (s : State) (l t off : Nat) : SyncWord :=
  let v := fun j => (s.newest (.sp l t (off / 4 + j))).val.toNat
  ⟨v 0, v 1, v 2, v 3⟩

/-- A group's synchronising read of a sync word (R156, R174): its GEN. -/
def State.readGen (s : State) (a : Agent) (l t off : Nat) : Nat × State :=
  let r := s.readLocs a 15 false false false (spWords l t off 16)
  (bits r.1.val 64 32, r.2)

/-- Whether some word of a run of scratchpad bytes is poisoned (R199). -/
def State.spPoison (s : State) (l t off n : Nat) : Bool := (List.range ((off % 4 + n + 3) / 4)).any fun j => (s.newest (.sp l t (off / 4 + j))).poison

/-- An arrival at a sync word, published by a release: it writes all 16 bytes (R155, R156). -/
def State.arrival (s : State) (l t off n : Nat) (pub : Pub) : State :=
  match s.tray? l t with
  | none => s
  | some _ =>
    let x := (s.syncWord l t off).arrive n
    [(0, x.target), (1, x.count), (2, x.gen), (3, x.top)].foldl (fun (s : State) p =>
      s.newVersion (.sp l t (off / 4 + p.1)) 15 (BitVec.ofNat 64 p.2) none pub) s

/-- The releases of the arrivals counted into any generation up to the one observed (R156): the versions of GEN up to the one that first held it. -/
def State.arrivalRels (s : State) (l t off gen : Nat) : List RelId :=
  let vs := s.versOf (.sp l t (off / 4 + 2))
  let late := (vs.reverse.takeWhile fun v => v.val.toNat == gen).length
  (vs.take (vs.length - late + 1)).foldl (fun (r : List RelId) v => if v.writer == none then union r v.pub.rels else r) []

/-- One lane of arrive: a release together with the arrival joins the outbox (R364). -/
def arriveLane (w : Warp) (mask : Nat → Word32) (sc : Scope) (addr : Lane → Nat) (d : BitVec 8) (s : State) (k : Nat) : State × MFate :=
  let l := w.lane k
  match s.check w k .sp .store false false (addr l) 16 mask with
  | .error e => (s, .fate (.trap e))
  | .ok (_, s1) => match s1.laneTray w l with
    | some t => (s1.push w.agent (.arrive sc t.idx (addr l) (l.vget d.toNat).toNat) true, .fate (.done l 0))
    | none => (s1, .fate (.done l 0))

/-- `arrive` (R364). -/
def execArrive (g : Guard) (sc : Scope) (d : BitVec 8) (m : MemOpd) (s : State) : Out :=
  word (.arrive g sc d m) s fun w =>
    let addr := fun l => ea w l .sp m 16
    releasingIf s w g fun s => memDo s w g [] (arriveLane w (s.boundMask w g .sp 16 addr) sc addr d)

/-- A lane of swait that passed its checks: the lane, its tray, its offset. -/
structure SWait where
  lane : Nat
  tray : Nat
  off  : Nat
deriving DecidableEq, Repr

/-- The checks of the lanes of swait (R351, R365), poison among them (R199): the lanes that trap, and the lanes that wait. -/
def swaitCheck (w : Warp) (mask : Nat → Word32) (addr : Lane → Nat) : List Nat → State → State × List (Nat × Trap) × List SWait
  | [], s => (s, [], [])
  | k :: ks, s =>
    match s.check w k .sp .load false false (addr (w.lane k)) 16 mask with
    | .error e => let r := swaitCheck w mask addr ks s; (r.1, (k, e) :: r.2.1, r.2.2)
    | .ok (_, s1) =>
      let r := swaitCheck w mask addr ks s1
      let x : SWait := ⟨k, ((s1.laneTray w (w.lane k)).map Tray.idx).getD 0, addr (w.lane k)⟩
      if s1.spPoison (w.agent.launchId.getD 0) x.tray x.off 16 then (r.1, (k, .at 0x14 x.off) :: r.2.1, r.2.2) else (r.1, r.2.1, x :: r.2.2)

/-- How a lane of swait stands: it waits, it may go, or replay has diverged (R365, R156). -/
inductive SwaitOut where
  | wait | go | diverge
deriving DecidableEq, Repr

/-- One lane of swait looked at: GEN differs from the expected one; in replay GEN equals the logged one, and one already past it diverges. -/
def State.swaitLook (s : State) (w : Warp) (la : Launch) (d : BitVec 8) (x : SWait) : SwaitOut :=
  let gen := (s.readGen w.agent la.id x.tray x.off).1
  if la.f.mode = 2 && !la.f.racy then
    match s.gate (s.who w.agent) 3 x.lane with
    | .replay _ rb => if gen = rb then .go else if (gen + 2 ^ 32 - rb % 2 ^ 32) % 2 ^ 32 < 2 ^ 31 then .diverge else .wait
    | .reserved => .diverge
    | _ => .wait
  else if gen = ((w.lane x.lane).vget d.toNat).toNat then .wait
  else if la.f.mode = 1 && !la.f.racy && s.gate (s.who w.agent) 3 x.lane == .wait then .wait
  else .go

/-- The lanes of swait complete in ascending order (R365): each reads its word, acquires at tray scope, logs and writes the GEN observed; from the first that must wait on, all wait. -/
def swaitRun (w : Warp) (la : Launch) (d : BitVec 8) : List SWait → State → State × List (Nat × MFate)
  | [], s => (s, [])
  | x :: xs, s =>
    match s.swaitLook w la d x with
    | .wait => (s, (x :: xs).map fun y => (y.lane, .hold .swait))
    | .diverge => let r := swaitRun w la d xs s; (r.1, (x.lane, .fate (.trap (s.divergence la.ctx 3))) :: r.2)
    | .go =>
      let v := s.readGen w.agent la.id x.tray x.off
      let s1 := v.2.acquire w.agent .tray (s.arrivalRels la.id x.tray x.off v.1)
      match if la.f.racy then .ok s1 else s1.logEvent (s.who w.agent) 3 x.lane x.off v.1 with
      | .error e => (s, [(x.lane, .fate (.trap e))])
      | .ok s2 => let r := swaitRun w la d xs s2; (r.1, (x.lane, .fate (.done ((w.lane x.lane).vset d.toNat (BitVec.ofNat 32 v.1)) 0)) :: r.2)

/-- The lanes of swait together (R365): none completes while one must wait, but in replay, where each completes when its own GEN equals the logged one. What must wait on the log sets STALL (R202). -/
def swaitAll (w : Warp) (la : Launch) (d : BitVec 8) (xs : List SWait) (s : State) : State × List (Nat × MFate) :=
  let all := xs.map fun x => (x.lane, MFate.hold .swait)
  let r := if (s.ord w.agent).hasRelease then (s, all) else swaitRun w la d xs s
  let q := if (holding r.2).isEmpty || (la.f.mode == 2 && !la.f.racy) then r else (s, all)
  ((xs.filter fun x => (holding q.2).any fun h => h.1 == x.lane).foldl (fun (s : State) x =>
    s.stallIf (s.who w.agent) 3 x.lane (!la.f.racy && (s.readGen w.agent la.id x.tray x.off).1 != ((w.lane x.lane).vget d.toNat).toNat)) q.1, q.2)

/-- `swait` (R365): the passing lanes wait until every one's GEN differs from its expected generation; a lane that fails a check traps at once. -/
def execSwait (g : Guard) (d : BitVec 8) (m : MemOpd) (s : State) : Out :=
  word (.swait g d m) s fun w =>
    match s.launchOf w.agent with
    | none => s
    | some la =>
      let addr := fun l => ea w l .sp m 16
      let r := swaitCheck w (s.boundMask w g .sp 16 addr) addr (w.passing g) s
      let q := swaitAll w la d r.2.2 r.1
      let fates := (r.2.1.map fun p => (p.1, MFate.fate (.trap p.2))) ++ q.2
      memEnd q.1 w g [] ((w.passing g).map fun k => (k, ((fates.find? fun p => p.1 == k).map Prod.snd).getD (.hold .swait)))

/-! Barriers (R366) -/

/-- `bar` (R366): the group arrives with a release and waits; the barrier completes when every participant has arrived. A handler group is no participant and does not wait (log entry 9: DEDUCED). -/
def execBar (g : Guard) (patch : Bool) (sc : Scope) (s : State) : Out :=
  word (.bar g patch sc) s fun w =>
    if (w.passing g).isEmpty then s.setWarp w.done
    else match w.agent with
      | .group l t n =>
        if w.wait == some (.bar patch sc) then s.barSettle l t patch
        else releasing s w fun s =>
          let num := (s.ord w.agent).nextRel
          (((s.release w.agent sc).setWarp (w.waiting s.now (.bar patch sc))).modTray l t fun x =>
            { x with arrivals := x.arrivals ++ [⟨patch, n, sc, num⟩] }).barSettle l t patch
      | _ => releasing s w fun s => (s.release w.agent sc).setWarp w.done

/-! Queues (R109, R110, R367) -/

/-- The fabric address of a record of a queue (R109). -/
def State.queueAddr (s : State) (q : Stage) (n : Nat) : Nat := s.pkg * 2 ^ 46 + shelfBase + q.qbase + 64 * (n % 2 ^ q.qlog2)

/-- A queue's counters changed. -/
def State.setQueue (s : State) (l k : Nat) (f : Queue → Queue) : State :=
  s.modLaunch l fun la => { la with pipe := la.pipe.map fun p => { p with queues := p.queues.modify k f } }

/-- The tray a group-wide instruction reaches: its own, or for a handler group that of its first lane (log entry 9: DEDUCED). -/
def State.groupTray (s : State) (w : Warp) : Option Tray := s.laneTray w (w.lane 0)

/-- Whether some other group or handler group of the launch that waits for the same queue operation came earlier (R109); in replay the log alone orders them, so none has where the gate has been passed. -/
def State.queuedBefore (s : State) (w : Warp) (l stage : Nat) (r : Wait) : Bool :=
  let before := fun (v : Warp) => v.agent != w.agent && v.wait == some r && (w.wait != some r || decide (v.waitAt < w.waitAt))
  s.modeOf w.agent != 2 &&
    ((s.trays.any fun t => t.launch == l && t.stage == stage && t.warps.any before) ||
      s.handlers.any fun h => h.launch == l && (s.groupTray h.warp).map Tray.stage == some stage && before h.warp)

/-- Whether every tray assigned to a stage has exited (R110); one that awaits its replacement has not (R118). -/
def State.stageDone (s : State) (l k : Nat) : Bool :=
  s.trays.all fun t => t.launch != l || t.stage != k || (t.warps.all Warp.gone && !(((s.launch? l).map Launch.replace).getD []).contains t.idx)

/-- A group-wide access of scratchpad words, tracked as one of the lowest front lane (R180, R182). -/
def State.groupTrack (s : State) (w : Warp) (loc : Loc) (write plain : Bool) : Track :=
  let k := w.front.headD 0
  ⟨loc, 15, write, plain, w.agent, (s.ord w.agent).region, w.frontPc, k, (w.lane k).ident, (w.lane k).origin⟩

/-- The scratchpad words of a queue record, as accesses of the issuing group (R180). -/
def State.queueCheck (s : State) (w : Warp) (la : Launch) (t off : Nat) (write : Bool) : Except Trap State :=
  if la.f.racy then .ok s
  else s.track w.agent ((List.range 16).map fun j => s.groupTrack w (.sp la.id t (off / 4 + j)) write false) off

/-- The checks of qpush and qpop (R367): the stage whose queue is meant, or the cause and its offset. -/
def queueStage (w : Warp) (la : Launch) (t : Tray) (off : Nat) (pop : Bool) : Except Trap (Pipe × Nat) :=
  match la.pipe with
  | none => .error (.of 0x02)
  | some p =>
    if (!pop && t.stage + 1 == p.stages.length) || (pop && t.stage == 0) then .error (.of 0x02)
    else if off % 64 ≠ 0 then .error (.at 0x17 off)
    else if la.f.spBytes < off + 64 then .error (accessTrap w.frontMask 0x20 off off)
    else .ok (p, if pop then t.stage - 1 else t.stage)

/-- A push takes effect (R109, R367): the release, the record, the counter, D. None while it must wait. A poisoned word of the record traps the front (R199). -/
def pushEffect (s : State) (w : Warp) (la : Launch) (p : Pipe) (t k off : Nat) (d : BitVec 6) : Option State :=
  match p.stages[k]?, p.queues[k]? with
  | some q, some qu =>
    if qu.pushed - qu.popped ≥ 2 ^ q.qlog2 || !(s.ord w.agent).outbox.isEmpty || s.queuedBefore w la.id k .qpush then none
    else if s.spPoison la.id t off 64 then some (s.trapFront w (.at 0x14 off))
    else match s.gate (s.who w.agent) 4 0 with
      | .wait => none
      | _ => match s.logEvent (s.who w.agent) 4 0 k qu.pushed with
        | .error e => some (s.trapFront w e)
        | .ok s1 =>
          let r := s1.releaseNow w.agent .launch
          let x := r.2.readSp w.agent la t off 64
          let s2 := x.2.devWrite (x.2.queueAddr q qu.pushed) 64 x.1
          some (((s2.setQueue la.id k fun x => { x with pushed := x.pushed + 1, rels := x.rels ++ [(qu.pushed, r.1)] }).closeRegion w.agent
            (s.ord w.agent).region).setWarp (w.sset d.toNat (BitVec.ofNat 64 qu.pushed)).done)
  | _, _ => none

/-- A pop takes effect (R109, R367): the record to the scratchpad, the acquire, D and p[C]; or the closed indication. None while it must wait. A poisoned word of the record traps the front (R199). -/
def popEffect (s : State) (w : Warp) (g : Guard) (la : Launch) (p : Pipe) (t k off : Nat) (d : BitVec 6) (c : BitVec 3) : Option State :=
  match p.stages[k]?, p.queues[k]? with
  | some q, some qu =>
    let empty := qu.popped ≥ qu.pushed
    if (empty && !s.stageDone la.id k) || (s.ord w.agent).hasRelease || s.queuedBefore w la.id (k + 1) .qpop then none
    else if !empty && ((List.range 16).any fun j => (s.newest (.fab (s.queueAddr q qu.popped / 4 + j))).poison) then some (s.trapFront w (.at 0x14 off))
    else match s.gate (s.who w.agent) 4 0 with
      | .wait => none
      | _ =>
        let n := if empty then 2 ^ 64 - 1 else qu.popped
        match s.logEvent (s.who w.agent) 4 0 (k + 256) n with
        | .error e => some (s.trapFront w e)
        | .ok s1 =>
          let v := ((w.sset d.toNat (BitVec.ofNat 64 n)).mapLanes (w.passing g) fun _ l => l.setPred c empty)
          if empty then some (s1.setWarp v.done)
          else
            let a := s1.queueAddr q qu.popped
            let x := s1.readLocs w.agent 15 false false false ((List.range 16).map fun j => .fab (a / 4 + j))
            let op : WriteOp := ⟨(List.range 16).map fun j => ⟨.sp la.id t (off / 4 + j), 15, BitVec.ofNat 32 (bits x.1.val (32 * j) 32)⟩, w.frontPc,
              w.front.headD 0, (w.lane (w.front.headD 0)).ident, BitVec.ofNat 64 off⟩
            let s2 := x.2.applyWrite w.agent op .none
            let rs := (qu.rels.filter fun x => x.1 == qu.popped).map Prod.snd
            let s3 := s2.acquire w.agent .launch rs
            some ((s3.setQueue la.id k fun x => { x with popped := x.popped + 1, rels := x.rels.filter fun y => y.1 != qu.popped }).setWarp v.done)
  | _, _ => none

/-- `qpush` (R367). -/
def execQpush (g : Guard) (d : BitVec 6) (a : SSrc) (s : State) : Out :=
  word (.qpush g d a) s fun w =>
    if (w.passing g).isEmpty then s.setWarp w.done
    else match s.launchOf w.agent, s.groupTray w with
      | some la, some t =>
        let off := (rdS w a).toNat % 2 ^ 32
        match queueStage w la t off false with
        | .error e => s.trapFront w e
        | .ok (p, k) => match s.queueCheck w la t.idx off false with
          | .error e => s.trapFront w e
          | .ok s1 => releasing s1 w fun s2 => (pushEffect s2 w la p t.idx k off d).getD ((s2.stallIf (s2.who w.agent) 4 0 ((p.stages[k]?).any fun q => (p.queues[k]?).any fun x => decide (x.pushed - x.popped < 2 ^ q.qlog2))).setWarp (w.waiting s.now .qpush))
      | _, _ => s

/-- `qpop` (R367): at a marked tray it is a move point and does not take place (R112). -/
def execQpop (g : Guard) (d : BitVec 6) (a : SSrc) (c : BitVec 3) (s : State) : Out :=
  word (.qpop g d a c) s fun w =>
    if (w.passing g).isEmpty then s.setWarp w.done
    else match s.launchOf w.agent, s.groupTray w with
      | some la, some t =>
        let off := (rdS w a).toNat % 2 ^ 32
        match queueStage w la t off true with
        | .error e => s.trapFront w e
        | .ok (p, k) =>
          if !w.agent.isHandler && (s.moveTo la t.idx w.agent.groupNo).isSome then (s.setWarp (w.waiting s.now .move)).moveSettle la.id t.idx
          else match s.queueCheck w la t.idx off true with
            | .error e => s.trapFront w e
            | .ok s1 => (popEffect s1 w g la p t.idx k off d c).getD ((s1.stallIf (s1.who w.agent) 4 0 (((p.queues[k]?).any fun x => decide (x.popped < x.pushed)) || s1.stageDone la.id k)).setWarp (w.waiting s.now .qpop))
      | _, _ => s

/-! Waiting on a completion word (R368) -/

/-- `waitseq` (R368): the group waits until a synchronising read of the 8-byte word gives at least s, then acquires from the release that published it. -/
def execWaitseq (g : Guard) (sc : Scope) (a b : SSrc) (s : State) : Out :=
  word (.waitseq g sc a b) s fun w =>
    if (w.passing g).isEmpty then s.setWarp w.done
    else
      let va := (rdS w a).toNat
      let k := (w.passing g).headD 0
      watched s w g .g .load false 8 (fun _ => va)
        (match s.check w k .g .load false false va 8 w.frontMask with
        | .error e => s.trapFront w e
        | .ok (t, s1) => match (t.fab.map s.side).getD .served with
          | .fails c => s.trapFront w (.at c va)
          | .absent p => (s1.lineReq t true).setWarp (w.waiting s.now (.page p va))
          | .hold p => s1.setWarp (w.waiting s.now (.page p va))
          | .served =>
            let r := s1.readAt w.agent t 8 false
            let s2 := if w.wait == some .waitseq then r.2 else r.2.sampled w k t 1 (s1.servedBy w.agent t)
            if r.1.poison then s.trapFront w (.at 0x14 va)
            else if (s.ord w.agent).hasRelease || r.1.val < (rdS w b).toNat then s2.setWarp (w.waiting s.now .waitseq)
            else (s2.acquire w.agent sc r.1.pubs).setWarp w.done)

end Sys2Proof.Machine
end

