-- ==== Sys2Proof/Machine/Matrix.lean ====
section
/-!
DEFINITION. Accumulator tiles and the matrix instructions (R370 to R381): ownership, multiplication, the rendezvous latch (R139), gathered multiplication, fragments, and tiles to and from
memory and registers.
-/

namespace Sys2Proof.Machine

/-! Tiles (R371) -/

/-- A tile that the tray does not hold. -/
def Tile.absent : Tile := ⟨false, none, 0, 0, none, [], none, false, none⟩

/-- Tile n of a tray. -/
def Tray.tile (t : Tray) (n : Nat) : Tile := t.tiles.getD n Tile.absent

/-- Word j of row i. -/
def Tile.word (x : Tile) (i j : Nat) : Nat := (x.data.getD (32 * i + j) 0).toNat

/-- Element (i, j), of binary64 or of 32 bits. -/
def Tile.elem (x : Tile) (f64 : Bool) (i j : Nat) : Nat := if f64 then x.word i (2 * j) + 2 ^ 32 * x.word i (2 * j + 1) else x.word i j

/-- A value as tile words. -/
def tileWords (f64 : Bool) (v : Nat) : List Word32 := if f64 then [BitVec.ofNat 32 v, BitVec.ofNat 32 (v >>> 32)] else [BitVec.ofNat 32 v]

/-- A tile whose rows hold given elements. -/
def Tile.ofRows (x : Tile) (f64 : Bool) (rows : List (List Nat)) : Tile :=
  { x with data := (rows.map fun r => (r.map (tileWords f64)).flatten).flatten }

/-- Tiles of a tray changed by f. -/
def State.modTiles (s : State) (l t : Nat) (ns : List Nat) (f : Nat → Tile → Tile) : State :=
  s.modTray l t fun x => { x with tiles := x.tiles.zipIdx.map fun p => if ns.contains p.2 then f p.2 p.1 else p.1 }

/-- The trap of a tile that another group owns (R371, R182); some groups besides the issuing one may own it. -/
def Tray.ownerTrap (t : Tray) (g : Nat) (also ns : List Nat) : Option Trap :=
  ns.findSome? fun n => match (t.tile n).owner with
    | none => none
    | some o => if o = g || also.contains o then none
      else some ⟨0x30, BitVec.ofNat 64 (0xFF00000000000000 + n), BitVec.ofNat 64 (2 ^ 62 + 2 ^ 60 + (t.tile n).ownerPc.toNat / 8), BitVec.ofNat 64 (t.idx * 2 ^ 32 + o * 2 ^ 16)⟩

/-- Whether a group's own attn holds some tile (R255). -/
def Tray.heldBy (t : Tray) (g : Nat) (ns : List Nat) : Bool := ns.any fun n => (t.tile n).held == some g

/-- The issuing group becomes, or stays, the owner of some tiles (R371). -/
def State.claim (s : State) (w : Warp) (t : Tray) (ns : List Nat) : State :=
  s.modTiles t.launch t.idx ns fun _ x => { x with owner := some w.agent.groupNo, ownerPc := w.frontPc }

/-- An instruction that names tiles (R269, R370): a handler group holds none, and a tile that the tray does not hold traps every front lane whatever the guard; with no passing lane nothing else
happens. -/
def onTiles (i : Instr) (s : State) (g : Guard) (ns : List Nat) (k : Warp → Tray → State) : Out :=
  word i s fun w => match s.trayOf w.agent with
    | none => s.trapFront w (.of 0x49)
    | some t =>
      if ns.any fun n => !(t.tile n).alloc then s.trapFront w (.of 0x49)
      else if (w.passing g).isEmpty then s.setWarp w.done
      else k w t

/-- The owner check of R371 and the wait for held tiles of R255, before an instruction's effect. -/
def owning (s : State) (w : Warp) (t : Tray) (also ns : List Nat) (k : State) : State :=
  match t.ownerTrap w.agent.groupNo also ns with
  | some e => s.trapFront w e
  | none => if t.heldBy w.agent.groupNo ns then s.setWarp (w.waiting s.now .tile) else k

/-! Multiplication (R375, R376) -/

/-- The rows of an operand: one per lane, from the 16 registers at v, with n scale words from c. -/
def operand (f : Fmt) (k : Nat) (v c n : Nat) (w : Warp) (lanes : Nat) : List MRow :=
  (List.range lanes).map fun r => f.row k ((w.lane r).rget v 16) ((List.range n).map fun j => ((w.lane r).vget (c + j)).toNat)

/-- The elements of a tile after a multiplication, with their flags: rows i is the list of (row, extra) parts that enter row i, each against a list of columns. -/
def mulRows (fa fb : Fmt) (z : Bool) (x : Tile) (parts : Nat → List (MRow × List MRow)) : List (List (Nat × Nat)) :=
  let f64 := decide (fa.cls = 0)
  (List.range 32).map fun i => (List.range fa.cols).map fun j =>
    let bs := ((parts i).map fun p => blocksOf fa fb p.1 (p.2.getD j ⟨[], []⟩)).flatten
    let old := x.elem f64 i j
    let r := fa.acc.accBlocks (fa.halvings + fb.halvings) (if z then none else some old) bs
    (r.1.getD 0, r.2)

/-- The flags of a list of rows. -/
def rowFlags (rows : List (List (Nat × Nat))) : Nat := rows.foldl (fun f r => r.foldl (fun f e => f ||| e.2) f) 0

/-- A multiplication by the groups ms, lowest first: the tile is theirs, the lowest owns it, each takes the flags and goes on (R236, R371, R376). -/
def mmaGo (s : State) (ms : List Warp) (t : Tray) (z : Bool) (fa fb : Fmt) (d a b c : Nat) : State :=
  let k := mmaK fa fb
  let na := fa.scales k
  let nb := fb.scales k
  let ops := ms.map fun v => (operand fa k a c na v 32, operand fb k b (c + na) nb v fa.cols)
  let rows := mulRows fa fb z (t.tile d) fun i => ops.map fun o => (o.1.getD i ⟨[], []⟩, o.2)
  let s1 := s.modTiles t.launch t.idx [d] fun _ x =>
    { x.ofRows (fa.cls == 0) (rows.map fun r => r.map Prod.fst) with
      owner := ms.head?.map fun v => v.agent.groupNo
      ownerPc := (ms.head?.map Warp.frontPc).getD 0 }
  ms.foldl (fun (s : State) v => s.setWarp (v.raise (rowFlags rows)).done) s1

/-- A joint operation reaches the latch (R139): a mismatch traps every group there, the last named group executes it, any other waits; so does the gang while a named group is evicted (R115). -/
def latch (s : State) (w : Warp) (t : Tray) (i : Instr) (k : List Warp → State) : State :=
  let here := t.warps.filter fun v => v.latched && v.agent != w.agent
  let named := gangOf w.gang
  let bad := named.length < 2 || 6 < named.length || !named.contains w.agent.groupNo ||
    here.any fun v => v.wait != some (.latch i) || v.gang != w.gang
  if bad then s.trapGang (w.agent :: here.map Warp.agent)
  else if named.all fun n => n == w.agent.groupNo || here.any fun v => v.agent.groupNo == n && !v.evicted && !v.halted then
    k (named.filterMap fun n => if n = w.agent.groupNo then some w else here.find? fun v => v.agent.groupNo == n)
  else s.setWarp (w.waiting s.now (.latch i))

/-- `mma` (R375, R376). -/
def execMma (g : Guard) (z : Bool) (fa fb : Fmt) (d : BitVec 6) (a b c : BitVec 8) (s : State) : Out :=
  onTiles (.mma g z fa fb d a b c) s g [d.toNat] fun w t =>
    let go := fun ms => mmaGo s ms t z fa fb d.toNat a.toNat b.toNat c.toNat
    owning s w t (gangOf w.gang) [d.toNat] (if w.gang == 0 then go [w] else latch s w t (.mma g z fa fb d a b c) go)

/-! Gathered multiplication (R377) -/

/-- The list block of mmag. -/
structure GatherList where
  rowBase : Nat
  sclBase : Nat
  idx     : List Nat
  sct     : List Nat
  bad     : Bool
deriving DecidableEq, Repr

/-- A list block from its 192 bytes as a number. -/
def GatherList.of (v : Nat) : GatherList where
  rowBase := bits v 0 32
  sclBase := bits v 32 32
  idx := (List.range 32).map fun r => bits v (512 + 16 * r) 16
  sct := (List.range 32).map fun r => bits v (1024 + 8 * r) 8
  bad := bits v 64 448 != 0 || bits v 1280 256 != 0 || (List.range 32).any fun r => decide (32 ≤ bits v (1024 + 8 * r) 8) && decide (bits v (1024 + 8 * r) 8 ≤ 254)

/-- The gathered rows: (r, x, tile row), in ascending r. -/
def GatherList.rows (l : GatherList) : List (Nat × Nat × Nat) :=
  (List.range 32).filterMap fun r =>
    let x := l.idx.getD r 0xFFFF
    let t := l.sct.getD r 0xFF
    if x = 0xFFFF ∨ t = 0xFF then none else some (r, x, t)

/-- Plain scratchpad reads of a group checked by R181 unless the launch is RACY (R148). -/
def State.trackSp (s : State) (w : Warp) (la : Launch) (t : Nat) (runs : List (Nat × Nat)) (va : Nat) : Except Trap State :=
  if la.f.racy then .ok s
  else s.track w.agent ((runs.map fun r => (spWords la.id t r.1 r.2).map fun loc => s.groupTrack w loc false true).flatten) va

/-- The vector registers that mmag names (R374, R377). -/
def mmagRegs (fa fb : Fmt) (b c : BitVec 8) : List Opnd := [.vec b.toNat 16] ++ scaleRegs c (fb.scales (mmaK fa fb))

/-- `mmag` (R377): the list checks, then those of mma in their order, then the gathered rows. With no passing lane only the faults of its operands are met (R266). -/
def execMmag (g : Guard) (z : Bool) (fa fb : Fmt) (d : BitVec 6) (a : SSrc) (b c : BitVec 8) (s : State) : Out :=
  word (.mmag g z fa fb d a b c) s fun w => match s.trayOf w.agent, s.launchOf w.agent with
    | some t, some la =>
      let off := (rdS w a).toNat % 2 ^ 32
      let sp := la.f.spBytes
      let k := mmaK fa fb
      let na := fa.scales k
      let nb := fb.scales k
      let named := fa.cls == fb.cls && (mmagRegs fa fb b c).all w.holds
      if (w.passing g).isEmpty then (if !named then s.trapFront w (.of 0x02) else if (t.tile d.toNat).alloc then s.setWarp w.done else s.trapFront w (.of 0x49))
      else if off % 64 ≠ 0 then s.trapFront w (.at 0x17 off)
      else if sp < off + 192 then s.trapFront w (accessTrap w.frontMask 0x20 off off)
      else if s.spPoison la.id t.idx off 192 then s.trapFront w (.at 0x14 off)
      else
        let r0 := s.readSp w.agent la t.idx off 192
        let l := GatherList.of r0.1
        let runs := (l.rows.map fun p => (l.rowBase + 64 * p.2.1, 64)) ++ (if na = 0 then [] else l.rows.map fun p => (l.sclBase + 4 * na * p.2.1, 4 * na))
        if l.rowBase % 64 ≠ 0 || (na != 0 && l.sclBase % 16 != 0) then s.trapFront w (.at 0x17 off)
        else match runs.find? fun r => decide (sp < r.1 + r.2) with
          | some r => s.trapFront w (accessTrap w.frontMask 0x20 r.1 r.1)
          | none =>
            if l.bad || !named then s.trapFront w (.of 0x02)
            else if !(t.tile d.toNat).alloc then s.trapFront w (.of 0x49)
            else owning s w t [] [d.toNat] (match r0.2.trackSp w la t.idx ((off, 192) :: runs) off with
              | .error e => s.trapFront w e
              | .ok s1 => match runs.find? fun r => s.spPoison la.id t.idx r.1 r.2 with
              | some r => s.trapFront w (.at 0x14 r.1)
              | none =>
                let cols := operand fb k b.toNat c.toNat nb w fa.cols
                let rd := l.rows.foldl (fun (x : List (Nat × MRow) × State) p =>
                  let img := x.2.readSp w.agent la t.idx (l.rowBase + 64 * p.2.1) 64
                  let sc := if na = 0 then (0, img.2) else img.2.readSp w.agent la t.idx (l.sclBase + 4 * na * p.2.1) (4 * na)
                  (x.1 ++ [(p.2.2, fa.row k img.1 ((List.range na).map fun j => bits sc.1 (32 * j) 32))], sc.2)) ([], s1)
                let rows := mulRows fa fb z (t.tile d.toNat) fun i => (rd.1.filter fun p => p.1 == i).map fun p => (p.2, cols)
                let s2 := (rd.2.claim w t [d.toNat]).modTiles t.launch t.idx [d.toNat] fun _ x => x.ofRows (fa.cls == 0) (rows.map fun r => r.map Prod.fst)
                s2.setWarp (w.raise (rowFlags rows)).done)
    | _, _ => s.trapFront w (.of 0x49)

/-! Fragments (R378) -/

/-- The 16-byte chunks of a lane's fragment: each checked and read; the image, or the lane's trap. -/
def fragRead (w : Warp) (k : Nat) (mask : Nat → Word32) (off : Nat) : List Nat → State → Except Trap (Nat × State)
  | [], s => .ok (0, s)
  | c :: cs, s =>
    match s.check w k .sp .load false true ((off + 16 * c) % 2 ^ 32) 16 mask with
    | .error e => .error e
    | .ok (t, s1) =>
      let r := s1.readAt w.agent t 16 true
      if r.1.poison then .error (.at 0x14 t.va)
      else match fragRead w k mask off cs r.2 with
      | .error e => .error e
      | .ok (v, s2) => .ok (r.1.val * 2 ^ (128 * c) + v, s2)

/-- The first fault of ldfrag's lanes, in order, that is not a lane's own (R370, R378): it traps every front lane. -/
def fragFault (read : Nat → State → Except Trap (Nat × State)) : List Nat → State → Option Trap
  | [], _ => none
  | k :: ks, s =>
    match read k s with
    | .ok (_, s1) => fragFault read ks s1
    | .error e => if e.cause == 0x17 || e.cause == 0x20 then fragFault read ks s else some e

/-- `ldfrag` (R378): a lane whose address is misaligned or out of bounds traps alone, any other fault is the whole front's. -/
def execLdfrag (g : Guard) (fa : Fmt) (d : BitVec 8) (a b : SSrc) (s : State) : Out :=
  word (.ldfrag g fa d a b) s fun w =>
    let n := fa.k * fa.bits / 8
    let off := fun k => ((rdS w a).toNat % 2 ^ 32 + k * ((rdS w b).toNat % 2 ^ 32)) % 2 ^ 32
    let mask := fun (c : Nat) => maskOf ((w.passing g).filter fun k => c == 0x20 && decide ((s.launchOf w.agent).all fun la => la.f.spBytes < off k + n))
    let read := fun k s => fragRead w k mask (off k) (List.range (n / 16)) s
    match fragFault read (w.passing g) s with
    | some e => s.trapLanes w (w.front.map fun k => (k, match read k s with
      | .error x => if (w.passing g).contains k && (x.cause == 0x17 || x.cause == 0x20) then x else e
      | .ok _ => e))
    | none => memDo s w g (if (w.passing g).isEmpty then [] else pendOf w d.toNat (n / 4)) fun s k =>
      match read k s with
      | .error e => (s, .fate (.trap e))
      | .ok (v, s1) => (s1, .fate (.done ((w.lane k).rset d.toNat (n / 4) v) 0))

/-! Tiles and memory (R379) -/

/-- The address of chunk c of row i. -/
def accAddr (w : Warp) (sp : Space) (a b : SSrc) (i c : Nat) : Nat :=
  let n := if sp == .g then 64 else 32
  wrap n (((rdS w a).toNat % 2 ^ n : Nat) + (i : Int) * signed 32 (rdS w b).toNat + (16 * c : Nat))

/-- The chunks of a tile in memory, in ascending row. -/
def accAddrs (w : Warp) (sp : Space) (a b : SSrc) : List Nat := ((List.range 32).map fun i => (List.range 8).map fun c => accAddr w sp a b i c).flatten

/-- The checks of every chunk (R351), as accesses of the group's lowest front lane: the targets, or the first trap. -/
def accCheck (w : Warp) (sp : Space) (kd : Kind) : List Nat → State → Except Trap (List Target × State)
  | [], s => .ok ([], s)
  | a :: as, s =>
    match s.check w (w.front.headD 0) sp kd false true a 16 w.frontMask with
    | .error e => .error e
    | .ok (t, s1) => match accCheck w sp kd as s1 with
      | .error e => .error e
      | .ok (ts, s2) => .ok (t :: ts, s2)

/-- The memory side's worst answer to some reads (R167): the first failure with its address, or the first page to wait for. -/
inductive Sides where
  | served
  | wait (page va : Nat)
  | fails (cause va : Nat)

/-- The memory side's answer to a list of targets. -/
def State.sides (s : State) : List Target → Sides
  | [] => .served
  | t :: ts => match (t.fab.map s.side).getD .served with
    | .served => s.sides ts
    | .absent p => .wait p t.va
    | .hold p => .wait p t.va
    | .fails c => .fails c t.va

/-- Plain reads of some targets in order by a group (R174), each a line request where it is the first of its line (R215): their values, the first poisoned address. -/
def State.readAll (s : State) (w : Warp) (width : Nat) : List Target → List Nat × Option Nat × State
  | [] => ([], none, s)
  | t :: ts =>
    let r := s.readAt w.agent t width true
    let q := (r.2.sampled w (w.front.headD 0) t 1 (s.servedBy w.agent t)).readAll w width ts
    (r.1.val :: q.1, if r.1.poison then some t.va else q.2.1, q.2.2)

/-- `ldacc` (R379). -/
def execLdacc (g : Guard) (sp : Space) (d : BitVec 6) (a b : SSrc) (s : State) : Out :=
  onTiles (.ldacc g sp d a b) s g [d.toNat] fun w t =>
    let as := accAddrs w sp a b
    owning s w t [] [d.toNat] (match s.hitHalt w sp .load 16 as with
      | some n => s.haltHit w 0x51 n
      | none => match accCheck w sp .load as s with
        | .error e => s.trapFront w e
        | .ok (ts, s1) => match s.sides ts with
          | .fails c va => s.trapFront w (.at c va)
          | .wait p va => (s.touch (p * 65536)).setWarp (w.waiting s.now (.page p va))
          | .served =>
            let r := s1.readAll w 16 ts
            match r.2.1 with
            | some va => s.trapFront w (.at 0x14 va)
            | none => ((r.2.2.claim w t [d.toNat]).modTiles t.launch t.idx [d.toNat] fun _ x =>
                { x with data := (r.1.map fun v => (List.range 4).map fun j => BitVec.ofNat 32 (bits v (32 * j) 32)).flatten }).setWarp w.done)

/-- The write of one row of a tile: eight chunks (R379). -/
def rowWrite (w : Warp) (x : Tile) (i : Nat) (ts : List Target) : WriteOp :=
  let locs := (ts.map fun t => match t.place with
    | .mem ls _ => ls
    | .lp _ _ _ => []).flatten
  let k := w.front.headD 0
  ⟨locs.zipIdx.map fun p => ⟨p.1, 15, BitVec.ofNat 32 (x.word i p.2)⟩, w.frontPc, k, (w.lane k).ident, BitVec.ofNat 64 ((ts.head?.map Target.va).getD 0)⟩

/-- `stacc` (R379): 32 row writes join the outbox. -/
def execStacc (g : Guard) (sp : Space) (d : BitVec 6) (a b : SSrc) (s : State) : Out :=
  onTiles (.stacc g sp d a b) s g [d.toNat] fun w t =>
    let as := accAddrs w sp a b
    owning s w t [] [d.toNat] (match s.hitHalt w sp .store 16 as with
      | some n => s.haltHit w 0x51 n
      | none => match accCheck w sp .store as s with
        | .error e => s.trapFront w e
        | .ok (ts, s1) =>
          let s2 := (chunks 8 32 ts).zipIdx.foldl (fun (s : State) p =>
            p.1.foldl (fun (s : State) x => s.sampled w (w.front.headD 0) x 2 (s.servedBy w.agent x)) (s.push w.agent (.write (rowWrite w (t.tile d.toNat) p.2 p.1)) false)) s1
          ((s2.publishFor w.agent sp).claim w t [d.toNat]).setWarp w.done)

/-! Tiles and registers (R380, R381), handing a tile over (R372) -/

/-- `zacc` (R380). -/
def execZacc (g : Guard) (d n : BitVec 6) (s : State) : Out :=
  let ns := (List.range (n.toNat + 1)).map fun j => d.toNat + j
  onTiles (.zacc g d n) s g ns fun w t =>
    owning s w t [] ns (((s.claim w t ns).modTiles t.launch t.idx ns fun _ x => { x with data := List.replicate 1024 0 }).setWarp w.done)

/-- `accrd` (R381): tile columns to registers. -/
def execAccrd (g : Guard) (f64 : Bool) (d : BitVec 8) (a : BitVec 6) (j : BitVec 8) (n : BitVec 6) (s : State) : Out :=
  onTiles (.accrd g f64 d a j n) s g [a.toNat] fun w t =>
    let x := t.tile a.toNat
    let m := (n.toNat + 1) * (if f64 then 2 else 1)
    let first := if f64 then 2 * j.toNat else j.toNat
    owning s w t [] [a.toNat]
      ((s.claim w t [a.toNat]).setWarp ((w.mapLanes (w.passing g) fun k l =>
        (List.range m).foldl (fun (l : Lane) i => l.vset (d.toNat + i) (BitVec.ofNat 32 (x.word k (first + i)))) l).done))

/-- `accwr` (R381): registers to tile columns, in the rows of the passing lanes. -/
def execAccwr (g : Guard) (f64 : Bool) (d : BitVec 6) (a : BitVec 8) (j : BitVec 8) (n : BitVec 6) (s : State) : Out :=
  onTiles (.accwr g f64 d a j n) s g [d.toNat] fun w t =>
    let m := (n.toNat + 1) * (if f64 then 2 else 1)
    let first := if f64 then 2 * j.toNat else j.toNat
    owning s w t [] [d.toNat]
      (((s.claim w t [d.toNat]).modTiles t.launch t.idx [d.toNat] fun _ x =>
        { x with data := (w.passing g).foldl (fun (v : List Word32) k =>
            (List.range m).foldl (fun (v : List Word32) i => v.set (32 * k + first + i) ((w.lane k).vget (a.toNat + i))) v) x.data }).setWarp w.done)

/-- `tilebar.rel` (R372): a release at tray scope, then the tile is FREE and its generation counts. The group waits until its outbox has drained. -/
def execTilebarRel (g : Guard) (a : BitVec 6) (s : State) : Out :=
  onTiles (.tilebarRel g a) s g [a.toNat] fun w t =>
    owning s w t [] [a.toNat] (releasing s w fun s =>
      if !(s.ord w.agent).outbox.isEmpty then s.setWarp (w.waiting s.now .drain)
      else
        let r := s.releaseNow w.agent .tray
        let s1 := r.2.closeRegion w.agent (s.ord w.agent).region
        let o := s1.ord w.agent
        ((s1.setOrd w.agent { o with region := o.region + 1 }).modTiles t.launch t.idx [a.toNat] fun _ x =>
          { x with owner := none, tgen := x.tgen + 1, rel := some r.1 }).setWarp w.done)

/-- How a tilebar.wait stands (R372). -/
def State.tileWait (s : State) (w : Warp) (x : Tile) (e : Nat) : SwaitOut :=
  let gen := x.tgen.toNat
  match s.gate (s.who w.agent) 3 0 with
  | .replay _ rb => if gen = rb then .go else if (gen + 2 ^ 32 - rb % 2 ^ 32) % 2 ^ 32 < 2 ^ 31 then .diverge else .wait
  | .reserved => .diverge
  | .wait => .wait
  | _ => if gen = e then .wait else .go

/-- `tilebar.wait` (R372). -/
def execTilebarWait (g : Guard) (d a : BitVec 6) (b : SSrc) (s : State) : Out :=
  onTiles (.tilebarWait g d a b) s g [a.toNat] fun w t =>
    let x := t.tile a.toNat
    if (s.ord w.agent).hasRelease then s.setWarp (w.waiting s.now .swait)
    else match s.tileWait w x ((rdS w b).toNat % 2 ^ 32) with
      | .wait => (s.stallIf (s.who w.agent) 3 0 (x.tgen.toNat != (rdS w b).toNat % 2 ^ 32)).setWarp (w.waiting s.now .swait)
      | .diverge => s.trapFront w (s.divergence (s.ctxOf w.agent) 3)
      | .go => match s.logEvent (s.who w.agent) 3 0 (2 ^ 32 + a.toNat) x.tgen.toNat with
        | .error e => s.trapFront w e
        | .ok s1 => (s1.acquire w.agent .tray x.rel.toList).setWarp (w.sset d.toNat (x.tgen.setWidth 64)).done

end Sys2Proof.Machine
end

