-- ==== Sys2Proof/Machine/LaneOps.lean ====
section
/-!
DEFINITION. The cross-lane instructions of R341 to R346. They read the lanes of the issuing group as they stand at issue; the contributing lanes are the
passing lanes in ascending virtual lane.
-/

namespace Sys2Proof

/-- The extension of a reduction's result. -/
def RedTy.ext : RedTy → Ext
  | .i32 => .sx32 | .n32 => .zx32 | .f32 => .zx32 | .i64 => .w64 | .n64 => .w64 | .f64 => .w64

/-- The integer type of a reduction, if it has one. -/
def RedTy.ity : RedTy → Option IntTy
  | .i32 => some .i32 | .i64 => some .i64 | .n32 => some .n32 | .n64 => some .n64 | .f32 => none | .f64 => none

/-- The floating-point type of a reduction. -/
def RedTy.fty : RedTy → FTy
  | .f64 => .f64 | _ => .f32

/-- One step of a reduction (R344). -/
def redStep (o : RedOp) (t : RedTy) (md : RM) (x y : Nat) : Nat × Nat :=
  match t.ity with
  | some it => (match o with
    | .add => it.bin (· + ·) x y
    | .min => it.bin (fun x y => if x ≤ y then x else y) x y
    | .max => it.bin (fun x y => if x ≤ y then y else x) x y
    | .and => x &&& y
    | .or => x ||| y
    | .xor => x ^^^ y, 0)
  | none =>
    let f := t.fty.fmt
    match o with
    | .add => f.add md x y
    | .min => f.minmax false false x y
    | .max => f.minmax true false x y
    | .and => (x, 0)
    | .or => (x, 0)
    | .xor => (x, 0)

/-- The first value of an exclusive scan (R344). -/
def redIdentity (o : RedOp) (t : RedTy) : Nat :=
  match t.ity with
  | some it => (match o with
    | .add => 0
    | .min => wrap it.bits it.hi
    | .max => wrap it.bits it.lo
    | .and => 2 ^ it.bits - 1
    | .or => 0
    | .xor => 0)
  | none =>
    let f := t.fty.fmt
    match o with
    | .min => f.infCode
    | .max => f.withSign true f.infCode
    | .add => 0
    | .and => 0
    | .or => 0
    | .xor => 0

/-- The running combination of a list of values: after each value, the result so far; and the flags of every step (R344). -/
def runs (o : RedOp) (t : RedTy) (md : RM) : Option Nat → List Nat → List Nat × Nat
  | _, [] => ([], 0)
  | none, x :: xs => let r := runs o t md (some x) xs; (x :: r.1, r.2)
  | some a, x :: xs =>
    let y := redStep o t md a x
    let r := runs o t md (some y.1) xs
    (y.1 :: r.1, y.2 ||| r.2)

/-- The draw of sample (R345): the prefix sums of the weights of lanes 0 to 31, then the first lane whose prefix exceeds u × total. -/
def sampleN (ws : List Nat) (u : Nat) : Option Nat :=
  let f := FFmt.f32
  let r := ws.foldl (fun (p : Bool × Nat × List (Nat × Nat)) w =>
    let v := f.dec w
    let w := if FV.lt false v (.fin false 0 0) then 0 else w
    let tot := (f.add .rne p.2.1 w).1
    (p.1 || v.isNan, tot, p.2.2 ++ [(w, tot)])) (false, 0, [])
  let tot := f.dec r.2.1
  let bad := match tot with
    | .nan _ _ _ => true
    | .inf _ => true
    | .fin _ m _ => decide (m = 0)
  if r.1 || bad || (f.dec u).isNan then none
  else
    let t := f.dec (f.mul .rne u r.2.1).1
    let pos := (List.range 32).filter fun k => FV.lt false (.fin false 0 0) (f.dec (r.2.2.getD k (0, 0)).1)
    match pos.find? fun k => FV.lt false t (f.dec (r.2.2.getD k (0, 0)).2) with
    | some k => some k
    | none => pos.getLast?

namespace Machine

/-- The mask of a list of lanes as a number. -/
def maskN (ks : List Nat) : Nat := (maskOf ks).toNat

/-- The source lane of shfl, if it exists and is in the front (R342). -/
def shflSource (w : Warp) (m : ShflMode) (k b : Nat) : Option Nat :=
  let s := match m with
    | .id => (List.range w.lanes.length).find? fun j => (w.lane j).ident.toNat == b % 2 ^ 16 && b % 2 ^ 16 != 0xFFFF
    | .vl => some b
    | .up => if b ≤ k then some (k - b) else none
    | .down => some (k + b)
    | .xor => some (k ^^^ b)
  match s with
  | some j => if j < 32 && (w.lane j).ident != 0xFFFF && w.front.contains j then some j else none
  | none => none

/-- `shfl` (R342). -/
def execShfl (g : Guard) (t : BitTy) (m : ShflMode) (d : BitVec 8) (a b : Src) (c : BitVec 3) (s : State) : Out :=
  word (.shfl g t m d a b c) s fun w => lanewise s w g fun k l =>
    match shflSource w m k (rdSrc w l false b) with
    | some j => .done ((l.put t.ext d (rdSrc w (w.lane j) t.is64 a)).setPred c false) 0
    | none => .done ((l.put t.ext d 0).setPred c true) 0

/-- `vote` (R343). -/
def execVote (g : Guard) (o : VoteOp) (d a : BitVec 3) (s : State) : Out :=
  word (.vote g o d a) s fun w =>
    let ps := (w.passing g).map fun k => (w.lane k).pred a
    let r := match o with
      | .all => ps.all id
      | .any => ps.any id
      | .uni => ps.all id || !ps.any id
    lanewise s w g fun _ l => .done (l.setPred d r) 0

/-- `ballot` (R343). -/
def execBallot (g : Guard) (d : Reg) (a : BitVec 3) (s : State) : Out :=
  word (.ballot g d a) s fun w =>
    compute0 s w g d .zx32 fun _ => maskN ((w.passing g).filter fun k => (w.lane k).pred a)

/-- `reduce` (R344). -/
def execReduce (g : Guard) (o : RedOp) (t : RedTy) (r : Rnd) (d : Reg) (a : Src) (s : State) : Out :=
  word (.reduce g o t r d a) s fun w =>
    let x := runs o t r.rm none ((w.passing g).map fun k => if t.isF then rdF w (w.lane k) t.fty a else rdSrc w (w.lane k) t.is64 a)
    let v := x.1.getLastD 0
    crossOp s w g x.2 fun w => match d with
      | .v n => w.mapLanes (w.passing g) fun _ l => l.put t.ext n v
      | .s n => w.sset n.toNat (t.ext.word v)

/-- `scan` (R344). -/
def execScan (g : Guard) (o : RedOp) (excl : Bool) (t : RedTy) (r : Rnd) (d : BitVec 8) (a : Src) (s : State) : Out :=
  word (.scan g o excl t r d a) s fun w =>
    let ks := w.passing g
    let x := runs o t r.rm none (ks.map fun k => if t.isF then rdF w (w.lane k) t.fty a else rdSrc w (w.lane k) t.is64 a)
    let vs := if excl then redIdentity o t :: x.1.dropLast else x.1
    crossOp s w g x.2 fun w => (ks.zip vs).foldl (fun w p => w.setLane p.1 ((w.lane p.1).put t.ext d p.2)) w

/-- `sample` (R345). -/
def execSample (g : Guard) (d : Reg) (a b : Src) (c : BitVec 3) (s : State) : Out :=
  word (.sample g d a b c) s fun w =>
    let ks := w.passing g
    let ws := (List.range 32).map fun k => if ks.contains k then rdF w (w.lane k) .f32 a else 0
    let r := sampleN ws (rdF w (w.lane (ks.headD 0)) .f32 b)
    let v := match r with
      | some k => k
      | none => 0xFFFFFFFF
    crossOp s w g 0 fun w =>
      let w := w.mapLanes ks fun _ l => ((l.putReg .sx32 d v).setPred c r.isNone)
      match d with
      | .v _ => w
      | .s n => w.sset n.toNat (Ext.sx32.word v)

/-- `leaven` (R346). -/
def execLeaven (g : Guard) (flt : Bool) (d : Reg) (a b : Src) (s : State) : Out :=
  word (.leaven g flt d a b) s fun w => compute0 s w g d .zx32 fun l =>
    let x := leaven (rdSrc w l false a) (rdSrc w l false b)
    if flt then (FFmt.f32.roundDy .rne ⟨(x >>> 8 : Nat), -24⟩ false).1 else x

/-- `match` (R343). -/
def execMatch (g : Guard) (all : Option (BitVec 3)) (t : BitTy) (d : BitVec 8) (a : Src) (s : State) : Out :=
  word (.matchLanes g all t d a) s fun w =>
    let ks := w.passing g
    let val := fun k => rdSrc w (w.lane k) t.is64 a
    match all with
    | none => lanewise s w g fun k l => .done (l.put .zx32 d (maskN (ks.filter fun j => val j == val k))) 0
    | some c =>
      let eq := ks.all fun k => val k == val (ks.headD 0)
      lanewise s w g fun _ l => .done ((l.put .zx32 d (if eq then maskN ks else 0)).setPred c eq) 0

end Machine

end Sys2Proof
end

