-- ==== Sys2Proof/Machine/MemOps.lean ====
section
/-!
DEFINITION. The memory instructions and atomics (R348 to R363): loads, stores, circular buffers, acquire loads and release stores, prefetch and flush, atomics, fences, freeze and thaw.
-/

namespace Sys2Proof

/-- The type as reduce knows it; b types are as n types. -/
def AtomTy.red : AtomTy → RedTy
  | .i32 => .i32 | .i64 => .i64 | .n32 => .n32 | .n64 => .n64 | .f32 => .f32 | .f64 => .f64 | .b32 => .n32 | .b64 => .n64

/-- The new value of an atomic (R358): integers mod 2^w, floating-point add to nearest even, minimum and maximum in the number form. -/
def atomNew (o : AtomOp) (t : AtomTy) (old v : Nat) : Nat :=
  match o with
  | .add => (redStep .add t.red .rne old v).1
  | .min => (redStep .min t.red .rne old v).1
  | .max => (redStep .max t.red .rne old v).1
  | .and => old &&& v
  | .or => old ||| v
  | .xor => old ^^^ v
  | .exch => v
  | .addsat => Nat.min (old + v) (2 ^ (8 * t.bytes) - 1)

/-- Whether an atomic without return commutes and is not logged (R206). -/
def AtomOp.commutes (o : AtomOp) (t : AtomTy) : Bool :=
  match o with
  | .add => !t.float
  | .min => true | .max => true | .and => true | .or => true | .xor => true | .addsat => true
  | .exch => false

/-- What an atomic request makes of the old value: its width in bytes and the value it writes, if it writes. -/
def AtomReq.run (r : AtomReq) (old : Nat) : Option Nat :=
  match r with
  | .op o t v => some (atomNew o t old (v.toNat % 2 ^ (8 * t.bytes)))
  | .cas t new cmp => if old = cmp.toNat % 2 ^ (8 * t.bytes) then some (new.toNat % 2 ^ (8 * t.bytes)) else none

/-- Whether an atomic request is of a floating type (R190). -/
def AtomReq.flt : AtomReq → Bool
  | .op _ t _ => t.float
  | .cas _ _ _ => false

/-- The width of an atomic request in bytes. -/
def AtomReq.bytes : AtomReq → Nat
  | .op _ t _ => t.bytes
  | .cas t _ _ => t.bytes

namespace Machine

/-! Plain loads and stores (R352), circular buffers (R353, R158) -/

/-- `ld` (R352): a plain load from any space. -/
def execLd (g : Guard) (sp : Space) (t : Ty) (d : BitVec 8) (m : MemOpd) (s : State) : Out :=
  word (.ld g sp t d m) s fun w =>
    let addr := fun l => ea w l sp m t.width
    watched s w g sp .load false t.width addr
      (memDo s w g (if (w.passing g).isEmpty then [] else pendOf w d.toNat (if t.width ≤ 4 then 1 else t.width / 4))
        (loadLane w (s.boundMask w g sp t.width addr) sp t.width addr fun l v => l.putW d t.width (loadExt t v)))

/-- `st` (R352): a plain store to any space. -/
def execSt (g : Guard) (sp : Space) (t : Ty) (d : BitVec 8) (m : MemOpd) (s : State) : Out :=
  word (.st g sp t d m) s fun w =>
    let addr := fun l => ea w l sp m t.width
    watched s w g sp .store false t.width addr
      (memDo s w g [] (storeLane w (s.boundMask w g sp t.width addr) sp t.width addr fun l => l.getW d t.width))

/-- SIZE of a modulo register in bytes (R157). -/
def modSize (m : Word) : Nat := 16 * bits m.toNat 15 15
/-- OFF of a modulo register (R157). -/
def modOff (m : Word) : Nat := bits m.toNat 30 19
/-- The effective offset through a modulo register (R158). -/
def modAddr (m : Word) (x : Nat) : Nat := 16 * bits m.toNat 0 15 + (modOff m + x % 2 ^ 32) % modSize m
/-- A modulo register after its post-increment (R158). -/
def modStep (m : Word) : Word :=
  BitVec.ofNat 64 (setBits m.toNat 30 19 (((modOff m : Int) + signed 15 (bits m.toNat 49 15)) % (modSize m : Int)).toNat)

/-- A post-increment access (R158, R353): the register is checked when a lane passes, and OFF advances once. -/
def circular (s : State) (w : Warp) (g : Guard) (m : BitVec 3) (k : State) : State :=
  let r := w.mget m.toNat
  if (w.passing g).isEmpty then s.setWarp w.done
  else if modSize r = 0 || modSize r ≤ modOff r then s.trapFront w (.of 0x02)
  else k.modWarp w.agent fun v => v.mset m.toNat (modStep r)

/-- `ldm` (R353): a load through a modulo register. -/
def execLdm (g : Guard) (t : Ty) (d : BitVec 8) (m : BitVec 3) (x : Src) (s : State) : Out :=
  word (.ldm g t d m x) s fun w =>
    let addr := fun l => modAddr (w.mget m.toNat) (rdSrc w l false x)
    circular s w g m
      (memDo s w g (pendOf w d.toNat (if t.width ≤ 4 then 1 else t.width / 4))
        (loadLane w (s.boundMask w g .sp t.width addr) .sp t.width addr fun l v => l.putW d t.width (loadExt t v)))

/-- `stm` (R353): a store through a modulo register. -/
def execStm (g : Guard) (t : Ty) (d : BitVec 8) (m : BitVec 3) (x : Src) (s : State) : Out :=
  word (.stm g t d m x) s fun w =>
    let addr := fun l => modAddr (w.mget m.toNat) (rdSrc w l false x)
    circular s w g m (memDo s w g [] (storeLane w (s.boundMask w g .sp t.width addr) .sp t.width addr fun l => l.getW d t.width))

/-- `mset` (R354): a modulo register written whole, unchecked. -/
def execMset (g : Guard) (m : BitVec 3) (a : SSrc) (s : State) : Out :=
  word (.mset g m a) s fun w => groupwise s w g fun w => w.mset m.toNat (rdS w a)

/-- `mget` (R354): a modulo register read. -/
def execMget (g : Guard) (d : BitVec 6) (m : BitVec 3) (s : State) : Out :=
  word (.mget g d m) s fun w => groupwise s w g fun w => w.sset d.toNat (w.mget m.toNat)

/-! Acquire loads and release stores (R355) -/

/-- A version as a log record names it (R205, R437): the agent of the release that publishes it, that release's number, and whether it had not drained. -/
def State.verName (s : State) (v : Version) : Nat × Nat × Bool :=
  match v.pub with
  | .init => (0, 0, false)
  | .rel r => (((s.rel? r).map Release.tag).getD (s.agentTag r.agent), r.num, false)
  | .none => match v.writer with
    | some a => (s.agentTag a, (s.ord a).nrel + 1, true)
    | none => (0, 0, false)

/-- Whether the release that a record of a context's log names has drained (R209). -/
def State.relDrained (s : State) (c tag num : Nat) : Bool := num == 0 || s.rels.any fun r => r.ctx == some c && r.tag == tag && r.id.num == num

/-- What an acquire load comes to: a value, a wait, a trap, or a page that a lane parks for. -/
inductive Acq where
  | got (v : Nat)
  | hold (r : Wait)
  | trap (t : Trap)
  | park (page : Nat)
deriving DecidableEq, Repr

/-- The acquire load of width bytes by lane k at an address, logged under virtual lane vl with the part of the value that shown gives (R355, R437, R253). -/
def acqRead (w : Warp) (mask : Nat → Word32) (sp : Space) (width : Nat) (sc : Scope) (va vl : Nat) (shown : Nat → Nat) (s : State) (k : Nat) : State × Acq :=
  let a := w.agent
  if (s.ord a).hasRelease then (s, .hold .drain)
  else match s.check w k sp .load false false va width mask with
  | .error e => (s, .trap e)
  | .ok (tg, s1) =>
    let who := s.who a
    let gate := if tg.racy || tg.nolog || tg.frozen then .free else s.gate who 1 vl
    match gate with
    | .wait => (s.stalled who 1 vl, .hold (.log 1 vl))
    | .reserved => (s, .trap (s.divergence who.ctx 1))
    | _ => match (tg.fab.map s.side).getD .served with
      | .fails c => (s1.lineReq tg true, .trap (.at c va))
      | .absent p => (s1.lineReq tg true, .park p)
      | .hold p => (s, .hold (.page p va))
      | .served =>
        let r := s1.readAt a tg width false
        let v := (r.1.vers.headD ⟨0, none, .init, false⟩)
        let nm := s1.verName v
        let unpub := match gate with
          | .replay ra _ => bit ra 56
          | _ => nm.2.2
        let ready := match gate with
          | .replay ra rb => if bit ra 56 then nm.1 == bits ra 0 56 && nm.2.1 == bits rb 32 32 else s.relDrained who.ctx (bits ra 0 56) (bits rb 32 32)
          | _ => true
        if !ready then (s.stalled who 1 vl, .hold (.log 1 vl))
        else if r.1.poison then (s1.lineReq tg true, .trap (.at 0x14 va))
        else
          let ev := match gate with
            | .free => Except.ok r.2
            | _ => r.2.logEvent who 1 vl (unpub.toNat * 2 ^ 56 + nm.1) (nm.2.1 % 2 ^ 32 * 2 ^ 32 + shown r.1.val)
          match ev with
          | .error e => (s, .trap e)
          | .ok s2 => ((s2.acquire a sc (if unpub then [] else r.1.pubs)).sampled w k tg 1 (s1.servedBy a tg), .got r.1.val)

/-- One lane of an acquire load (R355). -/
def acqLane (w : Warp) (mask : Nat → Word32) (sp : Space) (t : AtomTy) (sc : Scope) (addr : Lane → Nat) (d : BitVec 8) (s : State) (k : Nat) :
    State × MFate :=
  let r := acqRead w mask sp t.bytes sc (addr (w.lane k)) k (fun v => v % 2 ^ 32) s k
  (r.1, match r.2 with
    | .got v => .fate (.done ((w.lane k).putW d t.bytes v) 0)
    | .hold x => .hold x
    | .trap e => .fate (.trap e)
    | .park p => .fate (.park p (addr (w.lane k))))

/-- `ldacq` (R355): an acquire load in each passing lane. -/
def execLdacq (g : Guard) (sp : Space) (t : AtomTy) (sc : Scope) (d : BitVec 8) (m : MemOpd) (s : State) : Out :=
  word (.ldacq g sp t sc d m) s fun w =>
    let addr := fun l => ea w l sp m t.bytes
    watched s w g sp .load false t.bytes addr
      (memDo s w g (if (w.passing g).isEmpty then [] else pendOf w d.toNat (t.bytes / 4))
        (acqLane w (s.boundMask w g sp t.bytes addr) sp t sc addr d))

/-- The deferred store record of a release's own write that fails at its issue, as its trap reports it (R39, R169). -/
def WriteOp.failTrap (w : WriteOp) (reason : Nat) : Trap := (⟨w.pc, w.vlane, w.ident, w.va, BitVec.ofNat 8 reason, false⟩ : DeferredRec).trap

/-- One lane of a release store (R173, R355, R169): it waits for the group's pending writes, and a deferred store record that one of them set traps it; its own write is looked at too: one that fails traps the
lane at the release, with neither write nor publication, and one that must wait for a page or for room waits here; else write and release join the outbox as one entry, with the room taken. -/
def relLane (w : Warp) (mask : Nat → Word32) (sp : Space) (width : Nat) (sc : Scope) (addr : Lane → Nat) (d : BitVec 8) (s : State) (k : Nat) :
    State × MFate :=
  let l := w.lane k
  let a := w.agent
  match s.check w k sp .store false false (addr l) width mask with
  | .error e => (s, .fate (.trap e))
  | .ok (t, s1) => match (s.warp? a).bind Warp.dsr with
    | some r => (s, .fate (.trap r.trap))
    | none =>
      if (s.ord a).hasWrite then (s, .hold .drain)
      else
        let op := writeOp l k t (l.getW d width)
        match t.place with
        | .lp _ _ _ => (s1.storeAt a l k t (l.getW d width), .fate (.done l 0))
        | .mem _ _ => match s1.writeSide op with
          | .waits p => (s, .hold (.page p (addr l)))
          | .noRoom => (s, .hold (s1.roomWait op))
          | .fails c => ((s1.walkLines op).chargeFailure a op c, .fate (.trap (op.failTrap c)))
          | .ready s2 => (((s2.push a (.release sc (some op)) true).publishFor a sp).sampled w k t 2 (s1.servedBy a t), .fate (.done l 0))

/-- `strel` (R355): a release store in each passing lane; a record that a lane's own write set has been taken by the traps (R169). -/
def execStrel (g : Guard) (sp : Space) (t : AtomTy) (sc : Scope) (d : BitVec 8) (m : MemOpd) (s : State) : Out :=
  word (.strel g sp t sc d m) s fun w =>
    let addr := fun l => ea w l sp m t.bytes
    watched s w g sp .store false t.bytes addr
      (releasingIf s w g fun s =>
        let r := memDo s w g [] (relLane w (s.boundMask w g sp t.bytes addr) sp t.bytes sc addr d)
        if (w.passing g).isEmpty then r else r.modWarp w.agent fun v => { v with dsr := none })

/-! Prefetch and range flush (R356, R357) -/

/-- One lane of a prefetch (R356): its line requests its home, and comes into the first-level cache unless it is for the home slice's only; one that would fault, is frozen or is unbacked does nothing. -/
def prefLane (w : Warp) (l2 : Bool) (sp : Space) (addr : Lane → Nat) (s : State) (k : Nat) : State :=
  match s.target w (w.lane k) sp .load false (addr (w.lane k)) 1 with
  | .error _ => s
  | .ok t => match t.fab with
    | none => if t.sampledPlace then s.requested w k t 1 (s.servedBy w.agent t) else s
    | some fa =>
      if t.frozen || !s.backed fa || s.side fa != .served then s
      else
        let s1 := s.requested w k t 1 (s.servedBy w.agent t)
        if l2 then s1 else (List.range 32).foldl (fun (s : State) j => s.fill w.agent (.fab (fa / 128 * 32 + j)) false) s1

/-- `pref` (R356): a line is moved towards the core in each passing lane; registers, memory and the order machine are left alone. -/
def execPref (g : Guard) (l2 : Bool) (sp : Space) (t : Ty) (m : MemOpd) (s : State) : Out :=
  word (.pref g l2 sp t m) s fun w => ((w.passing g).foldl (prefLane w l2 sp fun l => ea w l sp m t.width) s).setWarp w.done

/-- Whether an agent's outbox holds a write to fabric bytes. -/
def State.pendingIn (s : State) (a : Agent) (fa size : Nat) : Bool :=
  let hits := fun (w : WriteOp) => w.pieces.any fun p => match p.loc with
    | .fab x => decide (fa ≤ 4 * x) && decide (4 * x < fa + size)
    | _ => false
  (s.ord a).outbox.any fun e => match e.kind with
    | .write w => hits w
    | .release _ (some w) => hits w
    | _ => false

/-- The check of rflush (R357): the first cause that fails, or the fabric base. -/
def State.flushCheck (s : State) (w : Warp) (base size : Nat) : Except Nat Nat :=
  if base % 128 ≠ 0 || size % 128 ≠ 0 || size = 0 then .error 0x17
  else if bits base 56 8 ≠ 0 then .error 0x10
  else match (s.ctx (s.ctxOf w.agent)).range base size with
    | none => .error 0x10
    | some r => if r.rd then .ok (r.fabric base) else .error 0x11

/-- The dirty lines of a fabric range reach home storage (R198, R357): those of this package, and the host-homed lines that the device holds, which return to host memory. -/
def State.flushRange (s : State) (fa n : Nat) : State :=
  let lines := s.dirty.filter fun l => decide (fa < 128 * l + 128) && decide (128 * l < fa + n)
  let s1 := lines.foldl (fun (s : State) l => s.lineBack l fun _ => true) s
  { s1 with hostLines := s1.hostLines.filter fun p => !(decide (fa < 64 * p.1 + 64) && decide (64 * p.1 < fa + n)) }

/-- `rflush` (R357): the group waits until every covered store has reached its home storage. -/
def execRflush (g : Guard) (a b : SSrc) (s : State) : Out :=
  word (.rflush g a b) s fun w =>
    if (w.passing g).isEmpty then s.setWarp w.done
    else match s.flushCheck w (rdS w a).toNat (rdS w b).toNat with
      | .error c => s.trapFront w (.at c (rdS w a).toNat)
      | .ok fa => if s.pendingIn w.agent fa (rdS w b).toNat then s.setWarp (w.waiting s.now (.rflush fa (rdS w b).toNat))
        else (s.flushRange fa (rdS w b).toNat).setWarp w.done

/-! Atomics (R358 to R361) -/

/-- The release, the acquire and the release's write of an ordered atomic. -/
structure AtomOrd where
  rel : Option Scope
  acq : Option Scope
deriving DecidableEq, Repr

/-- The space and place of an atomic as an ATOM record gives them (R205). -/
def atomA (sp : Space) (t : Target) : Nat :=
  match sp with
  | .sp => 1 * 2 ^ 61 + t.va
  | .pm => 2 * 2 ^ 61 + t.va
  | .lp => 0 | .sh => t.fab.getD 0 | .g => t.fab.getD 0

/-- A write refused at its issue by the memory side of an atomic without return (R167). -/
def State.redFails (s : State) (fa : Nat) : Option Nat :=
  if !s.backed fa then some 0x14 else match s.pageState fa with
    | .present ro => if ro then some 0x11 else none
    | .absent => none
    | .unmapped => some 0x10
    | .poisoned => some 0x14

/-- The words of an atomic's target recalled from the cores they are registered to, to execute at their home; a host-homed line is held exclusive by the I/O die (R190). -/
def State.recall (s : State) (t : Target) : State :=
  match t.place with
  | .lp _ _ _ => s
  | .mem locs _ => { s with
    regd := s.regd.filter fun p => !(locs.contains (.fab p.1))
    hostLines := locs.foldl (fun (h : List (Nat × Option Nat)) l => match l with
      | .fab w => if hostHomed (4 * w) then alSet h (4 * w / 64) none else h
      | _ => h) s.hostLines }

/-- The length counters that the words of an atomic's target may belong to are compared, for the atomic has executed there (R120). -/
def State.wakeAt (s : State) (t : Target) : State :=
  match t.place with
  | .lp _ _ _ => s
  | .mem locs _ => locs.foldl (fun (s : State) l => match l with
    | .fab x => s.wakeCheck x
    | _ => s) s

/-- One lane of an atomic (R359, R361): its checks; at one that releases, a deferred store record that an earlier lane's write has set traps it as its own failed write does (R169); the waits for its own pending writes, older entries and the log; the memory side; then read, release, write at the home, acquire and record in one step (R190). logged says
whether the operation is logged (R206, R360), and upd gives the new value from the old, if one is written. -/
def atomLane (w : Warp) (mask : Nat → Word32) (sp : Space) (width : Nat) (addr : Lane → Nat) (ret flt logged : Bool) (o : AtomOrd) (upd : Lane → Nat → Option Nat)
    (put : Lane → Nat → Lane) (s : State) (k : Nat) : State × MFate :=
  let l := w.lane k
  let a := w.agent
  let kd := if ret then Kind.atom else .red
  let fails := fun (s : State) (op : WriteOp) (c : Nat) => (s.chargeFailure a op c, MFate.fate (if o.rel.isSome then .trap (op.failTrap c) else .done l 0))
  match s.check w k sp kd flt false (addr l) width mask with
  | .error e => (s, .fate (.trap e))
  | .ok (t, s1) => match if o.rel.isSome then (s.warp? a).bind Warp.dsr else none with
   | some r => (s, .fate (.trap r.trap))
   | none =>
    if s.pendingAt a t || (o.rel.isSome && !(s.ord a).outbox.isEmpty) || (o.acq.isSome && (s.ord a).hasRelease) then (s, .hold .drain)
    else
      let who := s.who a
      let logs := logged && !t.racy && !t.nolog && !t.frozen
      match if logs then s.gate who 2 k else .free with
      | .wait => (s.stalled who 2 k, .hold (.log 2 k))
      | .reserved => (s, .fate (.trap (s.divergence who.ctx 2)))
      | _ =>
        match (t.fab.map s.side).getD .served with
        | .hold p => (s, .hold (.page p (addr l)))
        | .absent p => if ret then (s1.lineReq t true, .fate (.park p (addr l))) else (((t.fab.map s.touch).getD s), .hold (.page p (addr l)))
        | .fails c =>
          if ret then (s1.lineReq t true, .fate (.trap (.at c (addr l))))
          else fails (s1.lineReq t true) (writeOp l k t 0) c
        | .served =>
          match if ret then none else t.fab.bind s.redFails with
          | some c => fails (s1.lineReq t true) (writeOp l k t 0) c
          | none =>
            let r := s1.readAt a t width false
            if r.1.poison then (s1.lineReq t true, .fate (.trap (.at 0x14 (addr l))))
            else
              let op := (upd l r.1.val).map fun v => writeOp l k t v
              match (op.map r.2.roomFor).getD (some r.2) with
              | none => (s, .hold ((op.map r.2.roomWait).getD .drain))
              | some s2 =>
                let rl := match o.rel with
                  | some sc => let x := s2.releaseNow a sc; (Pub.rel x.1, x.2.closeRegion a (x.2.ord a).region)
                  | none => (Pub.none, s2)
                let s3 := (op.map fun w => rl.2.applyAt a w rl.1 none).getD ((rl.2.recall t).wakeAt t)
                let s4 := match o.acq with
                  | some sc => s3.acquire a sc r.1.pubs
                  | none => s3
                match if logs then s4.logEvent who 2 k (atomA sp t) (if ret then r.1.val else 0) else .ok s4 with
                | .error e => (s, .fate (.trap e))
                | .ok s5 => (((s5.crossAtom a l k t width ret).publishFor a sp).sampled w k t 3 (s1.servedBy a t), .fate (.done (put l r.1.val) 0))

/-- An atomic instruction; one that releases first meets R169, and a record that its own write set has been taken by the traps. -/
def atomic (s : State) (w : Warp) (g : Guard) (sp : Space) (width : Nat) (addr : Lane → Nat) (ret flt logged : Bool) (o : AtomOrd) (upd : Lane → Nat → Option Nat) (pd : List Pend)
    (put : Lane → Nat → Lane) : State :=
  watched s w g sp (if ret then .atom else .red) flt width addr
    (let run := fun (s : State) => memDo s w g (if (w.passing g).isEmpty then [] else pd)
      (atomLane w (s.boundMask w g sp width addr) sp width addr ret flt logged o upd put)
     match o.rel with
     | some _ => releasingIf s w g fun s => if (w.passing g).isEmpty then run s else (run s).modWarp w.agent fun v => { v with dsr := none }
     | none => run s)

/-- `atom` (R358 to R360): the old value is returned. -/
def execAtom (g : Guard) (o : AtomOp) (ord : Option Scope) (sp : Space) (t : AtomTy) (d : BitVec 8) (m : MemOpd) (s : State) : Out :=
  word (.atom g o ord sp t d m) s fun w =>
    atomic s w g sp t.bytes (fun l => ea w l sp m t.bytes) true t.float true ⟨ord, ord⟩ (fun l old => some (atomNew o t old (l.getW d t.bytes)))
      (pendOf w d.toNat (t.bytes / 4)) fun l v => l.putW d t.bytes v

/-- `red` (R358 to R360): nothing is returned. -/
def execRed (g : Guard) (o : AtomOp) (ord : Option Scope) (sp : Space) (t : AtomTy) (d : BitVec 8) (m : MemOpd) (s : State) : Out :=
  word (.red g o ord sp t d m) s fun w =>
    atomic s w g sp t.bytes (fun l => ea w l sp m t.bytes) false t.float (!o.commutes t) ⟨ord, none⟩ (fun l old => some (atomNew o t old (l.getW d t.bytes)))
      [] fun l _ => l

/-- The release and the acquire of a cas's order (R361). -/
def casOrd : CasOrd → AtomOrd
  | .none => ⟨none, none⟩ | .acq s => ⟨none, some s⟩ | .rel s => ⟨some s, none⟩ | .acqrel s => ⟨some s, some s⟩

/-- `cas` (R361): compare and swap, bit by bit. -/
def execCas (g : Guard) (ord : CasOrd) (sp : Space) (t : BitTy) (d : BitVec 8) (a : Src) (off : BitVec 10) (b : Src) (s : State) : Out :=
  word (.cas g ord sp t d a off b) s fun w =>
    atomic s w g sp t.bytes (fun l => eaCas w l sp a off t.bytes) true false true (casOrd ord)
      (fun l old => if old = rdSrc w l t.is64 b then some (l.getW d t.bytes) else none)
      (pendOf w d.toNat (t.bytes / 4)) fun l v => l.putW d t.bytes v

/-! Fences (R362, R177) -/

/-- `fence` (R362): an acquire from every version read since the last acquire, a release, or both. -/
def execFence (g : Guard) (k : FenceKind) (sc : Scope) (s : State) : Out :=
  word (.fence g k sc) s fun w =>
    let a := w.agent
    if (w.passing g).isEmpty then s.setWarp w.done
    else match k with
      | .rel => releasing s w fun s => (s.release a sc).setWarp w.done
      | .acq => if s.fenceWaits a then s.setWarp (w.waiting s.now .drain) else (s.acquire a sc (s.readRels a)).setWarp w.done
      | .full => releasing s w fun s =>
        if !(s.ord a).outbox.isEmpty || s.fenceWaits a then s.setWarp (w.waiting s.now .drain)
        else
          let r := s.releaseNow a sc
          (r.2.acquire a sc (r.2.readRels a)).setWarp w.done

/-! Freeze and thaw (R193 to R197, R363) -/

/-- The fabric base of a range that a freeze accepts (R193). -/
def State.freezeBase (s : State) (c base size : Nat) : Option Nat :=
  if base % 4096 ≠ 0 || size % 4096 ≠ 0 || size = 0 || bits base 56 8 ≠ 0 then none
  else match (s.ctx c).range base size with
    | none => none
    | some r => if r.rd && !hostHomed r.fbase then some (r.fabric base) else none

/-- A of the FRZ record of a freeze or thaw settled at issue (R205): the fabric base, or bits of the virtual base with bit 62 where no valid range translates it. -/
def State.frzA (s : State) (c base : Nat) : Nat :=
  match (s.ctx c).range base 1 with
  | some r => bits (r.fabric base) 0 52
  | none => 2 ^ 62 + bits base 0 52

/-- A freeze or thaw settled at issue (R363): its result written and logged, or it waits on the log. -/
def settleFrz (s : State) (w : Warp) (d : BitVec 6) (a b : Nat) : State :=
  let who := s.who w.agent
  match s.gate who 6 0 with
  | .wait => (s.stalled who 6 0).setWarp (w.waiting s.now (.log 6 0))
  | _ => match s.logEvent who 6 0 a b with
    | .error t => s.trapFront w t
    | .ok s1 => s1.setWarp (w.sset d.toNat (BitVec.ofNat 64 b)).done

/-- `freeze` (R363): refused at issue, or it joins the outbox and the group waits for its result. -/
def execFreeze (g : Guard) (d : BitVec 6) (a b : SSrc) (s : State) : Out :=
  word (.freeze g d a b) s fun w =>
    let c := s.ctxOf w.agent
    let base := (rdS w a).toNat
    if (w.passing g).isEmpty then s.setWarp w.done
    else if w.wait == some (.freeze d) then s
    else match s.freezeBase c base (rdS w b).toNat with
      | none => settleFrz s w d (s.frzA c base) 2
      | some fa => releasing s w fun s =>
        (s.push w.agent (.freeze fa (rdS w b).toNat (BitVec.ofNat 64 base) w.frontPc) true).setWarp (w.waiting s.now (.freeze d))

/-- `thaw` (R363): no match at issue, or it joins the outbox and the group waits until it has drained. -/
def execThaw (g : Guard) (d : BitVec 6) (a b : SSrc) (s : State) : Out :=
  word (.thaw g d a b) s fun w =>
    let c := s.ctxOf w.agent
    let base := (rdS w a).toNat
    if (w.passing g).isEmpty then s.setWarp w.done
    else if w.wait == some (.thaw d) then s
    else match s.freezeBase c base (rdS w b).toNat with
      | none => settleFrz s w d (2 ^ 63 + s.frzA c base) (2 ^ 64 - 1)
      | some fa => releasing s w fun s =>
        (s.push w.agent (.thaw fa (rdS w b).toNat) true).setWarp (w.waiting s.now (.thaw d))

end Machine

end Sys2Proof
end

