-- ==== Sys2Proof/Machine/Attn.lean ====
section
/-!
DEFINITION. Attention and the key-value helpers (R243 to R257, R263, R382 to R386): descriptors and frames, attn with its list entries, rescale, attn.close, slot, btswap, and the retirement of
frames.
-/

namespace Sys2Proof.Machine

/-! Descriptors (R243, R244), as 256-bit numbers -/

/-- KFRAME. -/
def descKF (d : Nat) : Nat := bits d 0 64
/-- VFRAME. -/
def descVF (d : Nat) : Nat := bits d 64 64
/-- SURV. -/
def descSurv (d : Nat) : Nat := bits d 128 64
/-- MASS. -/
def descMass (d : Nat) : Nat := bits d 192 32
/-- KTAG. -/
def descKT (d : Nat) : Nat := bits d 224 4
/-- VTAG. -/
def descVT (d : Nat) : Nat := bits d 228 4
/-- GEN. -/
def descGen (d : Nat) : Nat := bits d 240 16

/-- Whether a frame address may stand beside a non-zero tag. -/
def frameOk (f : Nat) : Bool := bits f 52 12 == 0 && bits f 0 8 == 0

/-- A well-formed descriptor (R244). -/
def descWf (d : Nat) : Bool :=
  (descKT d == 0) == (descVT d == 0) && decide (descKT d < 8) && decide (descVT d < 8) && (descKT d == 0 || (frameOk (descKF d) && frameOk (descVF d)))

/-! Frames (R245, R246) -/

/-- How a frame's scales are laid out. -/
inductive FScale where
  | none | page | block
deriving DecidableEq, Repr

/-- The element format, its width and its scales by tag (R245). -/
def tagFmt (t : Nat) : FFmt × Nat × FScale :=
  match t with
  | 1 => (.bf16, 16, .none)
  | 2 => (.e4m3, 8, .page)
  | 3 => (.e2m3, 6, .block)
  | 4 => (.e2m1, 4, .block)
  | 5 => (.f16, 16, .none)
  | 6 => (.e5m2, 8, .page)
  | _ => (.e4m3, 8, .block)

/-- Bytes of a frame's elements (R245). -/
def frameElems (t dim : Nat) : Nat := 8 * dim * (tagFmt t).2.1

/-- Bytes of a frame. -/
def frameBytes (t dim : Nat) : Nat :=
  frameElems t dim + (match (tagFmt t).2.2 with
    | .none => 0
    | .page => 256
    | .block => 8 * dim)

/-- Storage element e of a K frame: slot and channel (R246). -/
def kElem (dim s i : Nat) : Nat := s * dim + i
/-- Storage element e of a V frame. -/
def vElem (s i : Nat) : Nat := i * 64 + s

/-- Element e of a frame image. -/
def frameElem (t img e : Nat) : FV := (tagFmt t).1.dec (bits img ((tagFmt t).2.1 * e) (tagFmt t).2.1)

/-- The byte offset of the scale word that serves element e, if there is one. -/
def scaleOff (t dim e : Nat) : Option Nat :=
  match (tagFmt t).2.2 with
  | .none => none
  | .page => some (frameElems t dim)
  | .block => some (frameElems t dim + 4 * (e / 32))

/-- The scale of element e of a frame image. -/
def frameScale (t dim img e : Nat) : Option Dy :=
  match scaleOff t dim e with
  | none => some Dy.one
  | some o => scaleOf (bits img (8 * o) 32)

/-- The word numbers of a frame that hold element e and its scale. -/
def elemWords (t dim e : Nat) : List Nat :=
  let w := (tagFmt t).2.1
  [w * e / 32, (w * e + w - 1) / 32] ++ (scaleOff t dim e).toList.map (· / 4)

/-- A frame read plainly by an agent, by fabric address (R382, R261): its image, and a mask of its poisoned words. -/
def State.readFrame (s : State) (a : Agent) (fa n : Nat) : Nat × Nat × State :=
  (List.range (n / 4)).foldl (fun (x : Nat × Nat × State) j =>
    let r := x.2.2.readWord a (.fab (fa / 4 + j)) 15 true false false
    (x.1 + (r.1.val.toNat % 2 ^ 32) * 2 ^ (32 * j), x.2.1 + (if r.1.ver.poison then 2 ^ j else 0), r.2)) (0, 0, s)

/-- The memory side's answer for a run of fabric bytes, page by page (R167). -/
def State.runSide (s : State) (fa n : Nat) : Side :=
  ((List.range (n / 65536 + 2)).map fun j => if fa / 65536 + j ≤ (fa + n - 1) / 65536 then s.side (if j = 0 then fa else (fa / 65536 + j) * 65536) else .served).foldl
    (fun (r : Side) x => if r == .served then x else r) .served

/-- Whether every byte of a run is backed (R17). -/
def State.runBacked (s : State) (fa n : Nat) : Bool := s.backed fa && s.backed (fa + n - 1)

/-! Kept tokens (R247, R254) -/

/-- The packed slot of a token (R247). -/
def slotOf (surv t : Nat) : Nat := ((List.range t).filter fun j => bit surv j).length

/-- The slots of the kept tokens of page j below a limit, ascending (R254); the limit 0xFFFF_FFFF attends all (R252). -/
def keptSlots (surv j limit : Nat) : List Nat :=
  (((List.range 64).filter fun t => bit surv t).zipIdx.filter fun p => limit == 0xFFFFFFFF || decide (64 * j + p.1 ≤ limit)).map Prod.snd

/-! Scores and sums (R254) -/

/-- Whether MRUN exceeds MREF + 8, exactly: the excess over MREF, for a finite pair (R254, R256). -/
def excess (mrun mref : Nat) : Option Dy :=
  match FFmt.f32.dec mrun, FFmt.f32.dec mref with
  | .fin a m e, .fin b n f =>
    let d := (FV.fin a m e).dy.add (FV.fin b n f).dy.neg
    if Dy.lt ⟨8, 0⟩ d then some d else none
  | _, _ => none

/-- S of one query against one slot (R254). -/
def scoreOf (q : List FV) (t dim img s : Nat) : Nat × Nat :=
  let blocks := (List.range (dim / 32)).map fun b =>
    (⟨(List.range 32).map fun i => (q.getD (32 * b + i) (.fin false 0 0), frameElem t img (kElem dim s (32 * b + i))),
      frameScale t dim img (kElem dim s (32 * b)), some Dy.one⟩ : MBlock)
  let r := FFmt.f32.accBlocks 0 none blocks
  (r.1.getD 0, r.2)

/-- What attn holds of a row while it works: its x values by slot, and flags. -/
structure RowX where
  xs : List (Nat × Nat)
  fl : Nat
deriving DecidableEq, Repr

/-- x of every kept slot of a row (R254). -/
def rowX (q : List FV) (c t dim img : Nat) (ss : List Nat) : RowX :=
  ss.foldl (fun (r : RowX) s =>
    let sc := scoreOf q t dim img s
    let x := FFmt.f32.mul .rne sc.1 c
    ⟨r.xs ++ [(s, x.1)], r.fl ||| sc.2 ||| x.2⟩) ⟨[], 0⟩

/-- Whether an x is treated as a NaN (R254). -/
def xNan (x : Nat) : Bool := (FFmt.f32.dec x).isNan || FFmt.f32.dec x == .inf false

/-- -∞ in binary32. -/
def negInf : Nat := 0xFF800000

/-- A row of the state tile after the x values of an entry: MREF, MRUN, FLAGS (R254). -/
def rowAfterX (row : List Word32) (xs : List (Nat × Nat)) : List Word32 :=
  let m := xs.foldl (fun m x => if xNan x.2 then m else (FFmt.f32.minmax true false m x.2).1) negInf
  let mref := (row.getD 0 0).toNat
  let mref' := if mref = negInf ∧ m ≠ negInf then m else mref
  let mrun := (FFmt.f32.minmax true false (row.getD 1 0).toNat m).1
  let fl := if xs.any fun x => xNan x.2 then row.getD 3 0 ||| 2 else row.getD 3 0
  ((row.set 0 (BitVec.ofNat 32 mref')).set 1 (BitVec.ofNat 32 mrun)).set 3 fl

/-- P of an x against MREF: the value in bf16 and its flags (R254). -/
def probOf (x mref : Nat) : Nat × Nat :=
  if FFmt.f32.dec x == .inf false then (0x7FC0, 0)
  else
    let d := FFmt.f32.sub .rne x mref
    match FFmt.f32.dec d.1 with
    | .nan _ _ _ => (0x7FC0, d.2)
    | .inf n => (if n then 0 else 0x7F80, d.2)
    | .fin n m e =>
      if m = 0 then (0x3F80, d.2)
      else
        let r := exp2Fin .rne n (Dy.frac ⟨m, e⟩).1 (Dy.frac ⟨m, e⟩).2 .bf16
        (r.1, r.2 ||| d.2)

/-- The row sum of P (R254). -/
def psumOf (ps : List (Nat × Nat)) : Nat × Nat :=
  if ps.any fun p => (FFmt.bf16.dec p.2).isNan then (0x7FC00001, 0)
  else if ps.any fun p => FFmt.bf16.dec p.2 == .inf false then (FFmt.f32.infCode, 0)
  else FFmt.f32.roundDy .rne (ps.foldl (fun (t : Dy) p => t.add (FFmt.bf16.dec p.2).dy) Dy.zero) false

/-- O[r,i] after an entry: blocks of 32 slots of P against V (R254). -/
def outElem (ps : List (Nat × Nat)) (t dim img i old : Nat) : Nat × Nat :=
  let blocks := [0, 32].filterMap fun lo =>
    let here := ps.filter fun p => decide (lo ≤ p.1) && decide (p.1 < lo + 32)
    if here.isEmpty then none
    else some (⟨here.map fun p => (FFmt.bf16.dec p.2, frameElem t img (vElem p.1 i)), frameScale t dim img (vElem lo i), some Dy.one⟩ : MBlock)
  let r := FFmt.f32.accBlocks 0 (some old) blocks
  (r.1.getD old, r.2)

/-! attn (R252 to R255, R382) -/

/-- The tiles of an attn: the state tile and the output tiles. -/
def attnTiles (d dim : Nat) : List Nat := (List.range (dim / 32 + 1)).map fun j => d + j

/-- The rows of a tile as lists. -/
def Tile.rows (x : Tile) : List (List Word32) := (List.range 32).map fun i => (x.data.drop (32 * i)).take 32

/-- A tile from rows of words. -/
def Tile.withRows (x : Tile) (rows : List (List Word32)) : Tile := { x with data := rows.flatten }

/-- Whether an attn under way holds a snapshot that names a frame (R263). -/
def State.frameHeld (s : State) (f : Nat) : Bool :=
  s.trays.any fun t => t.warps.any fun w => w.attns.any fun r => r.snaps.any fun x => descKT x.desc.toNat != 0 && (descKF x.desc.toNat == f || descVF x.desc.toNat == f)

/-! Page lists (R263) -/

/-- HEAD of a page list at a fabric address. -/
def State.listHead (s : State) (fa : Nat) : Nat := memRead s.mem fa 8
/-- TAIL. -/
def State.listTail (s : State) (fa : Nat) : Nat := memRead s.mem (fa + 8) 8
/-- LOG2. -/
def State.listLog (s : State) (fa : Nat) : Nat := memRead s.mem (fa + 16) 8

/-- Whether a list has no room. -/
def State.listFull (s : State) (fa : Nat) : Bool := decide (s.listTail fa - s.listHead fa ≥ 2 ^ s.listLog fa)

/-- An entry added at TAIL of a list that has room (R263). -/
def State.listAdd (s : State) (fa e : Nat) : State :=
  let n := s.listTail fa
  (s.devWrite (fa + 64 + 8 * (n % 2 ^ s.listLog fa)) 8 e).devWrite (fa + 8) 8 (n + 1)

/-- Whether a frame to be retired still has a reader. -/
def State.retireHeld (s : State) (r : Retire) : Bool := s.frameHeld (bits r.entry.toNat 8 44 * 256)

/-- The frames that wait for their readers and have none left join the retire ring, oldest first, while it has room; each entry once (R263). -/
def State.retireReady (s : State) : State :=
  let x := s.retires.foldl (fun (p : State × List Retire) r => if p.1.retireHeld r || p.1.listFull r.ring then (p.1, p.2 ++ [r]) else (p.1.listAdd r.ring r.entry.toNat, p.2)) (s, [])
  { x.1 with retires := x.2 }

/-- An attn of a group changed by f: the one whose state tile is n. -/
def Warp.modAttn (w : Warp) (n : Nat) (f : AttnRun → AttnRun) : Warp := { w with attns := w.attns.map fun r => if r.tile == n then f r else r }

/-- The attn of a group on state tile n ends or is abandoned: its tiles are no longer held, its snapshots are given up (R255, R263). -/
def State.dropAttn (s : State) (a : Agent) (n : Nat) : State :=
  match s.warp? a, s.trayOf a with
  | some w, some t => match w.attns.find? fun r => r.tile == n with
    | none => s
    | some r => (((s.modTiles t.launch t.idx (attnTiles r.tile r.dim) fun _ x => if x.held == some a.groupNo then { x with held := none, pending := false } else x).modWarp a
        fun w => { w with attns := w.attns.filter fun x => x.tile != n }).retireReady)
  | _, _ => s

/-- An entry of an attn traps: the lanes that issued it and are still Ready trap at it, so that a resume issues it again from its start; the entries completed before stand (R254, R382, log entry 58:
DEDUCED). -/
def State.attnTrap (s : State) (a : Agent) (r : AttnRun) (e : Trap) : State :=
  let s1 := s.dropAttn a r.tile
  match s1.warp? a with
  | none => s1
  | some w =>
    let ks := w.ready.filter fun k => inMask r.front k
    s1.trapLanes (w.mapLanes ks fun _ l => { l with pc := r.pc, frame := r.frame }) (ks.map fun k => (k, e))

/-- The state of a finished run of snapshots: the tiles claimed, held and initialised; the group goes on, and its entries run (R253, R255). -/
def attnInit (s : State) (w : Warp) (t : Tray) (r : AttnRun) : State :=
  let ns := attnTiles r.tile r.dim
  let s1 := (s.claim w t ns).modTiles t.launch t.idx ns fun n x =>
    let y := { x with held := some w.agent.groupNo, pending := false }
    if n = r.tile then
      { y.withRows (x.rows.map fun row => [row.getD 0 0, BitVec.ofNat 32 negInf, 0, 0, row.getD 4 0] ++ List.replicate 27 0) with
        last := some ⟨r.table, r.dim, r.snaps.map fun d => (d.idx, descKT d.desc.toNat == 0)⟩ }
    else { y with data := List.replicate 1024 0 }
  let s2 := s1.setWarp { w.done with attns := w.attns ++ [{ r with runs := true }] }
  if r.list.isEmpty then s2.dropAttn w.agent r.tile else s2

/-- The snapshots of the list entries that are still to be taken, in list order, by acquire loads at device scope (R253); then the check of R244 on them. The group w is without this attn, which it keeps
while it waits. -/
def attnSnaps (w : Warp) (t : Tray) (r : AttnRun) : List Nat → List Snap → State → State
  | [], done, s =>
    let r' := { r with snaps := done }
    if done.any fun d => !descWf d.desc.toNat then s.trapFront w (.of 0x48)
    else attnInit s w t r'
  | j :: js, done, s =>
    match acqRead w w.frontMask .g 32 .device ((r.table.toNat + 32 * j) % 2 ^ 64) 0 (fun v => bits v 224 32) s (w.front.headD 0) with
    | (s1, .got v) => attnSnaps w t r js (done ++ [⟨j, BitVec.ofNat 256 v⟩]) s1
    | (s1, .trap e) => s1.trapFront w e
    | (s1, .hold x) => s1.setWarp { (w.waiting s.now x) with attns := w.attns ++ [{ r with snaps := done }] }
    | (s1, .park p) => s1.setWarp { (w.waiting s.now (.page p ((r.table.toNat + 32 * j) % 2 ^ 64))) with attns := w.attns ++ [{ r with snaps := done }] }

/-- The entries of a page list (R253): up to 16, ended by the first 0xFFFF_FFFF. -/
def listEntries (v : Nat) : List Nat := ((List.range 16).map fun k => bits v (32 * k) 32).takeWhile (· != 0xFFFFFFFF)

/-- The checks of every snapshot load, before any is made (R382): the first failure. -/
def snapChecks (w : Warp) (table : Nat) : List Nat → State → Option Trap
  | [], _ => none
  | j :: js, s =>
    match s.check w (w.front.headD 0) .g .load false false ((table + 32 * j) % 2 ^ 64) 32 w.frontMask with
    | .error e => some e
    | .ok (_, s1) => snapChecks w table js s1

/-- `attn` (R252, R253, R382): the checks, the list, the snapshots; then the group goes on while it takes effect one entry at a time, beside other attns of the group on other tiles. -/
def execAttn (g : Guard) (dim : BitVec 3) (d : BitVec 6) (a : BitVec 8) (b c : SSrc) (s : State) : Out :=
  let dm := 32 * (dim.toNat + 1)
  let ns := attnTiles d.toNat dm
  onTiles (.attn g dim d a b c) s g ns fun w t => match s.launchOf w.agent with
    | none => s
    | some la =>
      owning s w t [] ns (match w.attns.find? fun r => !r.runs with
        | some r => attnSnaps { w with attns := w.attns.filter AttnRun.runs } t r (r.list.drop r.snaps.length) r.snaps s
        | none =>
          let off := (rdS w c).toNat / 2 ^ 32
          if la.f.spBytes < off + 64 then s.trapFront w (accessTrap w.frontMask 0x20 off off)
          else if off % 64 ≠ 0 then s.trapFront w (.at 0x17 off)
          else if s.spPoison la.id t.idx off 64 then s.trapFront w (.at 0x14 off)
          else match s.trackSp w la t.idx [(off, 64)] off with
            | .error e => s.trapFront w e
            | .ok s1 =>
              let r := s1.readSp w.agent la t.idx off 64
              let js := listEntries r.1
              let query := (List.range 32).map fun k => (w.lane k).rget a.toNat (dm / 2)
              match s.hitHalt w .g .load 32 (js.map fun j => ((rdS w b).toNat + 32 * j) % 2 ^ 64) with
              | some n => s.haltHit w 0x51 n
              | none => match snapChecks w (rdS w b).toNat js r.2 with
              | some e => r.2.trapFront w e
              | none => attnSnaps w t ⟨w.frontPc, (w.lane (w.front.headD 0)).frame, maskOf w.front, d.toNat, dm, query, (rdS w c).setWidth 32, rdS w b, js, [], false, 0, false, []⟩ js [] r.2)

/-- The query of a row: D bf16 channels, as its registers held them when attn issued (R382). -/
def queryOf (r : AttnRun) (i : Nat) : List FV := (List.range r.dim).map fun j => FFmt.bf16.dec (bits (r.query.getD i 0) (16 * j) 16)

/-- The entry of an attn ends: the next one, or the end (R255). -/
def State.attnNext (s : State) (a : Agent) (r : AttnRun) : State :=
  if r.next + 1 < r.list.length then s.modWarp a fun w => w.modAttn r.tile fun x => { x with next := r.next + 1, hold := false, xs := [] }
  else s.dropAttn a r.tile

/-- The poisoned words of a frame that some kept slots need. -/
def poisonMet (t dim pm : Nat) (es : List Nat) : Bool := pm != 0 && es.any fun e => (elemWords t dim e).any fun j => bit pm j

/-- The second half of an entry (R254): from the formation of P. -/
def attnP (s : State) (w : Warp) (t : Tray) (r : AttnRun) (d : Snap) (xs : List (Nat × Nat × Word32)) (vimg : Nat) : State :=
  let vt := descVT d.desc.toNat
  let st := t.tile r.tile
  let perRow := (List.range 32).map fun i => (xs.filter fun x => x.1 == i).map fun x => (x.2.1, x.2.2.toNat)
  let probs := (st.rows.zip perRow).map fun p => p.2.map fun x => (x.1, probOf x.2 (p.1.getD 0 0).toNat)
  let ps := probs.map fun l => l.map fun x => (x.1, x.2.1)
  let fp := probs.foldl (fun f l => l.foldl (fun f x => f ||| x.2.2) f) 0
  let sums := ps.map psumOf
  let rows := (st.rows.zip sums).map fun p =>
    let l := FFmt.f32.accum (p.1.getD 2 0).toNat p.2.1
    ((p.1.set 2 (BitVec.ofNat 32 l.1)).set (16 + r.next) (BitVec.ofNat 32 p.2.1), l.2 ||| p.2.2)
  let outs := (List.range (r.dim / 32)).map fun k =>
    ((t.tile (r.tile + 1 + k)).rows.zip ps).map fun p =>
      p.1.zipIdx.map fun x => if p.2.isEmpty then (x.1.toNat, 0) else outElem p.2 vt r.dim vimg (32 * k + x.2) x.1.toNat
  let fl := outs.foldl (fun f o => f ||| rowFlags o) (rows.foldl (fun f x => f ||| x.2) fp)
  let s1 := s.modTiles t.launch t.idx (attnTiles r.tile r.dim) fun n x =>
    if n = r.tile then x.withRows (rows.map Prod.fst)
    else x.withRows ((outs.getD (n - r.tile - 1) []).map fun row => row.map fun e => BitVec.ofNat 32 e.1)
  (s1.modWarp w.agent fun v => v.raise fl).attnNext w.agent r

/-- The frames of an entry read for some slots: their images, or why the entry cannot go on (R254, R382). -/
inductive FramesIn where
  | ok (k v : Nat) (s : State)
  | wait
  | trap (t : Trap)

/-- The frames of a snapshot read by a group (R382): unbacked, failed and poisoned words trap, absent pages wait. -/
def State.attnFrames (s : State) (a : Agent) (dim d : Nat) (slots : List Nat) : FramesIn :=
  let kn := frameBytes (descKT d) dim
  let vn := frameBytes (descVT d) dim
  let both := [(descKF d, kn), (descVF d, vn)]
  match both.find? fun p => !s.runBacked p.1 p.2 with
  | some p => .trap (.at 0x10 p.1)
  | none =>
    let sides := both.map fun p => (p.1, s.runSide p.1 p.2)
    match sides.find? fun p => p.2 != .served with
    | some (f, .fails c) => .trap (.at c f)
    | some _ => .wait
    | none =>
      let k := s.readFrame a (descKF d) kn
      let v := k.2.2.readFrame a (descVF d) vn
      let chans := List.range dim
      if poisonMet (descKT d) dim k.2.1 ((slots.map fun sl => chans.map fun i => kElem dim sl i).flatten) then .trap (.at 0x14 (descKF d))
      else if poisonMet (descVT d) dim v.2.1 ((slots.map fun sl => chans.map fun i => vElem sl i).flatten) then .trap (.at 0x14 (descVF d))
      else .ok k.1 v.1 (v.2.2.walkFor (descKF d) |>.walkFor (descVF d))

/-- One list entry of an attn (R254): the x values, the boundary check, and P and the sums unless a row waits for rescale. -/
def attnEntryGo (s : State) (w : Warp) (t : Tray) (r : AttnRun) : State :=
  match r.snaps[r.next]? with
  | none => s
  | some d =>
    let x := d.desc.toNat
    let st := t.tile r.tile
    if r.hold && st.pending then s
    else if descKT x = 0 then s.attnNext w.agent r
    else
      let slots := st.rows.map fun row => keptSlots (descSurv x) d.idx (row.getD 4 0).toNat
      match s.attnFrames w.agent r.dim x (slots.foldl union []) with
      | .wait => s
      | .trap e => s.attnTrap w.agent r e
      | .ok kimg vimg s1 =>
        if r.hold then attnP s1 w t r d r.xs vimg
        else
          let xr := slots.zipIdx.map fun p => rowX (queryOf r p.2) r.scale.toNat (descKT x) r.dim kimg p.1
          let rows := (st.rows.zip xr).map fun p => rowAfterX p.1 p.2.xs
          let fl := xr.foldl (fun f y => f ||| y.fl) 0
          let xs := (xr.zipIdx.map fun p => p.1.xs.map fun y => (p.2, y.1, (BitVec.ofNat 32 y.2 : Word32))).flatten
          let hold := rows.any fun row => (excess (row.getD 1 0).toNat (row.getD 0 0).toNat).isSome
          let s2 := (s1.modTiles t.launch t.idx [r.tile] fun _ y => { y.withRows rows with pending := hold }).modWarp w.agent fun v => v.raise fl
          if hold then s2.modWarp w.agent fun v => v.modAttn r.tile fun y => { y with hold := true, xs := xs }
          else match s2.tray? t.launch t.idx with
            | some t2 => attnP s2 w t2 r d xs vimg
            | none => s2

/-- Whether an attn can do nothing now: it holds for rescale, or a page of its entry's frames is to come (R254, R255). -/
def State.attnWaits (s : State) (a : Agent) (t : Tray) (r : AttnRun) : Bool :=
  (r.hold && (t.tile r.tile).pending) || (match r.snaps[r.next]? with
    | none => true
    | some d => descKT d.desc.toNat != 0 && (match s.attnFrames a r.dim d.desc.toNat [] with
      | .wait => true
      | .ok _ _ _ => false
      | .trap _ => false))

/-- ATTN_ENTRY: the next list entry of a resident group's attn takes effect (R254, R255), the oldest of the group's attns that can go on; where there is none, nothing happens. The attns of a group that has
exited are abandoned. -/
def execAttnEntry (a : Agent) (s : State) : Out :=
  .next (match s.warp? a, s.trayOf a with
    | some w, some t =>
      if w.gone then w.attns.foldl (fun (s : State) r => s.dropAttn a r.tile) s
      else if s.stands w then s
      else match w.attns.find? fun r => r.runs && !s.attnWaits a t r with
        | some r => attnEntryGo s w t r
        | none => s
    | _, _ => s)

/-! rescale (R256, R383) -/

/-- A state row and its output rows rescaled, with flags (R256). -/
def rescaleRow (row : List Word32) (outs : List (List Word32)) : List Word32 × List (List Word32) × Nat :=
  match excess (row.getD 1 0).toNat (row.getD 0 0).toNat with
  | none => (row, outs, 0)
  | some d =>
    let n := (d.frac.1 + 8 * d.frac.2 - 1) / (8 * d.frac.2)
    let sc := fun (x : Word32) => FFmt.f32.scale .rne x.toNat (-(8 * n : Nat))
    let mref := FFmt.f32.roundDy .rne (((FFmt.f32.dec (row.getD 0 0).toNat).dy).add ⟨(8 * n : Nat), 0⟩) false
    let cell := fun (j : Nat) (x : Word32) => if j = 2 || 16 ≤ j then sc x else (x.toNat, 0)
    let r1 := row.zipIdx.map fun p => cell p.2 p.1
    let o1 := outs.map fun o => o.map sc
    let fl := (r1 ++ o1.flatten).foldl (fun f x => f ||| x.2) mref.2
    ((r1.map fun x => BitVec.ofNat 32 x.1).set 0 (BitVec.ofNat 32 mref.1), o1.map fun o => o.map fun x => BitVec.ofNat 32 x.1, fl)

/-- The rescale of a pending state tile (R256). -/
def rescaleGo (s : State) (w : Warp) (t : Tray) (a : Nat) : State :=
  let x := t.tile a
  let dim := (x.last.map LastAttn.dim).getD 0
  let outs := (List.range (dim / 32)).map fun k => (t.tile (a + 1 + k)).rows
  let rs := x.rows.zipIdx.map fun p => rescaleRow p.1 (outs.map fun o => o.getD p.2 [])
  let fl := rs.foldl (fun f r => f ||| r.2.2) 0
  (s.modTiles t.launch t.idx (attnTiles a dim) fun n y =>
    if n = a then { y.withRows (rs.map Prod.fst) with pending := false } else y.withRows (rs.map fun r => r.2.1.getD (n - a - 1) [])).setWarp (w.raise fl)

/-- `rescale` (R256, R383): it waits until the tile is pending or not held. -/
def execRescale (g : Guard) (p : BitVec 3) (a : BitVec 6) (s : State) : Out :=
  onTiles (.rescale g p a) s g [a.toNat] fun w t =>
    let x := t.tile a.toNat
    let s := if x.owner = some w.agent.groupNo then s.modTiles t.launch t.idx [a.toNat] fun _ y => { y with ownerPc := w.frontPc } else s
    let fin := fun (s : State) (q : Bool) => s.modWarp w.agent fun v => (v.mapLanes (w.passing g) fun _ l => l.setPred p q).done
    if x.pending then fin (rescaleGo s w t a.toNat) true
    else if x.held.isSome then s.setWarp (w.waiting s.now .rescale)
    else fin s false

/-! attn.close (R257, R384) -/

/-- PSUM / L of the rows with a finite non-zero L, summed exactly: numerator (signed) and denominator; none where an infinite PSUM takes part (R257). -/
def massSum (rows : List (List Word32)) (e : Nat) : Option (Int × Nat) :=
  rows.foldl (fun (o : Option (Int × Nat)) row =>
    match o, FFmt.f32.dec (row.getD 2 0).toNat, FFmt.f32.dec (row.getD (16 + e) 0).toNat with
    | some (n, q), .fin ls lm le, .fin _ pm pe =>
      if lm = 0 then some (n, q)
      else
        let l := Dy.frac ⟨lm, le⟩
        let p := Dy.frac ⟨pm, pe⟩
        let sg := xor ls (FFmt.f32.dec (row.getD (16 + e) 0).toNat).neg
        let num : Int := (p.1 * l.2 : Nat)
        let den := p.2 * l.1
        some (n * (den : Int) + (if sg then -num else num) * (q : Int), q * den)
    | some x, .fin _ lm _, .inf _ => if lm = 0 then some x else none
    | o, _, _ => o) (some (0, 1))

/-- The mass of an entry in Q16.16 (R257); for a sum that is negative or infinite, which only a program's own writes to the tile can make, it is an open function of the sum (R2, log entry 2: DESIGN
CHOICE). -/
def massOf (rows : List (List Word32)) (e : Nat) : Nat :=
  match massSum rows e with
  | some (n, q) => if 0 ≤ n then Nat.min (n.toNat * 65536 / q) 0xFFFFFFFF else Config.massOutside (some (n, q)) % 2 ^ 32
  | none => Config.massOutside none % 2 ^ 32

/-- A row of the state tile and its outputs closed, with flags (R257). -/
def closeRow (row : List Word32) (outs : List (List Word32)) : List Word32 × List (List Word32) × Nat :=
  let l := (row.getD 2 0).toNat
  if l = 0 then (row.set 3 (row.getD 3 0 ||| 1), outs.map fun o => o.map fun _ => 0, 0)
  else if (FFmt.f32.dec l).isNan then (row, outs, 0)
  else
    let o1 := outs.map fun o => o.map fun x => FFmt.f32.div .rne x.toNat l
    (row, o1.map fun o => o.map fun x => BitVec.ofNat 32 x.1, o1.flatten.foldl (fun f x => f ||| x.2) 0)

/-- A mass add whose checks have been made: the target and the mass, or the reason it fails (R384). -/
structure MassAdd where
  va     : Nat
  mass   : Nat
  target : Except Nat Target

/-- The checks of the mass adds in list order (R384): R162 at the descriptor's address, races and frozen words; a race or a frozen word traps, a range failure is charged later. -/
def massChecks (w : Warp) (table : Nat) (rows : List (List Word32)) : List ((Nat × Bool) × Nat) → State → Except Trap (List MassAdd × State)
  | [], s => .ok ([], s)
  | ((j, empty), e) :: es, s =>
    if empty then massChecks w table rows es s
    else
      let va := (table + 32 * j + 24) % 2 ^ 64
      let k := w.front.headD 0
      let m := massOf rows e
      match s.target w (w.lane k) .g .red false va 4 with
      | .error 0x12 => .error (.at 0x12 va)
      | .error c => match massChecks w table rows es s with
        | .error e => .error e
        | .ok (r, s2) => .ok (⟨va, m, .error c⟩ :: r, s2)
      | .ok t => match s.check w k .g .red false false va 4 w.frontMask with
        | .error e => .error e
        | .ok (_, s1) => match massChecks w table rows es s1 with
          | .error e => .error e
          | .ok (r, s2) => .ok (⟨va, m, .ok t⟩ :: r, s2)

/-- A wait that some mass add meets: its own pending writes, an absent page, no room for all of them (R359, R167, R38). -/
def State.massWait (s : State) (a : Agent) (l : Lane) (k : Nat) (adds : List MassAdd) : Option Wait :=
  let ts := adds.filterMap fun x => x.target.toOption
  let all : WriteOp := { writeOp l k ⟨.mem [] 0, 0, none, false, false, false, (ts.head?.map Target.va).getD 0⟩ 0 with pieces := (ts.map fun t => (writeOp l k t 0).pieces).flatten }
  (ts.findSome? fun t =>
    if s.pendingAt a t then some .drain
    else match (t.fab.map s.side).getD .served with
      | .absent p => some (.page p t.va)
      | .hold p => some (.page p t.va)
      | .fails _ => none
      | .served => none).or
    (if (s.roomFor all).isNone then some (s.roomWait all) else none)

/-- One mass add performed: a saturating add at the home slice, or a failure charged to the deferred store record (R257, R384, R168). -/
def State.massAdd (s : State) (w : Warp) (k : Nat) (x : MassAdd) : State :=
  let a := w.agent
  let l := w.lane k
  match x.target with
  | .error c => s.chargeFailure a ⟨[], l.pc, k, l.ident, BitVec.ofNat 64 x.va⟩ c
  | .ok t =>
    let s1 := s.sampled w k t 3 (s.servedBy a t)
    match t.fab.bind s.redFails with
    | some c => s1.chargeFailure a (writeOp l k t 0) c
    | none =>
      let r := s1.readAt a t 4 false
      let op := writeOp l k t (Nat.min (r.1.val + x.mass) 0xFFFFFFFF)
      if r.1.poison then s1.chargeFailure a op 0x14 else ((r.2.roomFor op).getD r.2).applyAt a op .none none

/-- `attn.close` (R257, R384). -/
def execAttnClose (g : Guard) (d : BitVec 6) (s : State) : Out :=
  onTiles (.attnClose g d) s g [d.toNat] fun w t =>
    let x := t.tile d.toNat
    match x.last with
    | none => s.trapFront w (.of 0x02)
    | some la =>
      let ns := attnTiles d.toNat la.dim
      match t.ownerTrap w.agent.groupNo [] ns with
      | some e => s.trapFront w e
      | none =>
        if t.heldBy w.agent.groupNo ns then s.setWarp (w.waiting s.now .attnClose)
        else match s.hitHalt w .g .red 4 (la.entries.filterMap fun p => if p.2 then none else some ((la.table.toNat + 32 * p.1 + 24) % 2 ^ 64)) with
        | some n => s.haltHit w 0x51 n
        | none => match massChecks w la.table.toNat x.rows la.entries.zipIdx s with
          | .error e => s.trapFront w e
          | .ok (adds, s1) =>
            let k := w.front.headD 0
            match s1.massWait w.agent (w.lane k) k adds with
            | some r => s.setWarp (w.waiting s.now r)
            | none =>
              let outs := (List.range (la.dim / 32)).map fun j => (t.tile (d.toNat + 1 + j)).rows
              let rs := x.rows.zipIdx.map fun p => closeRow p.1 (outs.map fun o => o.getD p.2 [])
              let fl := rs.foldl (fun f r => f ||| r.2.2) 0
              let s2 := (s1.claim w t ns).modTiles t.launch t.idx ns fun n y =>
                if n = d.toNat then y.withRows (rs.map Prod.fst) else y.withRows (rs.map fun r => r.2.1.getD (n - d.toNat - 1) [])
              let s3 := s2.setWarp (w.raise fl).done
              let s4 := adds.foldl (fun (s : State) y => s.massAdd w k y) s3
              if adds.isEmpty then s4 else s4.publish w.agent

/-! slot and btswap (R385, R386) -/

/-- `slot` (R385): the packed slot of a token. -/
def execSlot (g : Guard) (d a : BitVec 8) (b : SSrc) (c : BitVec 3) (s : State) : Out :=
  word (.slot g d a b c) s fun w => lanewise s w g fun _ l =>
    let t := (l.vget a.toNat).toNat
    let surv := (rdS w b).toNat
    if t ≤ 63 ∧ bit surv t then .done ((l.vset d.toNat (BitVec.ofNat 32 (slotOf surv t))).setPred c false) 0
    else .done ((l.vset d.toNat 0xFFFFFFFF).setPred c true) 0

/-- A descriptor that takes another's fields (R265): GEN, SHADOW, MIGRATING and the reserved bits stay, and GEN counts. -/
def swapDesc (mine other : Nat) : Nat :=
  let v := setBits mine 0 232 (bits other 0 232)
  let v := setBits v 233 3 (bits other 233 3)
  setBits v 240 16 (descGen mine + 1)

/-- The checks of the descriptors of a btswap, in word order (R386), the alignment of each before its range: the targets, or the first trap. -/
def swapChecks (w : Warp) : List Nat → State → Except Trap (List Target × State)
  | [], s => .ok ([], s)
  | va :: vs, s =>
    if va % 32 ≠ 0 then .error (.at 0x17 va) else
    match s.check w (w.front.headD 0) .g .atom false false va 32 w.frontMask with
    | .error e => .error e
    | .ok (t, s1) => match swapChecks w vs s1 with
      | .error e => .error e
      | .ok (ts, s2) => .ok (t :: ts, s2)

/-- The exchange of the pairs at their homes, published by the release before it (R265, R190). -/
def swapPairs (w : Warp) (pub : Pub) : List Target → State → State
  | t :: u :: r, s =>
    let k := w.front.headD 0
    let l := w.lane k
    let x := s.readAt w.agent t 32 false
    let y := x.2.readAt w.agent u 32 false
    swapPairs w pub r ((y.2.applyAt w.agent (writeOp l k t (swapDesc x.1.val y.1.val)) pub none).applyAt w.agent (writeOp l k u (swapDesc y.1.val x.1.val)) pub none)
  | _, s => s

/-- `btswap` (R265, R386): one release at device scope and one step that exchanges up to four pairs of descriptors. -/
def execBtswap (g : Guard) (a : SSrc) (n : BitVec 2) (s : State) : Out :=
  word (.btswap g a n) s fun w => match s.launchOf w.agent, s.groupTray w with
    | some la, some t =>
      let off := (rdS w a).toNat % 2 ^ 32
      if (w.passing g).isEmpty then s.setWarp w.done
      else if off % 64 ≠ 0 then s.trapFront w (.at 0x17 off)
      else if la.f.spBytes < off + 64 then s.trapFront w (accessTrap w.frontMask 0x20 off off)
      else if s.spPoison la.id t.idx off 64 then s.trapFront w (.at 0x14 off)
      else match s.trackSp w la t.idx [(off, 64)] off with
        | .error e => s.trapFront w e
        | .ok s1 =>
          let r := s1.readSp w.agent la t.idx off 64
          let vas := (List.range (2 * (n.toNat + 1))).map fun j => bits r.1 (64 * j) 64
          if vas.eraseDups.length ≠ vas.length then r.2.trapFront w (.of 0x02)
          else match s.hitHalt w .g .atom 32 vas with
          | some n => s.haltHit w 0x51 n
          | none => match swapChecks w vas r.2 with
            | .error e => r.2.trapFront w e
            | .ok (ts, s2) => releasing s2 w fun s2 =>
              if !(s2.ord w.agent).outbox.isEmpty then s2.setWarp (w.waiting s.now .btswap)
              else match s2.sides ts with
                | .fails c va => s2.trapFront w (.at c va)
                | .wait p va => (s2.touch (p * 65536)).setWarp (w.waiting s.now (.page p va))
                | .served =>
                  let k := w.front.headD 0
                  let all : WriteOp := ⟨(ts.map fun x => (writeOp (w.lane k) k x 0).pieces).flatten, 0, 0, 0, 0⟩
                  match s2.roomFor all with
                  | none => s2.setWarp (w.waiting s.now (s2.roomWait all))
                  | some s3 => match ts.find? fun t => (s3.readAt w.agent t 32 false).1.poison with
                    | some t => s3.trapFront w (.at 0x14 t.va)
                    | none =>
                    let t0 := ts.head?
                    let logs := t0.any fun x => !x.racy && !x.nolog && !x.frozen
                    match if logs then s3.gate (s3.who w.agent) 2 0 else .free with
                    | .wait => (s3.stalled (s3.who w.agent) 2 0).setWarp (w.waiting s.now (.log 2 0))
                    | _ => match if logs then s3.logEvent (s3.who w.agent) 2 0 (bits ((t0.bind Target.fab).getD 0) 0 52) 0 else .ok s3 with
                      | .error e => s3.trapFront w e
                      | .ok s4 =>
                        let rl := s4.releaseNow w.agent .device
                        ((swapPairs w (.rel rl.1) ts (ts.foldl (fun (s : State) t => s.sampled w k t 3 (s.servedBy w.agent t)) rl.2)).closeRegion w.agent (s4.ord w.agent).region).setWarp w.done
    | _, _ => s

end Sys2Proof.Machine
end

