-- ==== Sys2Proof/Machine/Host.lean ====
section
/-!
DEFINITION. The host's management steps (R10, R47 to R62): the semaphore, contexts, range registers, key slots, chain registers, and writes to registers without a row of their own.
-/

namespace Sys2Proof.Machine

/-! Who writes (R47, R50, R53, R74) -/

/-- The port that holds the management semaphore (R48). -/
def State.holder (s : State) : Option Nat := if bit s.regs.mgmtSem.toNat 9 then some (bits s.regs.mgmtSem.toNat 8 1) else none

/-- DENIED set for a port (R48). -/
def State.denied (s : State) (p : Nat) : State :=
  { s with regs := { s.regs with mgmtSem := s.regs.mgmtSem ||| BitVec.ofNat 64 (2 ^ (16 + p)) } }

/-- A management write as the power unit sees it (R74): it counts as activity and wakes the device from Idle. -/
def State.writeSeen (s : State) : State :=
  let s1 := { s with active := s.now }
  if s.power = 1 then s1.wakeTo 0 0 else s1

/-- A host write that reaches the management window: none does while the device is off or on its way there (log entry 64: DEDUCED), or while the port's link is down. -/
def hostWrite (p : Port) (s : State) (k : State → State) : Out := .next (if s.boot.off || s.power == 3 || !s.portIsUp p.val then s else k s.writeSeen)

/-- A guarded write (R47): from a port that does not hold the semaphore it is ignored but for DENIED and the register's own refusal bit. -/
def guarded (p : Port) (s : State) (refuse k : State → State) : Out :=
  hostWrite p s fun s => if s.holder = some p.val then k s else refuse (s.denied p.val)

/-- A CTX_STAT error bit set: 0 E_OVERLAP, 1 E_UNBACKED, 2 E_KEY, 3 E_BUSY, 4 E_ALIGN, 5 E_OWNER (R51). -/
def State.ctxErr (s : State) (c n : Nat) : State := s.modCtx c fun x => { x with err := x.err ||| BitVec.ofNat 6 (2 ^ n) }

/-- A write to a context's block (R52, R53): ignored while the context is free, and from a port that does not own it. -/
def ctxBlock (p : Nat) (c : Nat) (s : State) (k : State → State) : State :=
  if (s.ctx c).st = 0 then s else if (s.ctx c).owner ≠ p then s.ctxErr c 5 else k s

/-- A host write to a context's block. -/
def ctxWrite (p : Port) (c : Nat) (s : State) (k : State → State) : Out := hostWrite p s fun s => ctxBlock p.val c s k

/-- ACTIVE: records of a context started and not complete (R51). -/
def Context.started (x : Context) : Nat := x.chains.foldl (fun n h => n + (h.recs.filter fun r => r.st == 1).length) 0

/-- A write that R55 refuses while ACTIVE is not 0. -/
def idleOnly (c : Nat) (s : State) (k : State) : State := if (s.ctx c).started ≠ 0 then s.ctxErr c 3 else k

/-! The semaphore (R49, R50) -/

/-- The semaphore held by a port, or free. -/
def State.setHolder (s : State) (h : Option Nat) : State :=
  let v := match h with
    | some p => 2 + p
    | none => 0
  { s with regs := { s.regs with mgmtSem := BitVec.ofNat 64 (setBits s.regs.mgmtSem.toNat 8 2 v) } }

/-- A claim by its CLAIM value (R49): 0xFF from the holder releases. -/
def State.claimSem (s : State) (p claim : Nat) : State :=
  if claim = 0xFF then (if s.holder = some p then s.setHolder none else s.denied p)
  else if claim = p ∧ (s.holder = none ∨ s.holder = some p) then s.setHolder (some p)
  else s.denied p

/-- A CLAIM write with no bit of DENIED set (R49). -/
def execMgmtSemClaim (p : Port) (claim : BitVec 8) (s : State) : Out := hostWrite p s fun s => s.claimSem p.val claim.toNat

/-- A CLAIM write of 0xFF (R49). -/
def execMgmtSemRelease (p : Port) (s : State) : Out := hostWrite p s fun s => s.claimSem p.val 0xFF

/-- A clearing write of MGMT_SEM (R49): the DENIED bits written 1 clear; with none set the write is a claim of 0. -/
def execMgmtSemClearDenied (p : Port) (denied : BitVec 2) (s : State) : Out :=
  hostWrite p s fun s => if denied = 0 then s.claimSem p.val 0
    else { s with regs := { s.regs with mgmtSem := s.regs.mgmtSem &&& ~~~ BitVec.ofNat 64 (denied.toNat * 2 ^ 16) } }

/-! Contexts (R52 to R54) -/

/-- Whether a launch belongs to a record of a chain. -/
def Launch.isRec (l : Launch) (c ch seq : Nat) : Bool := l.ctx == c && l.chain == ch && l.seq == seq && l.coord && l.phase != .done

/-- The launch of a record ends with a STATUS, unless it is ending already (R63). -/
def State.endLaunchRec (s : State) (c ch seq : Nat) (st : Word32) : State :=
  { s with launches := s.launches.map fun l => if l.isRec c ch seq then { l with ending := some (l.ending.getD st) } else l }

/-- Every started record of a context ends with a STATUS (R54, R23). -/
def State.endStarted (s : State) (c : Nat) (only : Nat → Bool) (st : Word32) : State :=
  (List.range 64).foldl (fun (s : State) ch => if only ch then
    ((s.chain c ch).recs.filter fun r => r.st == 1).foldl (fun (s : State) r => (s.endCommand c ch r.seq st).endLaunchRec c ch r.seq st) s else s) s

/-- STOP (R54): every started record ends with status stopped; the context is stopping while ACTIVE is not 0. -/
def State.stopCtx (s : State) (c : Nat) : State :=
  if (s.ctx c).started = 0 then s else (s.endStarted c (fun _ => true) statusStopped).modCtx c fun x => { x with st := 2 }

/-- CREATE (R52): a free context opens with every register cleared; in limited mode it is ignored (R84). -/
def State.createCtx (s : State) (p c : Nat) : State :=
  if (s.ctx c).st ≠ 0 || bit s.regs.secStat.toNat 3 then s else s.setCtx c { Context.clear with st := 1, owner := p }

/-- The words of other packages that no freeze covers any more leave the caches (R192). -/
def State.onlyFrozen (s : State) : State := s.dropReplicas fun w => pkgOf (4 * w) != s.pkg && !s.frozenAny (4 * w) 4

/-- DESTROY (R52): an idle open context returns to free, its freeze table with it. One that is stopping is left as it is, and no error bit is set: the manual names only an open one (log entry 82: DESIGN CHOICE). -/
def State.destroyCtx (s : State) (c : Nat) : State := if (s.ctx c).st = 1 then idleOnly c s (s.setCtx c Context.clear).onlyFrozen else s

/-- ADOPT (R53), guarded (R47): the writing port becomes the owner. -/
def State.adoptCtx (s : State) (p c : Nat) : State :=
  if s.holder ≠ some p then s.denied p else if (s.ctx c).st = 0 then s else s.modCtx c fun x => { x with owner := p }

/-- CTX_CTL written (R51 to R54): ADOPT, STOP, DESTROY and CREATE, bits 3 to 0, act in that order, each on the state that the earlier ones leave. A free context takes CREATE alone; a port that does not own
the context, and does not become its owner, changes nothing else. An ADOPT refused for want of the semaphore leaves the other fields of an owner's write to act (log entry 35: DEDUCED). -/
def State.ctxCtl (s : State) (p c : Nat) (v : BitVec 4) : State :=
  let s1 := if v.getLsbD 3 then s.adoptCtx p c else s
  if (s1.ctx c).st = 0 then (if v.getLsbD 0 then s1.createCtx p c else s1)
  else if (s1.ctx c).owner ≠ p then s1.ctxErr c 5
  else
    let s2 := if v.getLsbD 2 then s1.stopCtx c else s1
    let s3 := if v.getLsbD 1 then s2.destroyCtx c else s2
    if v.getLsbD 0 then s3.createCtx p c else s3

/-- CTX_CREATE (R52). -/
def execCtxCreate (p : Port) (c : Fin 256) (s : State) : Out := hostWrite p s fun s => s.ctxCtl p.val c.val 1

/-- CTX_DESTROY (R52). -/
def execCtxDestroy (p : Port) (c : Fin 256) (s : State) : Out := hostWrite p s fun s => s.ctxCtl p.val c.val 2

/-- CTX_STOP (R54). -/
def execCtxStop (p : Port) (c : Fin 256) (s : State) : Out := hostWrite p s fun s => s.ctxCtl p.val c.val 4

/-- CTX_ADOPT (R53). -/
def execCtxAdopt (p : Port) (c : Fin 256) (s : State) : Out := hostWrite p s fun s => s.ctxCtl p.val c.val 8

/-! Range registers (R55, R56) -/

/-- Whether a slot is loaded (R57). -/
def State.keyLoaded (s : State) (slot : Nat) : Bool := (alGet s.keys slot).isSome

/-- Whether the device is Confidential (R68). -/
def State.confidential (s : State) : Bool := bits s.regs.secStat.toNat 0 2 == 3

/-- Whether a fabric window lies in one region of one package, is no management window, and is backed (R16, R17, R56). -/
def State.windowOk (s : State) (base size : Nat) : Bool :=
  let last := base + size - 1
  decide (base + size ≤ 2 ^ 52) && pkgOf base == pkgOf last && regionOf (offOf base) == regionOf (offOf last) && regionOf (offOf base) != .mgmt && s.backed base && s.backed last

/-- The CTX_STAT bit of the first condition of R56 that refuses a range. -/
def State.rangeRefusal (s : State) (c i : Nat) (r : Range) : Option Nat :=
  let x := s.ctx c
  if x.started ≠ 0 then some 3
  else if r.bytes = 0 || decide (2 ^ 56 < r.vbase + r.bytes) then some 4
  else if x.ranges.zipIdx.any fun q => q.2 != i && q.1.valid && decide (q.1.vbase < r.vbase + r.bytes) && decide (r.vbase < q.1.vbase + q.1.bytes) then some 0
  else if !s.windowOk r.fbase r.bytes then some 1
  else if (r.slot ≠ 0 && (!s.keyLoaded r.slot || hostHomed r.fbase)) || (r.slot = 0 && !hostHomed r.fbase && s.confidential) then some 2
  else none

/-- RNG_SIZE without its reserved bits (R55). -/
def rangeSize (v : Word) (valid : Bool) : Word := (v &&& 0x00FFFFFFFFFF001F) ||| (if valid then 0x20 else 0)

/-- A range register changed. -/
def State.setRange (s : State) (c i : Nat) (f : Range → Range) : State := s.modCtx c fun x => { x with ranges := x.ranges.modify i f }

/-- A commit of a range (R56). -/
def State.commitRange (s : State) (c i : Nat) (v : Word) : State :=
  let r := { (s.ctx c).ranges.getD i Range.clear with size := rangeSize v true }
  match s.rangeRefusal c i r with
  | some b => s.ctxErr c b
  | none => s.setRange c i fun _ => r

/-- A range invalidated (R56). -/
def State.dropRange (s : State) (c i : Nat) (v : Word) : State := idleOnly c s (s.setRange c i fun r => { r with size := rangeSize v false })

/-- RANGE_COMMIT (R56): RNG_SIZE written with VALID. -/
def execRangeCommit (p : Port) (c : Fin 256) (i : Fin 16) (v : Word) (s : State) : Out := ctxWrite p c.val s fun s => s.commitRange c.val i.val v

/-- RANGE_INVALIDATE (R56): RNG_SIZE written without VALID. -/
def execRangeInvalidate (p : Port) (c : Fin 256) (i : Fin 16) (v : Word) (s : State) : Out := ctxWrite p c.val s fun s => s.dropRange c.val i.val v

/-! Key slots (R57, R58, R77) -/

/-- SLOT of KEY_CTL written (R57). -/
def State.setSlot (s : State) (slot : Nat) : State :=
  { s with regs := { s.regs with keyCtl := BitVec.ofNat 64 (setBits s.regs.keyCtl.toNat 0 13 slot) } }

/-- ERR of KEY_CTL set (R58). -/
def State.keyErr (s : State) : State := { s with regs := { s.regs with keyCtl := s.regs.keyCtl ||| 0x200000 } }

/-- IN_USE: a valid range of some context names the slot (R57). -/
def State.keyInUse (s : State) (slot : Nat) : Bool := s.ctxs.any fun p => p.2.ranges.any fun r => r.valid && r.slot == slot

/-- LOAD (R58): the staging area is emptied for a slot, and which port wrote it is kept. -/
def execKeyLoad (p : Port) (slot : BitVec 13) (s : State) : Out :=
  guarded p s id fun s =>
    let s1 := s.setSlot slot.toNat
    { s1 with regs := { s1.regs with keyMask := 0, keyFor := some (slot, p.val), keyData := List.replicate 8 0 } }

/-- A write of KEY_DATA (R57). -/
def execKeyDataWrite (p : Port) (i : Fin 8) (v : Word) (s : State) : Out :=
  guarded p s id fun s =>
    { s with regs := { s.regs with keyData := s.regs.keyData.set i.val v, keyMask := s.regs.keyMask ||| BitVec.ofNat 8 (2 ^ i.val) } }

/-- Words as one number, the first lowest. -/
def ofWords : List Word → Nat
  | [] => 0
  | w :: r => w.toNat + 2 ^ 64 * ofWords r

/-- The IV of KEY_AUX2 and KEY_AUX3 (R77). -/
def Regs.keyIv (r : Regs) : BitVec 96 := BitVec.ofNat 96 ((r.keyAux.getD 2 0).toNat + bits (r.keyAux.getD 3 0).toNat 0 32 * 2 ^ 64)

/-- The staged key pair: as it stands, or unwrapped in Confidential; none when unwrapping fails (R57, R77). -/
def State.stagedKey (s : State) : Option (BitVec 512) :=
  let d := BitVec.ofNat 512 (ofWords s.regs.keyData)
  if s.confidential then
    match if bit s.regs.secStat.toNat 2 then s.kemKey else none with
    | none => none
    | some k =>
      if s.kemIvs.contains (k, s.regs.keyIv) then none
      else Config.gcmOpen k s.regs.keyIv d (BitVec.ofNat 128 ((s.regs.keyAux.getD 0 0).toNat + 2 ^ 64 * (s.regs.keyAux.getD 1 0).toNat))
  else some d

/-- COMMIT (R58, R77): the staged key moves into the slot, or ERR is set. A COMMIT that succeeds uses up its LOAD: the staging area is empty after it; the IV of one that fails counts as not used (log entry 82: DESIGN CHOICE). -/
def execKeyCommit (p : Port) (slot : BitVec 13) (s : State) : Out :=
  guarded p s id fun s =>
    let s1 := s.setSlot slot.toNat
    if s1.regs.keyFor = some (slot, p.val) ∧ s1.regs.keyMask = 0xFF ∧ slot ≠ 0 ∧ !s1.keyInUse slot.toNat then
      match s1.stagedKey with
      | some k => { s1 with
          keys := alSet s1.keys slot.toNat k
          kemIvs := if s1.confidential then s1.kemIvs ++ s1.kemKey.toList.map fun k => (k, s1.regs.keyIv) else s1.kemIvs
          regs := { s1.regs with keyMask := 0, keyFor := none, keyData := List.replicate 8 0 } }
      | none => s1.keyErr
    else s1.keyErr

/-- CLEAR (R58): a slot that is not in use is erased, or ERR is set. -/
def execKeyClear (p : Port) (slot : BitVec 13) (s : State) : Out :=
  guarded p s id fun s =>
    let s1 := s.setSlot slot.toNat
    if slot ≠ 0 ∧ !s1.keyInUse slot.toNat then { s1 with keys := alDel s1.keys slot.toNat } else s1.keyErr

/-- n bytes of memory as a list. -/
def memBytes (m : Memory) (a : Nat) (n : Nat) : List (BitVec 8) := (List.range n).map fun j => memGet m (a + j)

/-- A seed derived at step 1 (R75): SHA3-512 of the fuzzy extractor's 32 bytes and one byte, of which the first 32 bytes are kept; 1 for the identity key pair, 2 for the transport key pair. -/
def Boot.seed (b : Boot) (n : BitVec 8) : BitVec 256 := (Config.sha3 (Config.fuzzySeed b.helper ++ [n])).setWidth 256

/-- KEM_CT (R77): in Confidential the ciphertext is decapsulated and the transport key established; elsewhere the write is ignored. Where the address is not backed, what memory lists there, zeros, is
decapsulated all the same (log entry 82: DESIGN CHOICE). -/
def execKemCtWrite (p : Port) (v : Word) (s : State) : Out :=
  guarded p s id fun s =>
    if s.confidential then
      let a := bits v.toNat 3 49 * 8
      { s with
        kemKey := some (Config.mlkemDecap (s.boot.seed 2) (memBytes s.mem a 1568))
        regs := { s.regs with kemCt := BitVec.ofNat 64 a, secStat := s.regs.secStat ||| 4 } }
    else s

/-! Chain registers (R60 to R62) -/

/-- The value R65 defines: the largest s such that every record with a number up to s is complete. -/
def Chain.value (h : Chain) : Nat :=
  match h.recs.find? fun r => decide (r.st < 2) with
  | some r => (r.seq + 2 ^ 64 - 1) % 2 ^ 64
  | none => h.seq

/-- The completion word written with a value, published as given; with ADDR 0 the value is kept all the same (R65). -/
def State.writeDone (s : State) (c ch v : Nat) (pub : Pub) : State :=
  let a := bits (s.chain c ch).cmpl.toNat 3 49 * 8
  let s1 := s.modChain c ch fun h => { h with done := v }
  if a = 0 then s1 else s1.devWrite a 8 v pub

/-- Whether a chain is a launch chain (R61). -/
def launchChain (ch : Nat) : Bool := decide (ch < 8)

/-- ENABLE set (R61): the chain fetches, and the completion word takes the value of R65. An engine chain without an engine stays disabled. -/
def State.enableChain (s : State) (c ch : Nat) : State :=
  let h := s.chain c ch
  if h.enable || (!launchChain ch && h.engine == 0) then s
  else (s.modChain c ch fun h => { h with enable := true }).writeDone c ch h.value .init

/-- ENABLE cleared (R61): records that have started run to their end by the engine that started them. -/
def State.disableChain (s : State) (c ch : Nat) : State := s.modChain c ch fun h => { h with enable := false }

/-- ENGINE written (R61): on a disabled engine chain, with a value from 1 to 6. -/
def State.chainEngine (s : State) (c ch e : Nat) : State :=
  if (s.chain c ch).enable || launchChain ch || e == 0 || decide (6 < e) then s else s.modChain c ch fun h => { h with engine := e }

/-- CH_CFG written whole (R60, R61): ENGINE, then ENABLE (log entry 82: DESIGN CHOICE). -/
def State.chainCfg (s : State) (c ch : Nat) (v : Word) : State :=
  let s1 := s.chainEngine c ch (bits v.toNat 4 4)
  if bit v.toNat 0 then s1.enableChain c ch else s1.disableChain c ch

/-- CH_SEQ written (R61): ignored while the chain is enabled and for a value below SEQ. Numbers up to it that no record carries count as complete; the value that the completion word keeps grows with them at the
next enable (log entry 82: DESIGN CHOICE). -/
def State.chainSeq (s : State) (c ch v : Nat) : State :=
  let h := s.chain c ch
  if h.enable || decide (v < h.seq) then s else s.modChain c ch fun h => { h with seq := v }

/-- CH_ADV written (R62, R178): the record is appended with a system-scope release. -/
def State.chainAdv (s : State) (p c ch : Nat) (v : Word) : State := s.hostAppend c p ch (bits v.toNat 6 46 * 64)

/-- CHAIN_ENABLE (R61). -/
def execChainEnable (p : Port) (c : Fin 256) (ch : Fin 64) (s : State) : Out := ctxWrite p c.val s fun s => s.enableChain c.val ch.val

/-- CHAIN_DISABLE (R61). -/
def execChainDisable (p : Port) (c : Fin 256) (ch : Fin 64) (s : State) : Out := ctxWrite p c.val s fun s => s.disableChain c.val ch.val

/-- CH_SEQ_WRITE (R61). -/
def execChSeqWrite (p : Port) (c : Fin 256) (ch : Fin 64) (v : Word) (s : State) : Out := ctxWrite p c.val s fun s => s.chainSeq c.val ch.val v.toNat

/-- CH_ENGINE_WRITE (R61). -/
def execChEngineWrite (p : Port) (c : Fin 256) (ch : Fin 64) (e : BitVec 4) (s : State) : Out :=
  ctxWrite p c.val s fun s => s.chainEngine c.val ch.val e.toNat

/-- CH_ADV (R62). -/
def execChAdv (p : Port) (c : Fin 256) (ch : Fin 64) (v : Word) (s : State) : Out := ctxWrite p c.val s fun s => s.chainAdv p.val c.val ch.val v

/-! Registers without a row of their own (R10) -/

/-- The new value of a register: RW bits take the write, W1C bits that are written 1 clear, all others stay (R10). -/
def regWrite (old v rw w1c : Word) : Word := (old &&& ~~~ (rw ||| (w1c &&& v))) ||| (v &&& rw)

/-- An element of a list of registers written. -/
def regSet (l : List Word) (i : Nat) (v rw w1c : Word) : List Word := l.modify i fun o => regWrite o v rw w1c

/-- Whether a write of a value is guarded, by its offset (R47): START of CKPT_CTL, LOAD and RESTART of FW_CTL and CLEAR of START_STEP alone, the other registers whole; PWR_CTL too, each write of which
writes TARGET, be it to clear REFUSED or ABORTED (log entry 82: DESIGN CHOICE). -/
def guardedOff (o : Nat) (v : Word) : Bool :=
  o == 0x100 || (decide (0x200 ≤ o) && decide (o < 0x280)) || o == 0x300 || o == 0x400 || o == 0x440 || o == 0x448 || (o == 0x500 && bit v.toNat 0) || o == 0x508 || o == 0x600 ||
  (decide (0x608 ≤ o) && decide (o < 0x670)) || o == 0x700 || o == 0x720 || (o == 0x740 && v.toNat &&& 5 != 0) || o == 0x748 ||
  (decide (0x808 ≤ o) && decide (o < 0x8E0) && bit v.toNat 0) || o == 0x900 || (decide (0x920 ≤ o) && decide (o < 0x940)) || o == 0xD00

/-- The refusal bit of a register that has its own, set by a guarded write from a port that does not hold the semaphore (R47, R41, R98, R74). -/
def Regs.refuse (r : Regs) (o : Nat) : Regs :=
  if o = 0x300 then { r with domCfg := r.domCfg ||| 0x2000000 }
  else if o = 0x448 then { r with balCtl := r.balCtl ||| 0x800000000000 }
  else if o = 0x720 then { r with pwrCtl := r.pwrCtl ||| 0x40 }
  else r

/-- A package register written by a host, by its access codes; confidential tells whether the KEY_AUX registers count (R77). The reserved TARGET of PWR_CTL sets REFUSED (R74). -/
def Regs.write (r : Regs) (o : Nat) (v : Word) (confidential : Bool) : Regs :=
  if o = 0x100 then { r with dieRst := regWrite r.dieRst v 0 0xF00000 }
  else if 0x200 ≤ o ∧ o < 0x280 then { r with ablStat := regSet r.ablStat ((o - 0x200) / 8) v 0xFFFF00000000 0xC }
  else if o = 0x300 then { r with domCfg := regWrite r.domCfg v 0 0x2000000 }
  else if o = 0x310 then { r with distCnt := v }
  else if o = 0x400 then { r with cmpCfg := regWrite r.cmpCfg v 0x0000FFFFFF000002 1 }
  else if 0x410 ≤ o ∧ o < 0x430 then { r with cmpPool := regSet r.cmpPool ((o - 0x410) / 8) v 0xFFFFFF 0 }
  else if o = 0x440 then { r with balBase := regWrite r.balBase v 0x000FFFFFFFFFFFF8 0 }
  else if o = 0x448 then { r with balCtl := (regWrite r.balCtl v 0 0x800000000000) &&& ~~~ (v &&& 0xFFFF000000000000) }
  else if o = 0x500 then { r with ckptCtl := regWrite r.ckptCtl v 0 0xC }
  else if o = 0x508 then { r with ckptTgt := regWrite r.ckptTgt v 0x000FFFFFFFFFFFFF 0 }
  else if o = 0x600 then { r with keyCtl := regWrite r.keyCtl v 0x1FFF 0x200000 }
  else if 0x648 ≤ o ∧ o < 0x668 then
    (if confidential then { r with keyAux := regSet r.keyAux ((o - 0x648) / 8) v (if o = 0x660 then 0xFFFFFFFF else 0xFFFFFFFFFFFFFFFF) 0 } else r)
  else if o = 0x720 then (let w := regWrite r.pwrCtl v 0 0xC0; { r with pwrCtl := if bits v.toNat 0 2 = 1 then w ||| 0x40 else w })
  else if o = 0x740 then { r with fwCtl := regWrite r.fwCtl v 0 2 }
  else if o = 0x748 then { r with fwBase := regWrite r.fwBase v 0x000FFFFFFFFFFFF8 0 }
  else if o = 0x760 then { r with attCtl := regWrite r.attCtl v 0xFF03 0x60000 }
  else if o = 0x768 then { r with attBuf := regWrite r.attBuf v 0x000FFFFFFFFFFFF8 0 }
  else if 0x920 ≤ o ∧ o < 0x940 then { r with srvDeleg := regSet r.srvDeleg ((o - 0x920) / 8) v 0xFFFFFFFFFFFFFFFF 0 }
  else if 0xA00 ≤ o ∧ o < 0xC00 then { r with srvWake := regSet r.srvWake ((o - 0xA00) / 8) v 0 0xFFFFFFFFFFFFFFFF }
  else r

/-- A package register written by the boot core's firmware or by the serving controller (R122, R164, R166): MT_ROOT, MT_STAT, SRV_LTGT, SRV_WAKE and BAL_BASE. -/
def Regs.fwWrite (r : Regs) (o : Nat) (v : Word) : Regs :=
  if o = 0x440 then { r with balBase := regWrite r.balBase v 0x000FFFFFFFFFFFF8 0 }
  else if o = 0x908 then { r with srvLtgt := regWrite r.srvLtgt v 0xFFF3F 0 }
  else if 0xA00 ≤ o ∧ o < 0xC00 then { r with srvWake := regSet r.srvWake ((o - 0xA00) / 8) v 0 0xFFFFFFFFFFFFFFFF }
  else if o = 0xC00 then { r with mtRoot := regWrite r.mtRoot v 0x000FFFFFFFFFF801 0 }
  else if 0xC10 ≤ o ∧ o < 0xC30 then { r with mtStat := regSet r.mtStat ((o - 0xC10) / 8) v 0x0000FFFFFFFF0000 0 }
  else r

/-- A write to CTX_SMPC or CTX_TRCC (R214): ignored when it enables below debug level 1 or names LOG2N outside 4 to 24. -/
def smpcWrite (old v rw : Word) (level : Nat) (log2n : Bool) : Word :=
  if bit v.toNat 8 && (decide (level < 1) || (log2n && (decide (bits v.toNat 0 5 < 4) || decide (24 < bits v.toNat 0 5)))) then old
  else regWrite old v rw 0

/-- A register of a context's block written by the owner, a port (R51, R55, R56, R60 to R62, R185, R214, R217, R220); CTX_LOGP and the request bits of the debug register are left to their own steps. -/
def State.ctxReg (s : State) (p c o : Nat) (v : Word) : State :=
  let base : Word := 0x000FFFFFFFFFFFFF
  if o = 0x008 then s.modCtx c fun x => { x with err := x.err &&& ~~~ BitVec.ofNat 6 (bits v.toNat 8 6) }
  else if o = 0x010 then idleOnly c s (s.modCtx c fun x => { x with shadow := v &&& base })
  else if o = 0x018 then idleOnly c s (s.modCtx c fun x => { x with log := v &&& base })
  else if o = 0x020 then idleOnly c s (s.modCtx c fun x => { x with lppool := v &&& base })
  else if o = 0x028 then idleOnly c s (s.modCtx c fun x => { x with frz := v &&& 0x000FFFFFFFFFFFF8 })
  else if o = 0x030 then s.modCtx c fun x => { x with peak := bits v.toNat 8 32 }
  else if o = 0x040 then s.modCtx c fun x => { x with smp := v &&& base }
  else if o = 0x048 then s.modCtx c fun x => { x with smpc := smpcWrite x.smpc v 0xFFFFFFFFFFFFF11F s.dbgLevel true }
  else if o = 0x050 then s.modCtx c fun x => { x with trc := v &&& base }
  else if o = 0x058 then s.modCtx c fun x => { x with trcc := smpcWrite x.trcc v 0xFFFFFFFFFFFFF100 s.dbgLevel false }
  else if 0x100 ≤ o ∧ o < 0x300 then
    let i := (o - 0x100) / 32
    if o % 32 = 8 then (if bit v.toNat 5 then s.commitRange c i v else s.dropRange c i v)
    else if ((s.ctx c).ranges.getD i Range.clear).valid then s.ctxErr c 4
    else s.setRange c i fun r =>
      if o % 32 = 0 then { r with base := v &&& 0x00FFFFFFFFFF0000 }
      else if o % 32 = 16 then { r with map := v &&& 0x000FFFFFFFFF0000 }
      else if o % 32 = 24 then { r with key := v &&& 0x1FFF }
      else r
  else if 0x300 ≤ o ∧ o < 0x380 then
    (if s.dbgLevel < 2 then s else s.modCtx c fun x => { x with bp := x.bp.set ((o - 0x300) / 8) (v &&& 0x00FFFFFFFFFFFFFB) })
  else if 0x380 ≤ o ∧ o < 0x400 then
    (if s.dbgLevel < 2 then s else s.modCtx c fun x => { x with wp := x.wp.modify ((o - 0x380) / 16) fun w =>
      if o % 16 = 0 then (v &&& base, w.2) else (w.1, v &&& base) })
  else if o = 0x400 then s.modCtx c fun x => { x with dumped := x.dumped && !bit v.toNat 4 }
  else if o = 0x408 then s.modCtx c fun x => { x with dmp := v &&& 0x000FFFFFFFFFFFC0 }
  else if 0x800 ≤ o ∧ o % 32 = 0 then s.chainCfg c ((o - 0x800) / 32) v
  else if 0x800 ≤ o ∧ o % 32 = 16 then s.chainAdv p c ((o - 0x800) / 32) v
  else if 0x800 ≤ o ∧ o % 32 = 24 then s.chainSeq c ((o - 0x800) / 32) v.toNat
  else if 0x800 ≤ o ∧ o % 32 = 8 then
    (if (s.chain c ((o - 0x800) / 32)).enable then s else s.modChain c ((o - 0x800) / 32) fun h => { h with cmpl := v &&& 0x000FFFFFFFFFFFF8 })
  else s

/-- A write to a management register by a host port (R10, R47, R53): package fields that have a step of their own are left to that step. -/
def State.portWrite (s : State) (p o : Nat) (v : Word) : State :=
  if o % 8 ≠ 0 then s
  else if 0x100000 ≤ o ∧ o < 0x200000 then
    (let c := o / 0x1000 - 0x100
     if o % 0x1000 = 0 then s.ctxCtl p c (v.setWidth 4) else ctxBlock p c s fun s => s.ctxReg p c (o % 0x1000) v)
  else if guardedOff o v && s.holder != some p then { s.denied p with regs := (s.denied p).regs.refuse o }
  else { s with regs := s.regs.write o v s.confidential }

/-- REGISTER_WRITE (R10): a register written by a host port, or, with no port, by the boot core's firmware or the serving controller. -/
def execRegisterWrite (p : Option Port) (off : BitVec 24) (v : Word) (s : State) : Out :=
  match p with
  | some q => hostWrite q s fun s => s.portWrite q.val off.toNat v
  | none => .next (if s.boot.off then s else { s with regs := s.regs.fwWrite off.toNat v })

end Sys2Proof.Machine
end

