-- ==== Sys2Proof/Machine/Chains.lean ====
section
/-!
DEFINITION. The ends of records (R63 to R65, R104, R205, R216): how a record starts, the completion word and its interrupts, trace records, engine commands and launches that complete, and trays that exit.
-/

namespace Sys2Proof.Machine

/-! Starting (R61, R63, R64) -/

/-- Whether the engines and the distributor work: the device is Active, its start is over, and it is not in limited mode (R74, R81, R84). -/
def State.working (s : State) : Bool := !s.boot.off && s.power == 0 && s.boot.next.isNone && !bit s.regs.secStat.toNat 3

/-- The oldest unstarted record of an enabled chain of an open context (R61, R63, R54). -/
def State.nextRec (s : State) (c ch : Nat) : Option Rec :=
  let h := s.chain c ch
  if h.enable && (s.ctx c).st == 1 then h.recs.find? fun r => r.st == 0 else none

/-- The eight words of a record as a fetch reads them. -/
def State.recWords (s : State) (addr : Nat) : List Word := (List.range 8).map fun j => BitVec.ofNat 64 (memRead s.mem (addr + 8 * j) 8)

/-- Whether a record's words are poisoned: its fetch then fails with CAUSE 0x14 (R199). -/
def State.recBad (s : State) (addr : Nat) : Bool := (List.range 16).any fun j => s.badWord (addr / 4 + j)

/-- Word j of a fetched record. -/
def Rec.word (r : Rec) (j : Nat) : Nat := (r.body.getD j 0).toNat
/-- KIND (R59). -/
def Rec.kind (r : Rec) : Nat := bits (r.word 0) 0 8
/-- ACQ (R59). -/
def Rec.acq (r : Rec) : Bool := bit (r.word 0) 8
/-- REL (R59). -/
def Rec.relFlag (r : Rec) : Bool := bit (r.word 0) 9
/-- SCOPE (R59). -/
def Rec.scope (r : Rec) : Nat := bits (r.word 0) 10 3
/-- IRQ (R59). -/
def Rec.irq (r : Rec) : Bool := bit (r.word 0) 13

/-- A scope by its code (R59). -/
def scopeAt (n : Nat) : Scope :=
  match n with
  | 0 => .group | 1 => .tray | 2 => .patch | 3 => .launch | 4 => .device | _ => .system

/-- STATUS started (R63). -/
def statusStarted : Word32 := 0x01000000

/-- A record starts: its STATUS and the time (R63). -/
def State.startRec (s : State) (c ch : Nat) (r : Rec) : State :=
  (s.devWrite (r.addr + 4) 4 statusStarted.toNat).modRec c ch r.seq fun x => { x with st := 1, startAt := s.now }

/-! The completion word (R65) -/

/-- The port that a context's interrupts go to (R53). -/
def State.irqPort (s : State) (c : Nat) : Nat :=
  let o := (s.ctx c).owner
  if s.portIsUp o then o else 1 - o

/-- The completion word grows, if more records are covered, and the covered records that ask for it interrupt (R65). -/
def State.cover (s : State) (c ch : Nat) (pub : Pub) : State :=
  let h := s.chain c ch
  let v := h.value
  if v = h.done then s
  else
    let new := (h.recs.takeWhile fun r => decide (2 ≤ r.st)).filter fun r => r.st == 2
    let s1 := s.writeDone c ch v pub
    let s2 := s1.modChain c ch fun h => { h with recs := h.recs.map fun r => if new.any fun n => n.seq == r.seq then { r with st := 3 } else r }
    { s2 with signals := s2.signals ++ (new.filter Rec.irq).map fun _ => Signal.msix (s.irqPort c) c }

/-- A release as the publisher of a version. -/
def pubOf : Option RelId → Pub
  | some r => .rel r
  | none => .none

/-- What publishes a completion word (R65): the record's release, or nothing that an acquire could gain from. -/
def donePub : Option RelId → Pub
  | some r => .rel r
  | none => .init

/-- A record completes (R63, R65): the final STATUS, then the completion word; a stopping context with nothing started is open again (R54). -/
def State.finish (s : State) (c ch seq : Nat) (st : Word32) (rel : Option RelId) : State :=
  match s.rec? c ch seq with
  | none => s
  | some r =>
    let s1 := (s.devWrite (r.addr + 4) 4 st.toNat).modRec c ch seq fun x => { x with st := 2, ending := some st, done := rel }
    (s1.cover c ch (donePub rel)).modCtx c fun x => if x.st = 2 && x.started = 0 then { x with st := 1 } else x

/-! Trace records, sealing (R73, R216) -/

/-- The key that seals a context's dumps and records in Confidential (R73). -/
def State.sealKey (s : State) (c : Nat) : Option (BitVec 512) :=
  ((s.ctx c).ranges.find? fun r => r.valid && r.slot != 0).bind fun r => alGet s.keys r.slot

/-- Bytes written by the device at a fabric address. -/
def State.devBytes (s : State) (fa : Nat) (bs : List (BitVec 8)) : State := s.devWrite fa bs.length (ofBytes bs)

/-- An IV as 12 bytes, then the ciphertext with its tag, padded with zeros to n bytes (R73, R216). -/
def sealed (key : BitVec 512) (iv : BitVec 96) (n : Nat) (bs : List (BitVec 8)) : List (BitVec 8) :=
  let x := toBytes 12 iv.toNat ++ Config.gcmSeal key iv bs
  x ++ List.replicate (n - x.length) 0

/-- A fresh IV taken. -/
def State.takeIv (s : State) : BitVec 96 × State := (Config.freshIv s.free, { s with free := s.free + 1 })

/-- A record of n bytes for a sample or trace buffer: written at NEXT, or dropped and counted (R215, R216); sealed in Confidential, to m bytes. Its new control word and the state. -/
def State.bufRecord (s : State) (c : Nat) (buf ctl : Word) (n m : Nat) (bs : List (BitVec 8)) : Word × State :=
  let len := if s.confidential then m else n
  let next := bits ctl.toNat 12 28
  let base := bits buf.toNat 16 36 * 65536
  if (bits buf.toNat 0 16) * 65536 < len * (next + 1) then (satInc ctl 40 24, s)
  else
    let ctl1 := BitVec.ofNat 64 (setBits ctl.toNat 12 28 (next + 1))
    if s.confidential then
      match s.sealKey c with
      | none => (ctl, s)
      | some k =>
        let iv := s.takeIv
        (ctl1, iv.2.devBytes (base + len * next) (sealed k iv.1 m bs))
    else (ctl1, s.devBytes (base + len * next) bs)

/-- The trace record of an engine command (R216). -/
def State.traceRecord (s : State) (c ch : Nat) (r : Rec) (st : Word32) : State :=
  let x := s.ctx c
  if s.dbgLevel < 1 || !bit x.trcc.toNat 8 then s
  else
    let bs := toBytes 8 r.startAt.toNat ++ toBytes 8 s.now.toNat ++ toBytes 8 r.seq ++ toBytes 4 st.toNat ++ toBytes 1 ch ++ toBytes 1 r.kind ++
      toBytes 2 (if r.kind = 7 then Nat.min r.skipped 0xFFFF else 0)
    let w := s.bufRecord c x.trc x.trcc 32 64 bs
    w.2.modCtx c fun x => { x with trcc := w.1 }

/-! Engine commands complete (R65, R205, R390) -/

/-- The mode in which a command takes part in the order log (R438): that of the launch whose group appended it, or of the launches that run when it starts. -/
def State.startMode (s : State) (c : Nat) (r : Rec) : Nat :=
  match r.appender.bind Agent.launchId with
  | some _ => r.mode
  | none => s.ctxMode c

/-- Launches that are kept only for engine commands, once none names them (R390). -/
def State.sweepDone (s : State) : State :=
  let named := fun (l : Nat) => s.ctxs.any fun p => p.2.chains.any fun h => h.recs.any fun r => decide (r.st < 2) && (r.appender.bind Agent.launchId) == some l
  let gone := fun (l : Nat) => s.launches.any fun x => x.id == l && x.phase == .done && !named l
  { s with
    trays := s.trays.filter fun t => !gone t.launch
    launches := s.launches.filter fun x => !gone x.id }

/-- An engine command completes (R65): its region closes, its release where REL is set and it ran with room, ENGDONE, the trace record, STATUS. It waits while the log does not let it through (R202, R209);
one that STOP ended does not (R54), and its completion is an event like any other where the ring has room. -/
def State.engineDone (s : State) (c ch : Nat) (r : Rec) (st : Word32) (ran : Bool) : State :=
  let a : Agent := .engine c ch r.seq
  let who : Who := { s.who a with mode := if st == statusStopped then s.stoppedMode c (s.modeOf a) else s.modeOf a }
  match s.gate who 0x17 0 with
  | .wait => s.stalled who 0x17 0
  | _ =>
    let code := st.toNat % 2 ^ 16
    let rl : Option RelId × State := if r.relFlag && ran && code ≠ 1 && code ≠ 4 then let x := s.releaseNow a (scopeAt r.scope); (some x.1, x.2) else (none, s)
    let s1 := rl.2.closeRegion a (rl.2.ord a).region
    match s1.logEvent who 0x17 0 r.seq st.toNat with
    | .ok s2 => ((s2.traceRecord c ch r st).finish c ch r.seq st rl.1).sweepDone
    | .error _ =>
      let bad := statusOf 0x10 0x38
      (((s1.modCtx c fun x => { x with diverged := true }).traceRecord c ch r bad).finish c ch r.seq bad rl.1).sweepDone

/-! Trays exit, launches complete (R55, R67, R104, R152) -/

/-- The agents of a launch on this package. -/
def State.launchAgents (s : State) (l : Nat) : List Agent :=
  ((s.trays.filter fun t => t.launch == l).map fun t => t.warps.map Warp.agent).flatten ++
    ((s.handlers.filter fun h => h.launch == l).map fun h => h.warp.agent)

/-- Whether every outbox of a launch's agents is empty (R54). -/
def State.launchDrained (s : State) (l : Nat) : Bool := (s.launchAgents l).all fun a => (s.ord a).outbox.isEmpty

/-- Whether every tray of a launch on this package has exited: its groups are gone, no handler group serves it, and none is to be placed again. -/
def State.launchExited (s : State) (l : Launch) : Bool :=
  (s.trays.all fun t => t.launch != l.id || t.warps.all Warp.gone) && (s.handlers.all fun h => h.launch != l.id) && l.replace.isEmpty

/-- Whether every group of a tray that was placed has exited. -/
def Tray.ended (t : Tray) : Bool := !t.warps.isEmpty && t.warps.all Warp.gone

/-- Whether something of a tray is still to come after its groups have exited: an outbox of theirs has not drained, or a command that one of them appended has not completed (R304, R390; log entry 93: DEDUCED). -/
def State.trayBusy (s : State) (t : Tray) : Bool :=
  (t.warps.any fun w => !(s.ord w.agent).outbox.isEmpty) ||
    s.ctxs.any fun p => p.2.chains.any fun h => h.recs.any fun r => decide (r.st < 2) && r.insts.contains (.tray t.launch t.idx)

/-- Trays whose groups have all exited give their units of the lane-private pool back, their lines written to it (R55, R152), and, once nothing of theirs is still to come, the rest of their resources (R304). -/
def State.freeTrays (s : State) : State :=
  (s.trays.filter fun t => !t.freed && t.warps.all Warp.gone).foldl (fun (s : State) t =>
    (s.lpWriteBack t.launch t.idx).modTray t.launch t.idx fun x => { x with lpUnits := [], freed := !s.trayBusy t }) s

/-- The release of a launch at its end (R67, R104): every group's writes are published, and the launch's release carries all their views. -/
def State.launchRelease (s : State) (l : Launch) : Option RelId × State :=
  let sc := scopeAt l.f.scope
  let as := s.launchAgents l.id
  let s1 := as.foldl (fun (s : State) a => let x := (s.releaseNow a sc).2; x.closeRegion a (x.ord a).region) s
  let a : Agent := .engine l.ctx l.chain l.seq
  let view := as.foldl (fun v x => union v (s1.ord x).view) []
  let r := (s1.setOrd a { Ord.clear with view := view }).releaseNow a sc
  (some r.1, r.2)

/-- Another member of a launch, by its package (R99). -/
def Launch.others (l : Launch) (pkg : Nat) : List Nat := (List.range 64).filter fun p => l.descr.members.getLsbD p && p != pkg

/-- Whether a launch is over on its coordinator: it is ending, or its trays here have exited; its outboxes have drained; and, where it has run, every other member that is not lost has reported its exit (R63, R54, R102, R104). -/
def State.launchOver (s : State) (l : Launch) : Bool :=
  s.launchDrained l.id && (l.ending.isSome || (l.ran && s.launchExited l)) && (!l.ran || (l.others s.pkg).all fun p => l.reported.contains p)

/-- A group whose launch is over: every lane has ended. -/
def Warp.dropped (w : Warp) : Warp := { w with lanes := w.lanes.map fun x => if x.st == .vacant then x else x.killed, wait := none }

/-- The state without a launch's lanes, handlers and gatherings; its trays stay for engine commands that name them. -/
def State.dropLaunch (s : State) (l : Nat) : State :=
  let s1 := { s with
    trays := s.trays.map fun (t : Tray) => if t.launch == l then { t with warps := t.warps.map Warp.dropped } else t
    handlers := s.handlers.filter fun h => h.launch != l
    gathers := s.gathers.filter fun g => g.launch != l
    slide := if (s.slide.map Slide.launch) = some l then none else s.slide }
  (s1.freeTrays.modLaunch l fun x => { x with phase := .done }).sweepDone

/-- The other members of a launch that ends before they have all exited are told (R101, R102): abort before go, counted, and stop after it, once. -/
def State.tellEnd (s : State) (l : Launch) : State :=
  let told := s.sent.any fun m => match m with
    | .abort _ x => x == l.id
    | .stop _ x => x == l.id
    | _ => false
  if l.ending.isNone || told || !l.coord || (l.others s.pkg).isEmpty then s
  else
    let s1 := { s with sent := s.sent ++ (l.others s.pkg).map fun p => if l.ran then Msg.stop p l.id else Msg.abort p l.id }
    if l.ran then s1 else { s1 with regs := { s1.regs with distCnt := satInc s1.regs.distCnt 32 16 } }

/-- A launch completes (R65, R67, R104): its release where REL is set and it issued, its trays freed, STATUS. -/
def State.launchDone (s : State) (l : Launch) : State :=
  let rl := if l.f.rel && l.ran then s.launchRelease l else (none, s)
  let s1 := (rl.2.dropLaunch l.id).finish l.ctx l.chain l.seq (l.ending.getD (statusOf 0 0)) rl.1
  s1.flushAll l.ctx

/-- A record completes (R65): a launch that is over, whose other members were told before where it ended early (R101, R102), or an engine command that has ended. -/
def execRecordComplete (c : Fin 256) (ch : Fin 64) (seq : Word) (s : State) : Out :=
  .next (match s.launches.find? fun l => l.isRec c.val ch.val seq.toNat with
    | some l =>
      let s1 := s.tellEnd l
      if s1.launchOver l then s1.launchDone l else s1
    | none => match s.rec? c.val ch.val seq.toNat with
      | some r => match r.ending with
        | some st => if r.st = 1 then s.engineDone c.val ch.val r st true else s
        | none => s
      | none => s)

end Sys2Proof.Machine
end

