-- ==== Sys2Proof/Machine/System.lean ====
section
/-!
DEFINITION. The system instructions (R399 to R411): control and special registers, the origin tag, position and time, the order log and the debug registers as programs reach them, identity and counters.
-/

namespace Sys2Proof.Machine

/-! Control registers (R400, R401) -/

/-- LFLAGS (R400). -/
def lflags (f : LaunchF) (published : Bool) : Nat :=
  published.toNat * 2 ^ 16 + f.cwin * 2 ^ 12 + f.pipe.toNat * 64 + f.racy.toNat * 32 + f.idem.toNat * 16 + f.promise.toNat * 8 + f.compact.toNat * 4 + f.mode

/-- LSHAPE (R400). -/
def lshape (f : LaunchF) : Nat := f.ph * 2 ^ 27 + f.pw * 2 ^ 18 + f.dh * 2 ^ 9 + f.dw

/-- DSREC (R400). -/
def dsrec (d : Option DeferredRec) : Nat :=
  match d with
  | none => 0
  | some d => d.reason.toNat * 2 ^ 16 + d.vlane * 16 + d.more.toNat * 2 + 1

/-- TILES: the allocated tiles (R400). -/
def tilesMask (t : Tray) : Nat := t.tiles.zipIdx.foldl (fun n p => if p.1.alloc then n + 2 ^ p.2 else n) 0

/-- Whether a control register belongs to the tray or the group, and so is closed to a handler group (R401). -/
def trayControl (n : Nat) : Bool := n == 0 || n == 1 || n == 6 || n == 8

/-- The tracked access of rdctl or wrctl to HVEC or LPLIM (R401). -/
def ctlTrack (s : State) (w : Warp) (loc : Loc) (write : Bool) : Track :=
  let k := w.front.headD 0
  ⟨loc, 15, write, true, w.agent, (s.ord w.agent).region, w.frontPc, k, (w.lane k).ident, none⟩

/-- A control register that is no word of the order machine (R400). -/
def State.ctlValue (s : State) (w : Warp) (la : Launch) (t : Tray) (n : Nat) : Nat :=
  match n with
  | 2 => lflags la.f t.published
  | 3 => la.f.param
  | 4 => lshape la.f
  | 5 => bits la.f.w4.toNat 0 51
  | 6 => tilesMask t
  | 7 => s.pkg * 256 + la.ctx
  | 8 => dsrec w.dsr
  | _ => 0

/-- `rdctl` (R400, R401): HVEC and LPLIM are plain reads of a word of the tray. -/
def execRdctl (g : Guard) (d : BitVec 6) (n : BitVec 12) (s : State) : Out :=
  word (.rdctl g d n) s fun w =>
    if w.agent.isHandler && trayControl n.toNat then s.trapFront w (.of 0x02)
    else if (w.passing g).isEmpty then s.setWarp w.done
    else match s.launchOf w.agent, s.groupTray w with
      | some la, some t =>
        if n.toNat < 2 then
          let loc : Loc := .ctl la.id t.idx n.toNat
          match if la.f.racy then .ok s else s.track w.agent [ctlTrack s w loc false] 0 with
          | .error e => s.trapFront w e
          | .ok s1 =>
            let r := s1.readWord w.agent loc 15 true false la.f.racy
            r.2.setWarp (w.sset d.toNat r.1.val).done
        else s.setWarp (w.sset d.toNat (BitVec.ofNat 64 (s.ctlValue w la t n.toNat))).done
      | _, _ => s

/-- What a write leaves in HVEC or LPLIM (R150, R400). -/
def ctlWrite (f : LaunchF) (n : Nat) (v : Word) : Word :=
  if n = 0 then BitVec.ofNat 64 (bits v.toNat 3 53 * 8) else BitVec.ofNat 64 (Nat.min (bits v.toNat 0 16) f.lpWords)

/-- `wrctl` (R400, R401): HVEC and LPLIM take effect in the issue step; writes to the other registers are ignored. -/
def execWrctl (g : Guard) (n : BitVec 12) (a : SSrc) (s : State) : Out :=
  word (.wrctl g n a) s fun w =>
    if w.agent.isHandler && trayControl n.toNat then s.trapFront w (.of 0x02)
    else if (w.passing g).isEmpty then s.setWarp w.done
    else match s.launchOf w.agent, s.groupTray w with
      | some la, some t =>
        if n.toNat < 2 then
          let loc : Loc := .ctl la.id t.idx n.toNat
          match if la.f.racy then .ok s else s.track w.agent [ctlTrack s w loc true] 0 with
          | .error e => s.trapFront w e
          | .ok s1 =>
            let s2 := s1.newVersion loc 15 (ctlWrite la.f n.toNat (rdS w a)) (some w.agent) .none
            (s2.see w.agent loc ((s2.versOf loc).length - 1)).setWarp w.done
        else s.setWarp w.done
      | _, _ => s

/-! Special registers (R402) -/

/-- The code of a lane's state (R402). -/
def LaneSt.code : LaneSt → Nat
  | .ready => 0 | .parked => 1 | .trapped => 2 | .exited => 3 | .vacant => 4

/-- A lane as pcv shows it (R402): state and PC; a Vacant lane's PC reads 0. -/
def Lane.pcv (l : Lane) : Nat := l.st.code * 2 ^ 56 + (if l.st == .vacant then 0 else l.pc.toNat)

/-- `rdspec` (R402). A read of fstat waits for the flags of the group's unfinished attns (R236). -/
def execRdspec (g : Guard) (r : RdSpec) (s : State) : Out :=
  word (.rdspec g r) s fun w => match r with
    | .pcv d => lanewise s w g fun _ l => .done (l.dset d.toNat l.pcv) 0
    | .lanemap d => lanewise s w g fun _ l => .done (l.vset d.toNat (l.ident.setWidth 32)) 0
    | .gang d => groupwise s w g fun w => w.sset d.toNat (w.gang.setWidth 64)
    | .fstat d => if w.attns.any AttnRun.runs && !(w.passing g).isEmpty then s.setWarp (w.waiting s.now .attn) else groupwise s w g fun w => w.sset d.toNat (w.fstat.setWidth 64)

/-- `wrspec` (R402): gang of a handler group is closed; a write of fstat comes after the flags of the group's unfinished attns (R236). -/
def execWrspec (g : Guard) (r : WrSpec) (a : SSrc) (s : State) : Out :=
  word (.wrspec g r a) s fun w => match r with
    | .gang => if w.agent.isHandler then s.trapFront w (.of 0x02) else groupwise s w g fun w => { w with gang := (rdS w a).setWidth 32 }
    | .fstat => if w.attns.any AttnRun.runs && !(w.passing g).isEmpty then s.setWarp (w.waiting s.now .attn) else groupwise s w g fun w => { w with fstat := fstatWrite (bits (rdS w a).toNat 0 32) }

/-- Word n of an origin tag (R144). -/
def Tag.word (t : Tag) (n : Nat) : Word :=
  match n with
  | 0 => t.w0 | 1 => t.w1 | 2 => t.w2 | 3 => t.w3 | 4 => t.w4 | _ => 0

/-- `origin` (R403): a word of the lane's origin tag, in a handler group. -/
def execOrigin (g : Guard) (d : BitVec 8) (n : BitVec 3) (s : State) : Out :=
  word (.origin g d n) s fun w =>
    if !w.agent.isHandler then s.trapFront w (.of 0x02)
    else lanewise s w g fun _ l => .done (l.dset d.toNat (((l.tag.map fun (t : Tag) => t.word n.toNat).getD 0).toNat)) 0

/-! Position, time, log (R405 to R408) -/

/-- The core and the issue partition of a group (R138, R143). -/
def State.place (s : State) (w : Warp) : Nat × Nat :=
  match w.agent with
  | .group l t g => (((s.tray? l t).map Tray.core).getD 0, g % 4)
  | .handler l n => (((s.handler? l n).map Handler.core).getD 0, ((s.handler? l n).map Handler.slot).getD 0)
  | .engine _ _ _ => (0, 0)
  | .port _ => (0, 0)

/-- The value of locality (R405). -/
def State.locality (s : State) (w : Warp) : Nat :=
  let p := s.place w
  let x := p.1 % 28
  let y := p.1 / 28
  let dx := s.pkg % s.domWidth * 28 + x
  let dy := s.pkg / s.domWidth * 24 + y
  dx + dy * 2 ^ 9 + s.pkg * 2 ^ 18 + Config.dieOf x y * 2 ^ 24 + p.1 * 2 ^ 26 + p.2 * 2 ^ 36

/-- An instruction that reads a value which record mode logs in A and replay returns from A (R405, R406, R209). -/
def loggedRead (s : State) (w : Warp) (g : Guard) (ty : Nat) (d : BitVec 6) (v : Nat) : State :=
  if (w.passing g).isEmpty then s.setWarp w.done
  else
    let who := s.who w.agent
    match s.gate who ty 0 with
    | .wait => (s.stalled who ty 0).setWarp (w.waiting s.now (.log ty 0))
    | .reserved => s.trapFront w (s.divergence who.ctx ty)
    | .free => s.setWarp (w.sset d.toNat (BitVec.ofNat 64 v)).done
    | .record => (s.logPut who ty 0 v 0).setWarp (w.sset d.toNat (BitVec.ofNat 64 v)).done
    | .replay ra rb => if rb = 0 then (s.logTake who.ctx).setWarp (w.sset d.toNat (BitVec.ofNat 64 ra)).done else s.trapFront w (s.divergence who.ctx ty)

/-- `locality` (R405). -/
def execLocality (g : Guard) (d : BitVec 6) (s : State) : Out :=
  word (.locality g d) s fun w => loggedRead s w g 8 d (s.locality w)

/-- `rdtime` (R406). -/
def execRdtime (g : Guard) (d : BitVec 6) (s : State) : Out :=
  word (.rdtime g d) s fun w => loggedRead s w g 7 d s.now.toNat

/-- `logctl.mode` (R407). -/
def execLogctlMode (g : Guard) (d : BitVec 6) (s : State) : Out :=
  word (.logctlMode g d) s fun w =>
    groupwise s w g fun w => w.sset d.toNat (BitVec.ofNat 64 (((s.launchOf w.agent).map fun l => l.f.mode).getD 0))

/-- `logctl.flush` (R407): a record is in the ring when its event has taken effect, so it waits only while an append of the group is still in its outbox, and while the ring is full, in record mode. -/
def execLogctlFlush (g : Guard) (s : State) : Out :=
  word (.logctlFlush g) s fun w =>
    let who := s.who w.agent
    if (w.passing g).isEmpty || who.mode ≠ 1 then s.setWarp w.done
    else if (s.ctx who.ctx).logUsed = (s.ctx who.ctx).logCap then (s.stalled who 0 0).setWarp (w.waiting s.now .logFlush)
    else if s.appending w.agent then s.setWarp (w.waiting s.now .logFlush)
    else s.setWarp w.done

/-- `mark` (R408): a record of both operands, compared in replay. -/
def execMark (g : Guard) (a d : SSrc) (s : State) : Out :=
  word (.mark g a d) s fun w =>
    if (w.passing g).isEmpty then s.setWarp w.done
    else
      let who := s.who w.agent
      match s.gate who 9 0 with
      | .wait => (s.stalled who 9 0).setWarp (w.waiting s.now (.log 9 0))
      | _ => match s.logEvent who 9 0 (rdS w a).toNat (rdS w d).toNat with
        | .error e => s.trapFront w e
        | .ok s1 => s1.setWarp w.done

/-! Breakpoints and watchpoints (R217, R409) -/

/-- CTX_BP without its reserved bits (R217). -/
def bpMask (v : Word) : Word := v &&& 0x00FFFFFFFFFFFFFB
/-- CTX_WP without its reserved bits (R217): both words keep bits [51:0]. -/
def wpMask (v : Word) : Word := v &&& 0x000FFFFFFFFFFFFF

/-- The context with a breakpoint or watchpoint word written (R217). -/
def Context.bpWrite (x : Context) (o : BpOp) (v : Word) : Context :=
  match o with
  | .wbp n _ => { x with bp := x.bp.set n.toNat (bpMask v) }
  | .wwp0 n _ => { x with wp := x.wp.modify n.toNat fun p => (wpMask v, p.2) }
  | .wwp1 n _ => { x with wp := x.wp.modify n.toNat fun p => (p.1, wpMask v) }
  | .rbp _ _ => x
  | .rwp0 _ _ => x
  | .rwp1 _ _ => x

/-- `bpctl` (R409): a read at once; a write, ignored below level 2, after which the group waits until every core has the value. -/
def execBpctl (g : Guard) (o : BpOp) (s : State) : Out :=
  word (.bpctl g o) s fun w =>
    let c := s.ctxOf w.agent
    let x := s.ctx c
    let write := fun (a : SSrc) =>
      if (w.passing g).isEmpty || s.dbgLevel < 2 || w.wait == some .bpctl then s.setWarp w.done
      else (s.modCtx c fun x => x.bpWrite o (rdS w a)).setWarp (w.waiting s.now .bpctl)
    if w.agent.isHandler then s.trapFront w (.of 0x02)
    else match o with
      | .wbp _ a => write a
      | .wwp0 _ a => write a
      | .wwp1 _ a => write a
      | .rbp d n => groupwise s w g fun w => w.sset d.toNat (x.bp.getD n.toNat 0)
      | .rwp0 d n => groupwise s w g fun w => w.sset d.toNat (x.wp.getD n.toNat (0, 0)).1
      | .rwp1 d n => groupwise s w g fun w => w.sset d.toNat (x.wp.getD n.toNat (0, 0)).2

/-! Identity and counters (R410, R411) -/

/-- A query that writes a scalar once, closed to a handler group (R410). -/
def identScalar (s : State) (w : Warp) (g : Guard) (d : BitVec 6) (v : Launch → Tray → Nat) : State :=
  if w.agent.isHandler then s.trapFront w (.of 0x02)
  else match s.launchOf w.agent, s.trayOf w.agent with
    | some la, some t => groupwise s w g fun w => w.sset d.toNat (BitVec.ofNat 64 (v la t))
    | _, _ => s

/-- `ident` (R410). -/
def execIdent (g : Guard) (q : IdentQ) (s : State) : Out :=
  word (.ident g q) s fun w => match q with
    | .dxy d => identScalar s w g d fun la t => t.idx % la.f.dw + t.idx / la.f.dw * 2 ^ 9
    | .tray d => identScalar s w g d fun _ t => t.idx
    | .patch d => identScalar s w g d fun la t => la.f.patchOf t.idx + la.f.patchCore t.idx * 2 ^ 32
    | .group d => identScalar s w g d fun _ _ => w.agent.groupNo
    | .stage d => identScalar s w g d fun _ t => t.stage
    | .vlane d => lanewise s w g fun k l => .done (l.vset d.toNat (BitVec.ofNat 32 k)) 0
    | .lane d => lanewise s w g fun _ l => .done (l.vset d.toNat (l.ident.setWidth 32)) 0
    | .handler d => groupwise s w g fun w => w.sset d.toNat (BitVec.ofNat 64 (match w.agent with
        | .handler _ _ => 1 + 2 * (s.place w).2
        | _ => 0))

/-- `rdcnt` (R411): the issue count before this issue; the cycle counts only in mode 0 at a debug level of 1 or more. -/
def execRdcnt (g : Guard) (d : BitVec 6) (n : BitVec 2) (s : State) : Out :=
  word (.rdcnt g d n) s fun w =>
    let open_ := (s.who w.agent).mode = 0 && decide (1 ≤ s.dbgLevel)
    groupwise s w g fun w => w.sset d.toNat (BitVec.ofNat 64 (
      if n == 0 then w.issues else if open_ then (if n == 1 then w.held else w.waited) else 0))

end Sys2Proof.Machine
end

