-- ==== Sys2Proof/Machine/Lanes.lean ====
section
/-!
DEFINITION. Steps that concern lanes and groups as such: trapped lanes gathered into handler groups (R143), the fairness slice (R136), and the end of a compaction window (R132).
-/

namespace Sys2Proof.Machine

/-! Gatherings (R143) -/

/-- Lanes of one origin group that trapped in one cycle and wait to be gathered. -/
structure Chunk where
  trapAt : Nat
  launch : Nat
  tray   : Nat
  group  : Nat
  core   : Nat
  hvec   : Word
  lanes  : List Nat
deriving DecidableEq, Repr

/-- Whether a trapped lane may enter a gathering: it has not, it is not on its way back, and its cause is not replay divergence (R210). -/
def Lane.gatherable (l : Lane) : Bool :=
  l.st == .trapped && !l.gathered && l.back.isNone && l.hvec != 0 && (l.tag.map fun t => bits t.w0.toNat 53 8) != some 0x38

/-- The chunks of a resident group, by cycle and vector. -/
def Warp.chunks (t : Tray) (w : Warp) : List Chunk :=
  let ks := (List.range w.lanes.length).filter fun k => (w.lane k).gatherable
  let keys := union [] (ks.map fun k => ((w.lane k).trapAt, (w.lane k).hvec))
  if w.evicted then [] else keys.map fun q => ⟨q.1, t.launch, t.idx, w.agent.groupNo, t.core, q.2, ks.filter fun k => (w.lane k).trapAt == q.1 && (w.lane k).hvec == q.2⟩

/-- The order of R143: ascending cycle of trapping, then deckle index, then group number. -/
def Chunk.before (a b : Chunk) : Bool :=
  decide (a.trapAt < b.trapAt) || (a.trapAt == b.trapAt && (decide (a.tray < b.tray) || (a.tray == b.tray && decide (a.group ≤ b.group))))

/-- Every chunk of the running launches, in order. -/
def State.chunksAll (s : State) : List Chunk :=
  let ts := s.trays.filter fun t => ((s.launch? t.launch).map fun l => l.phase == .running && l.ending.isNone).getD false
  ((ts.map fun t => (t.warps.map fun w => w.chunks t).flatten).flatten).insertionSort fun a b => a.before b

/-- The open gathering that a chunk joins. -/
def State.openGather (s : State) (c : Chunk) : Option Gathering :=
  s.gathers.find? fun g => g.launch == c.launch && g.core == c.core && g.hvec == c.hvec && !g.closed

/-- A gathering opened with the next number of its launch, mod 2^24. -/
def State.newGather (s : State) (c : Chunk) : Gathering × State :=
  let n := ((s.launch? c.launch).map Launch.gathers).getD 0
  let g : Gathering := ⟨c.launch, n % 2 ^ 24, c.core, c.hvec, [], s.cycle, false⟩
  (g, { s with gathers := s.gathers ++ [g] }.modLaunch c.launch fun l => { l with gathers := n + 1 })

/-- Lanes enter a gathering; it closes with 32 lanes when full tells so. -/
def State.enterGather (s : State) (g : Gathering) (c : Chunk) (ks : List Nat) (full : Bool) : State :=
  let lanes := g.lanes ++ ks.map fun k => (⟨c.tray, c.group, k⟩ : Origin)
  let put := fun (x : Gathering) => if x.launch == g.launch && x.n == g.n then { x with lanes := lanes, closed := x.closed || (full && lanes.length == 32) } else x
  let s1 := { s with gathers := s.gathers.map put }
  s1.modWarp (.group c.launch c.tray c.group) fun w => w.mapLanes ks fun _ l => { l with gathered := true }

/-- A of a GATHER record (R205). -/
def gatherWord (g : Gathering) : Nat := g.n % 2 ^ 24 + g.lanes.length % 32 * 2 ^ 24

/-- A chunk gathered, in normal and record mode: as many lanes as the open gathering takes, and the rest in a fresh one; the lanes of one group that enter together share a GATHER record. -/
def State.gatherChunk (s : State) (c : Chunk) : Nat → List Nat → State
  | 0, _ => s
  | _, [] => s
  | n + 1, ks =>
    let o := match s.openGather c with
      | some g => (g, s)
      | none => s.newGather c
    let now := ks.take (32 - o.1.lanes.length)
    let who := s.who (.group c.launch c.tray c.group)
    match s.gate who 0x16 0 with
    | .wait => s.stalled who 0x16 0
    | .record => ((o.2.logPut who 0x16 0 (gatherWord o.1) (maskOf now).toNat).enterGather o.1 c now true).gatherChunk c n (ks.drop now.length)
    | _ => (o.2.enterGather o.1 c now true).gatherChunk c n (ks.drop now.length)

/-- Whether a later record of the ring still gathers lanes under a number (R143). -/
def State.moreGather (s : State) (c ltag n : Nat) : Bool :=
  let x := s.ctx c
  (List.range x.logUsed).any fun j =>
    let a := x.logAddr ((x.cons + j) % 2 ^ 28)
    let w0 := memRead s.mem a 8
    bits w0 56 8 == 0x16 && bits w0 36 16 == ltag && bits (memRead s.mem (a + 16) 8) 0 24 == n

/-- A GATHER record at CONS carried out in replay (R143, R210): the lanes it names enter at the logged handler lanes, once they are trapped; one that can trap no more diverges. -/
def State.replayGather (s : State) (l : Launch) (t : Tray) (w : Warp) : State :=
  let who := s.who w.agent
  match s.gate who 0x16 0 with
  | .replay ra rb =>
    let ks := (List.range 32).filter fun k => bit rb k
    if ks.any fun k => (w.lane k).st == .exited || (w.lane k).st == .vacant then s.divergeFront w 0x16
    else if !(ks.all fun k => (w.lane k).gatherable) || w.evicted then s
    else
      let c : Chunk := ⟨0, t.launch, t.idx, w.agent.groupNo, t.core, (w.lane (ks.headD 0)).hvec, ks⟩
      let n := bits ra 0 24
      let found := s.gathers.find? fun g => g.launch == l.id && g.n == n && !g.closed
      let o := match found with
        | some g => (g, s)
        | none => s.newGather c
      if o.1.n != n || gatherWord o.1 != ra || 2 ^ 32 ≤ rb then s.divergeFront w 0x16
      else
        let s1 := (o.2.logTake l.ctx).enterGather o.1 c ks false
        if s1.moreGather l.ctx l.ltag n then s1
        else { s1 with gathers := s1.gathers.map fun (x : Gathering) => if x.launch == l.id && x.n == n then { x with closed := true } else x }
  | _ => s

/-- Trapped lanes enter gatherings (R143). -/
def State.pollGathers (s : State) : State :=
  let normal := s.chunksAll.foldl (fun (s : State) c =>
    if ((s.launch? c.launch).map fun l => l.f.mode == 2).getD true then s else s.gatherChunk c 33 c.lanes) s
  let rs := normal.launches.filter fun l => l.f.mode == 2 && l.phase == .running && l.ending.isNone
  rs.foldl (fun (s : State) l => (s.trays.filter fun t => t.launch == l.id).foldl (fun (s : State) t =>
    t.warps.foldl (fun (s : State) w => if w.held? then s.replayGather l t w else s) s) s) normal

/-- GATHERING_CLOSE_TIMEOUT (R143): 256 cycles after its first lane entered; in replay only the log closes a gathering. -/
def execGatheringCloseTimeout (launch n : Nat) (s : State) : Out :=
  let replay := ((s.launch? launch).map fun l => l.f.mode == 2).getD true
  let close := fun (x : Gathering) => if x.launch == launch && x.n == n && !replay && decide (x.opened + 256 ≤ s.cycle) then { x with closed := true } else x
  .next { s with gathers := s.gathers.map close }

/-- Whether a handler slot of a core is free (R143). -/
def State.slotFree (s : State) (core h : Nat) : Bool := s.handlers.all fun x => x.core != core || x.slot != h

/-- The handler slot that the logged events of a gathering name (R203): that of the first record of the ring whose agent is its handler group. -/
def State.loggedSlot (s : State) (c ltag n : Nat) : Option Nat :=
  let x := s.ctx c
  ((List.range x.logUsed).findSome? fun j =>
    let w0 := memRead s.mem (x.logAddr ((x.cons + j) % 2 ^ 28)) 8
    if bits w0 52 4 == 1 && bits w0 36 16 == ltag && bits w0 12 24 == n % 2 ^ 24 then some (bits w0 5 7) else none)

/-- The handler slot in which a gathering starts (R143): the lowest free one of its core. In replay the one that its logged events name, once that is free, since they are compared with it (R203, R209), or the
highest free one when it logged none (log entry 38: DEDUCED). -/
def State.startSlot (s : State) (l : Launch) (g : Gathering) : Option Nat :=
  if l.f.mode = 2 then
    match s.loggedSlot l.ctx l.ltag g.n with
    | some h => if s.slotFree g.core h then some h else none
    | none => [3, 2, 1, 0].find? (s.slotFree g.core)
  else [0, 1, 2, 3].find? (s.slotFree g.core)

/-- A handler lane for an origin lane (R143, R294): at HVEC, registers zero, with the origin's identity and tag; Vacant if the origin lane is trapped no more. -/
def State.handlerLane (s : State) (g : Gathering) (o : Origin) : Lane :=
  match s.warp? (.group g.launch o.tray o.group) with
  | some w =>
    let l := w.lane o.vlane
    if l.st == .trapped then { Lane.fresh 64 (g.hvec.setWidth 56) l.ident with origin := some o, tag := l.tag } else { Lane.vacant with v := List.replicate 64 0 }
  | none => { Lane.vacant with v := List.replicate 64 0 }

/-- Whether every origin lane's trap release has been performed (R145). -/
def State.trapsDrained (s : State) (g : Gathering) : Bool :=
  g.lanes.all fun o =>
    let a : Agent := .group g.launch o.tray o.group
    match s.warp? a with
    | some w => decide ((w.lane o.vlane).rel ≤ (s.ord a).nrel)
    | none => true

/-- What a handler group is ordered after: the trap releases of its origin lanes (R145). -/
def State.trapView (s : State) (g : Gathering) : List RelId :=
  g.lanes.foldl (fun (v : List RelId) o =>
    let a : Agent := .group g.launch o.tray o.group
    match s.warp? a with
    | some w => (match s.rel? ⟨a, (w.lane o.vlane).rel⟩ with
      | some r => union v (r.id :: r.view)
      | none => v)
    | none => v) []

/-- HANDLER_GROUP_START (R143, R145, R294): a closed gathering starts in a free handler slot of its core, once the traps' releases have been performed. -/
def execHandlerGroupStart (launch n : Nat) (s : State) : Out :=
  .next (match s.gathers.find? fun g => g.launch == launch && g.n == n, s.launch? launch with
    | some g, some l =>
      match s.startSlot l g with
      | none => s
      | some h =>
        if !g.closed || !s.trapsDrained g || l.phase != .running || l.ending.isSome then s
        else
          let a : Agent := .handler launch n
          let ls := g.lanes.map (s.handlerLane g)
          let w := Warp.fresh a 64 (ls ++ List.replicate (32 - ls.length) { Lane.vacant with v := List.replicate 64 0 }) (entryScalars l.f.param 0)
          let s1 := { s with
            gathers := s.gathers.filter fun x => !(x.launch == launch && x.n == n)
            handlers := s.handlers ++ [({ launch := launch, n := n, core := g.core, slot := h, warp := w } : Handler)] }
          s1.setOrd a { Ord.clear with view := s.trapView g }
    | _, _ => s)

/-! The fairness slice (R136) -/

/-- Whether the record at CONS is a slice of a group at an issue count that the group has passed (R209, R210). -/
def State.pastSlice (s : State) (w : Warp) : Bool :=
  match s.gate (s.who w.agent) 0x14 0 with
  | .replay ra _ => decide (ra < w.issues)
  | _ => false

/-! The fairness timer (R136) -/

/-- The framing of a front: its lowest lane's (log entry 11: DESIGN CHOICE). -/
def Warp.frontFrame (w : Warp) : Frame :=
  match w.front with
  | k :: _ => (w.lane k).frame
  | [] => .header

/-- The header address of the block that holds the issue address, or the issue address where the front stands at a header. -/
def Warp.blockAt (w : Warp) : Pc :=
  match w.frontFrame with
  | .body h _ _ => h
  | .header => w.frontPc
  | .entry => w.frontPc

/-- The reconvergence point of the block that holds the issue address, for the fairness timer (R130, R136): one that is no header has no effect. -/
def State.reconv (s : State) (w : Warp) : Option Pc :=
  match s.launchOf w.agent with
  | none => none
  | some la => ((s.headerAt la w.blockAt).bind fun h =>
      if h.reconv == 0 then none
      else
        let p := w.blockAt + BitVec.ofInt 56 (8 * signed 20 h.reconv.toNat)
        if (s.headerAt la p).isSome then some p else none)

/-- The fairness timer looks at a group about to issue (R136): reset when the front's lane set has changed or a Ready lane stands at the target point. -/
def State.fairness (s : State) (w : Warp) : Warp :=
  if !((s.launchOf w.agent).map fun l => l.f.promise).getD false then w
  else
    let f := maskOf w.front
    if w.fairF != f || w.ready.any (fun k => some (w.lane k).pc == w.fairP) then { w with fairT := 0, fairF := f, fairP := s.reconv w } else w

/-- FAIRNESS_SLICE (R136, R209): the timer has reached 4,096 and some Ready lane lies outside F; the slice is logged. In replay it is taken where the log says; a group that has
passed the logged issue count, or stands at it with another issue address, diverges (R209, R210). -/
def execFairnessSlice (a : Agent) (s : State) : Out :=
  .next (match s.warp? a, s.launchOf a with
    | some w0, some l =>
      let w := s.fairness (if w0.stalls then w0.unwait else w0)
      if s.pastSlice w0 then s.divergeFront w0 0x14
      else if !l.f.promise || w.evicted || w.halted || w.wait.isSome || w.slice.isSome || l.phase != .running then s
      else match w.issueAddr with
        | none => s
        | some pc =>
          let who := s.who a
          match s.gate who 0x14 0 with
          | .replay ra rb => if ra ≠ w.issues then s else if rb = pc.toNat then (s.logTake l.ctx).setWarp w.takeSlice else s.divergeFront w0 0x14
          | g =>
            if l.f.mode = 2 || decide (w.fairT < 4096) || !(w.ready.any fun k => !inMask w.fairF k) then s
            else match g with
              | .wait => s.stalled who 0x14 0
              | .record => (s.logPut who 0x14 0 w.issues pc.toNat).setWarp w.takeSlice
              | _ => s.setWarp w.takeSlice
    | _, _ => s)

/-! Compaction windows (R132) -/

/-- COMPACTION_WINDOW_EXPIRY (R132, R135): a window whose moment has come closes, and a closed one's groups resume. -/
def execCompactionWindowExpiry (launch tray : Nat) (h : Pc) (s : State) : Out :=
  .next (match s.launch? launch with
    | some l => if l.phase != .running || l.ending.isSome then s else ((s.headerAt l h).map fun hd => s.windowStep l tray hd h).getD s
    | none => s)

end Sys2Proof.Machine
end

