-- ==== Sys2Proof/Machine/Issue.lean ====
section
/-!
DEFINITION. Issue: which group issues next, the passage of time, the fairness timer (R136), fetch (R163), framing (R129, R281, R282), breakpoints (R218), and what an issue leaves behind.
-/

namespace Sys2Proof.Machine

/-! Time and counters (R136, R211, R411) -/

/-- Whether a wait keeps the issue slot: a stall of the scoreboard, a tile that an attn holds, fstat while an attn runs (R136, R236, R255). -/
def Wait.keepsSlot : Wait → Bool
  | .pending => true
  | .tile => true
  | .attn => true
  | _ => false

/-- Whether a group holds an issue slot: resident, not halted, not waiting without a slot, with a Ready lane (R127, R136). -/
def Warp.holdsSlot (w : Warp) : Bool := !w.evicted && !w.halted && (w.wait.all Wait.keepsSlot) && !w.ready.isEmpty

/-- n cycles pass for a group: held or waited, and the fairness timer while it holds a slot (R136, R411). -/
def Warp.pass (n : Nat) (w : Warp) : Warp :=
  if w.gone then w
  else if w.holdsSlot then { w with held := w.held + n, fairT := w.fairT + n } else { w with waited := w.waited + n }

/-- Time passes by one step's pace (log entry 5: DESIGN CHOICE); the fairness timers are looked at in every cycle (R136). -/
def State.tick (s : State) : State :=
  { s with
    cycle := s.cycle + s.paceC
    now := s.now + BitVec.ofNat 64 s.paceNs
    active := if s.busy then s.now else s.active
    trays := s.trays.map fun t => { t with warps := t.warps.map fun w => (s.fairness w).pass s.paceC }
    handlers := s.handlers.map fun h => { h with warp := (s.fairness h.warp).pass s.paceC } }

/-- Lanes on their way back that the log held become Ready once it lets them (R208); in replay the record at CONS is looked at for every group. -/
def State.pollBacks (s : State) : State :=
  let as := ((s.trays.map Tray.warps).flatten ++ s.handlers.map Handler.warp).filter fun w => s.modeOf w.agent == 2 || w.lanes.any fun l => l.back.isSome
  as.foldl (fun (s : State) w => s.comeBacks w.agent) s

/-- Time passes, and what the log held goes on, and groups receive what came about while they stood still. -/
def State.wait1 (s : State) : State := s.tick.deliverLate.pollBacks.pollGathers.pruneWaits

/-! The next group -/

/-- Whether replay holds a group at its issue count for lanes that must come back first, or for a slice it must take there (R208, R136): the next READY or SLICE record of the ring that names it
stands at that count. A waiting word, already counted, is tried again. -/
def State.readyHold (s : State) (w : Warp) : Bool :=
  let who := s.who w.agent
  if who.mode ≠ 2 || w.retries then false
  else match (s.logRecs who.ctx).find? fun r => (bits r.1 56 8 == 0x18 || bits r.1 56 8 == 0x14) && bits r.1 0 56 == who.tag with
    | some r => r.2.1 == w.issues
    | none => false

/-- Whether a page that something waits for is absent no more, and in no migration's final hold. -/
def State.pageCome (s : State) (p : Nat) : Bool :=
  match s.pageState (p * 65536) with
  | .absent => false
  | _ => !s.held (p * 65536)

/-- Whether a group may be issued, or its waiting instruction tried again. The waits left out here end by a step of their own. -/
def State.runnable (s : State) (w : Warp) : Bool :=
  !s.stands w && !w.ready.isEmpty && !s.readyHold w &&
  (match w.wait with
    | none => true
    | some (.sleep t) => decide (t ≤ s.now)
    | some .rbar => !w.held? || w.waitF != maskOf w.front
    | some (.window _) => false
    | some (.freeze _) => false
    | some (.thaw _) => false
    | some .bpctl => false
    | some (.page p _) => s.pageCome p
    | some (.fetch p _) => s.pageCome p
    | some _ => true)

/-- The next group to issue: the first runnable one after the group that issued last, in turn (log entry 1: DESIGN CHOICE). -/
def State.nextWarp (s : State) : Option Warp :=
  let ws := s.allWarps
  let i := match s.turn with
    | some a => (ws.findIdx fun w => w.agent == a) + 1
    | none => 0
  (ws.drop i ++ ws.take i).find? s.runnable

/-! Fetch and framing (R129, R163, R281, R282) -/

/-- The cause of a word where a lane's framing does not allow it (R129, R282): a word that is no header where a header must stand, a header within a body, a matrix word in a block without the
flag. -/
def frameFault (f : Frame) (major : Nat) : Option Nat :=
  match f with
  | .entry => if major = 0xFF then none else some 0x03
  | .header => if major = 0xFF then none else some 0x03
  | .body _ _ m => if major = 0xFF then some 0x01 else if !m && decide (0xC0 ≤ major) && decide (major ≤ 0xDF) then some 0x01 else none

/-- The cause of a word that its framing forbids: the lowest of that and of what the word meets as an instruction (R142, R283). -/
def frameCause (w : Warp) (x : Word) (c : Nat) : Nat :=
  match decode x with
  | .error e => Nat.min c e.cause
  | .ok i => if i.opnds.all w.holds then c else Nat.min c 0x02

/-- The lowest breakpoint at an address: none below debug level 2 (R72), and in replay halting ones change nothing (R218, R221). -/
def State.breakAt? (s : State) (w : Warp) : Option Nat :=
  if s.dbgLevel < 2 then none
  else match s.launchOf w.agent with
    | none => none
    | some la => ((s.ctx la.ctx).bp.zipIdx.find? fun p =>
        bit p.1.toNat 0 && bits p.1.toNat 3 53 * 8 == w.frontPc.toNat && !(la.f.mode == 2 && bit p.1.toNat 1)).map Prod.snd

/-- Whether an instruction is a block header. -/
def Instr.header? : Instr → Bool
  | .blockHeader _ => true
  | _ => false

/-- What an issue comes to: it is over, or an instruction is to be executed, or it meets a breakpoint that traps. -/
inductive Issue where
  | over (s : State)
  | run (i : Instr) (s : State)
  | brk (n : Nat) (i : Instr) (s : State)

/-- The cause of a trap that a lane of a group, or the launch of a handler group, has met on the way from one state to another, as its origin tag or the launch's STATUS holds it; none where it met none. -/
def metAt (w : Warp) (t u : State) (k : Nat) : Option Nat :=
  let ended := fun (s : State) => (s.launchOf w.agent).bind Launch.ending
  if w.agent.isHandler then (if (ended t).isNone then (ended u).map fun x => bits x.toNat 16 8 else none)
  else ((u.warp? w.agent).map fun v => v.lane k).bind fun l => if l.st == .trapped then l.tag.map fun g => bits g.w0.toNat 53 8 else none

/-- A breakpoint that traps, met by a front that is not exempt throughout (R218): the lanes not exempt trap with it, but for those for which the instruction, carried out, has a lower cause (R142, R283); nothing of the instruction's effect stands. -/
def State.breakTrap (n : Nat) (i : Instr) (t u : State) : State :=
  match t.turn.bind t.warp? with
  | none => t
  | some w =>
    let ks := w.front.filter fun k => !(w.lane k).exempt
    let own := fun k => (metAt w t u k).any fun c => decide (c < 0x50)
    let s1 := t.trapLanes (if Instr.header? i then w else w.counted) (ks.map fun k => (k, if own k then .of ((metAt w t u k).getD 0) else .at 0x50 n))
    s1.modWarp w.agent fun v => (ks.filter own).foldl (fun (v : Warp) k => v.setLane k { v.lane k with tag := ((u.warp? w.agent).map fun x => (x.lane k).tag).getD none }) v

/-- The word at a group's front: fetched, with the walk that this makes, checked against the framing, decoded, and checked against the breakpoints. A word that traps there has issued, unless it is a header (R205). -/
def State.issueWord (s : State) (w : Warp) : Issue :=
  match s.launchOf w.agent with
  | none => .over s
  | some la =>
    let s := s.touchCode la w.frontPc.toNat
    match s.fetch la w.frontPc.toNat with
    | .fault c => .over (s.trapFront w.counted (.at c w.frontPc.toNat))
    | .wait p => .over (s.setWarp (w.waiting s.now (.fetch p w.frontPc.toNat)))
    | .word x =>
      let w1 := if bits x.toNat 56 8 = 0xFF then w else w.counted
      match frameFault w.frontFrame (bits x.toNat 56 8) with
      | some c => .over (s.trapFront w1 (.of (frameCause w x c)))
      | none => match decode x with
        | .error e => .over (s.trapFront w1 (.of e.cause))
        | .ok i => match s.breakAt? w with
          | some n => if w.front.all fun k => (w.lane k).exempt then .run i s
            else if bit ((s.ctx la.ctx).bp.getD n 0).toNat 1 then .over (s.haltHit w 0x50 n) else .brk n i s
          | none => .run i s

/-- A slice none of whose lanes is Ready any more is over (R136). -/
def Warp.sliceAlive (w : Warp) : Warp :=
  match w.slice with
  | some m => if w.ready.any (inMask m) then w else { w with slice := none, sliced := false, fairT := 0 }
  | none => w

/-- The group as it goes to issue: a wait at rbar that its front has left is over, so is a slice without a Ready lane, and the fairness timer has been looked at. -/
def State.toIssue (s : State) (w : Warp) : Warp :=
  let w1 := if w.wait.isSome && !w.retries then w.unwait else w
  s.fairness w1.sliceAlive

/-- The issue of a group: it takes the turn, time passes, and its word is fetched. -/
def State.issue (s : State) (w : Warp) : Issue :=
  let s1 := { s.wait1 with turn := some w.agent, lines := [] }
  match s1.warp? w.agent with
  | none => .over s1
  | some w1 =>
    let w2 := s1.toIssue w1
    (s1.setWarp w2).issueWord w2

/-- The lanes of a slice that have not ended their part in it (R136): those that stand in the body of a block. -/
def Warp.sliceLeft (w : Warp) (m : Word32) : Word32 :=
  maskOf ((List.range w.lanes.length).filter fun k => inMask m k && (match (w.lane k).frame with
    | .body _ _ _ => true
    | .entry => false
    | .header => false))

/-- The slice of a group after an issue within it (R136): a lane that stands at a header has ended its part, and the slice is over when none of the others is Ready. -/
def Warp.sliceOn (w : Warp) (m : Word32) : Warp :=
  let r := w.sliceLeft m
  if w.ready.any (inMask r) then { w with slice := some r, sliced := true } else { w with slice := none, sliced := false, fairT := 0 }

/-- A group after an issue (R136, R205): a new issue is counted, a block header's is not; an issue within a slice may end lanes' parts in it, and the slice. -/
def Warp.issued (w : Warp) (count : Bool) (before : Warp) : Warp :=
  let w1 := if count && w.issues == before.issues then { w with issues := w.issues + 1 } else w
  match w1.slice with
  | some m => if before.slice == some m then (if w1.wait.isNone then w1.sliceOn m else w1) else { w1 with sliced := false }
  | none => w1

/-- The state after an instruction that a group issued. -/
def afterIssue (i : Instr) (before after : State) : State :=
  match before.turn.bind before.warp? with
  | none => after
  | some w => after.modWarp w.agent fun v => v.issued (!w.retries && !Instr.header? i && !v.stalls && !v.halted) w

end Sys2Proof.Machine
end

