-- ==== Sys2Proof/Machine/Registers.lean ====
section
/-!
DEFINITION. What a read of a management register returns (R10): the fields that State holds, the fields that are computed at the read, and zero for write-only and reserved bits.
-/

namespace Sys2Proof.Machine

/-- MIN_FREE and MIN_CH of a die (R36): the smallest free pool of its channels, and the lowest channel that has it. -/
def State.minFree (s : State) (die : Nat) : Nat × Nat :=
  (List.range 128).foldl (fun (m : Nat × Nat) c => let n := s.freeChunks (128 * die + c); if n < m.1 then (n, c) else m) (s.freeChunks (128 * die), 0)

/-- START_STEP n (R83). -/
def State.stepReg (s : State) (n : Nat) : Nat :=
  match s.boot.steps[n]? with
  | some r => if n = 0 then 0 else (if s.regs.skipped.getD n false then 3 else 0) * 2 ^ 16 + r.fb.toNat * 2 ^ 15 + r.prev.toNat * 2 ^ 8 + r.last.toNat * 2 ^ 4
  | none => 0

/-- SRV_WSUM: bit n while SRV_WAKE n is non-zero (R121). -/
def Regs.wakeSum (r : Regs) : Nat := r.srvWake.zipIdx.foldl (fun v p => if p.1 = 0 then v else v + 2 ^ p.2) 0

/-- The addresses of the memory-side tables, 2 KiB each; none while translation is off (R164, R166). -/
def State.allTables (s : State) : List Nat := if bit s.regs.mtRoot.toNat 0 then (let t := s.tables; t.1 ++ t.2.1 ++ t.2.2.1 ++ t.2.2.2) else []

/-- SIZE_NEEDED in units of 4 KiB (R45, R46): the chunks held with the shelf, the memory-side tables, and the sheet maps and the state of the contexts that are not free, for which the manual gives no size (log entry 18: DESIGN CHOICE). -/
def State.sizeNeeded (s : State) : Nat :=
  let open_ := (s.ctxs.filter fun p => p.2.st != 0).length
  (s.chunks.foldl (fun n p => n + 512 * p.2) (shelfSize + 2048 * s.allTables.length) + 4095) / 4096 + (if s.chunks.isEmpty then 0 else Config.mapPages s.chunks.length) + (if open_ = 0 then 0 else Config.contextPages open_)

/-- A package register as a read returns it, by its management offset. SIZE_NEEDED is computed (R46), and reads its Reset column, 0, until the start is over (log entry 90: DEDUCED); KEM_CT reads 0
and KEY_AUX0-3 as written, R77 giving them no access code (log entry 82: DESIGN CHOICE). -/
def State.pkgReg (s : State) (o : Nat) : Word :=
  let r := s.regs
  let at8 := fun (l : List Word) (base : Nat) => l.getD ((o - base) / 8) 0
  if o = 0x000 then r.mgmtSem
  else if o = 0x100 then r.dieRst
  else if 0x200 ≤ o ∧ o < 0x280 then at8 r.ablStat 0x200
  else if o = 0x300 then r.domCfg
  else if o = 0x310 then r.distCnt
  else if o = 0x400 then r.cmpCfg
  else if 0x410 ≤ o ∧ o < 0x430 then
    let m := s.minFree ((o - 0x410) / 8)
    BitVec.ofNat 64 (Nat.min m.1 0xFFFFFF * 2 ^ 32 + m.2 * 2 ^ 24 + bits (at8 r.cmpPool 0x410).toNat 0 24)
  else if o = 0x440 then r.balBase
  else if o = 0x448 then r.balCtl
  else if o = 0x500 then BitVec.ofNat 64 (setBits r.ckptCtl.toNat 24 40 (if s.boot.next.isSome then 0 else s.sizeNeeded))
  else if o = 0x508 then r.ckptTgt
  else if o = 0x600 then
    let slot := bits r.keyCtl.toNat 0 13
    BitVec.ofNat 64 (slot + bits r.keyCtl.toNat 21 1 * 2 ^ 21 + (s.keyInUse slot).toNat * 2 ^ 19 + (s.keyLoaded slot).toNat * 2 ^ 20)
  else if 0x648 ≤ o ∧ o < 0x668 then at8 r.keyAux 0x648
  else if o = 0x680 then r.secStat
  else if o = 0x700 then r.dbgCtl
  else if o = 0x720 then r.pwrCtl
  else if o = 0x740 then r.fwCtl
  else if o = 0x748 then r.fwBase
  else if o = 0x760 then r.attCtl
  else if o = 0x768 then r.attBuf
  else if 0x808 ≤ o ∧ o < 0x8E0 then BitVec.ofNat 64 (s.stepReg ((o - 0x800) / 8))
  else if o = 0x900 then r.srvCtl
  else if o = 0x908 then r.srvLtgt
  else if 0x920 ≤ o ∧ o < 0x940 then at8 r.srvDeleg 0x920
  else if o = 0x980 then BitVec.ofNat 64 r.wakeSum
  else if 0xA00 ≤ o ∧ o < 0xC00 then at8 r.srvWake 0xA00
  else if o = 0xC00 then r.mtRoot
  else if o = 0xC08 then r.mtInv &&& 4
  else if 0xC10 ≤ o ∧ o < 0xC30 then at8 r.mtStat 0xC10
  else if o = 0xD00 then r.timeCfg
  else if o = 0xD08 then s.now
  else if o = 0xD10 then r.timeOfs
  else 0

/-- A chain's register as a read returns it (R60). -/
def Chain.reg (h : Chain) (o : Nat) : Word :=
  if o = 0 then BitVec.ofNat 64 (h.engine * 16 + h.enable.toNat) else if o = 8 then h.cmpl else if o = 24 then BitVec.ofNat 64 h.seq else 0

/-- A register of a context's block as a read returns it (R51, R55, R56, R60, R185, R200, R214, R217, R220). -/
def Context.reg (x : Context) (stall : Bool) (o : Nat) : Word :=
  if o = 0x008 then BitVec.ofNat 64 ((if x.st = 1 ∧ x.started ≠ 0 then 1 else x.st) + x.owner * 4 + x.err.toNat * 2 ^ 8 + x.started * 2 ^ 16)
  else if o = 0x010 then x.shadow
  else if o = 0x018 then x.log
  else if o = 0x020 then x.lppool
  else if o = 0x028 then x.frz
  else if o = 0x030 then BitVec.ofNat 64 (x.frozen.length + x.peak * 2 ^ 8)
  else if o = 0x038 then BitVec.ofNat 64 (x.cons + x.diverged.toNat * 2 ^ 29 + x.late.toNat * 2 ^ 30 + stall.toNat * 2 ^ 31 + x.prod * 2 ^ 32)
  else if o = 0x040 then x.smp
  else if o = 0x048 then x.smpc
  else if o = 0x050 then x.trc
  else if o = 0x058 then x.trcc
  else if 0x100 ≤ o ∧ o < 0x300 then
    let r := x.ranges.getD ((o - 0x100) / 32) Range.clear
    if o % 32 = 0 then r.base else if o % 32 = 8 then r.size else if o % 32 = 16 then r.map else r.key
  else if 0x300 ≤ o ∧ o < 0x380 then x.bp.getD ((o - 0x300) / 8) 0
  else if 0x380 ≤ o ∧ o < 0x400 then (let w := x.wp.getD ((o - 0x380) / 16) (0, 0); if o % 16 = 0 then w.1 else w.2)
  else if o = 0x400 then BitVec.ofNat 64 (x.hitCause * 2 ^ 40 + x.hitNum * 2 ^ 32 + x.dumped.toNat * 16 + x.halted.toNat * 8)
  else if o = 0x408 then x.dmp
  else if 0x800 ≤ o then (x.chains.getD ((o - 0x800) / 32) Chain.clear).reg (o % 32)
  else 0

/-- A management register as a read returns it, by its offset in the region (R16, R51). -/
def State.regRead (s : State) (o : Nat) : Word :=
  if o % 8 ≠ 0 then 0
  else if 0x100000 ≤ o ∧ o < 0x200000 then (s.ctx (o / 0x1000 - 0x100)).reg (s.stall (o / 0x1000 - 0x100)) (o % 0x1000)
  else s.pkgReg o

end Sys2Proof.Machine
end

