-- ==== Sys2Proof/Machine/Drains.lean ====
section
/-!
DEFINITION. The memory side's steps: outbox drains (R173, R178, R194, R196), arrivals (R155), queue effects (R109), the completions that waiting groups wait for, host accesses (R191, R195),
write-backs (R187), walks and page resolutions (R165, R167), atomics at their home (R190), room that does not come (R39), load returns and samples (R138, R215).
-/

namespace Sys2Proof.Machine

/-! Drains (R173) -/

/-- A wait for room recorded, once for each write and the sheet it lacks (R38). -/
def State.waitRoom (s : State) (a : Agent) (w : WriteOp) : State :=
  let x := s.lackFor w
  if s.roomWaits.any fun r => r.agent == a && r.op == some w && r.sheet == x.2.1 then s
  else { s with roomWaits := (s.roomWaits.filter fun r => !(r.agent == a && r.op == some w)) ++ [⟨x.1, x.2.1, x.2.2, s.now, a, some w⟩] }

/-- The wait for room of a write is over. -/
def State.endRoomWait (s : State) (a : Agent) (w : WriteOp) : State :=
  { s with roomWaits := s.roomWaits.filter fun r => !(r.agent == a && r.op == some w) }

/-- The tray whose scratchpad or patch window a write reaches is in a slide's hold, in which its accesses wait (R97). -/
def State.intoSlide (s : State) (w : WriteOp) : Bool :=
  w.pieces.any fun p => match p.loc with
    | .sp l _ _ => (s.launch? l).any fun x => x.phase == .sliding
    | .pm l _ _ => (s.launch? l).any fun x => x.phase == .sliding
    | _ => false

/-- Whether an agent is a host port, whose writes drain in the order in which they came (R178). -/
def isPort : Agent → Bool
  | .port _ => true
  | _ => false

/-- The appends that a context holds for a host port's earlier writes take effect once those have drained (R178). -/
def State.flushPort (s : State) (a : Agent) : State := if isPort a then s.ctxs.foldl (fun (s : State) p => s.flushAll p.1) s else s

/-- The k-th entry of an outbox drains, if it is a write that may: it fails and is charged, waits, or becomes the newest version of its words (R173). -/
def State.drainAt (s : State) (a : Agent) (k : Nat) : State :=
  match mayDrain (s.ord a).outbox k with
  | none => s
  | some w =>
    if (isPort a && k != 0) || s.intoSlide w then s
    else match s.drainOp a w .none with
      | .done s1 => ((s1.popBox a k).endRoomWait a w).flushPort a
      | .held p => s.touch (p * 65536)
      | .room => s.waitRoom a w

/-- DRAIN_WRITE (R173, R437): the k-th entry of an outbox drains, if it may; a port's writes drain in order (R178). -/
def execDrainWrite (a : Agent) (k : Nat) (s : State) : Out := .next (s.drainAt a k)

/-- A release that has left the outbox unperformed, for its group holds a deferred store record: the front traps with it, wherever it has got to meanwhile (R169, R389; log entry 50: DEDUCED). -/
def State.releaseFails (s : State) (a : Agent) : State :=
  match s.warp? a with
  | none => s
  | some w => match w.dsr with
    | some d => if w.front.isEmpty then s else (s.setWarp { w with dsr := none }).deliver a (.trap d.trap)
    | none => s

/-- A release at the head of an outbox performed with its own write (R173, R169): a write that fails is charged, neither is performed, and the front traps; one that must wait keeps both waiting. -/
def State.drainRelWrite (s : State) (a : Agent) (sc : Scope) (w : WriteOp) (region : Nat) : State :=
  if s.intoSlide w then s
  else match s.writeSide w with
    | .waits p => s.touch (p * 65536)
    | .noRoom => s.waitRoom a w
    | .fails c => ((((s.walkLines w).chargeFailure a w c).popBox a 0).endRoomWait a w).releaseFails a
    | .ready s1 =>
      let x := (((s1.crossWrite w).popBox a 0).endRoomWait a w).releaseNow a sc
      (x.2.applyWrite a w (.rel x.1)).closeRegion a region

/-- DRAIN_RELEASE (R173): the release at the head of an outbox is performed, with its write, or its arrival sets out (R364). -/
def execDrainRelease (a : Agent) (s : State) : Out :=
  .next (match (s.ord a).outbox with
    | ⟨.release sc none, r⟩ :: _ => ((((s.popBox a 0).releaseNow a sc).2).closeRegion a r).flushPort a
    | ⟨.release sc (some w), r⟩ :: _ => s.drainRelWrite a sc w r
    | ⟨.arrive sc t off n, r⟩ :: _ =>
      let x := (s.popBox a 0).releaseNow a sc
      let s1 := x.2.closeRegion a r
      { s1 with arriving := s1.arriving ++ [⟨a.launchId.getD 0, t, off, n, x.1⟩] }
    | _ => s)

/-- SYNC_WORD_ARRIVAL (R155): the oldest such arrival on its way takes effect; one at a tray in a slide's hold waits (R97). -/
def execSyncWordArrival (launch tray off n : Nat) (s : State) : Out :=
  .next (match s.arriving.find? fun x => x.launch == launch && x.tray == tray && x.off == off && x.n == n with
    | none => s
    | some x =>
      if (s.launch? launch).any fun l => l.phase == .sliding then s
      else { (s.arrival launch tray off n (.rel x.rel)) with arriving := s.arriving.erase x })

/-- The scalar that a command of a group delivers, pending no longer (R389, R221). -/
def Warp.command (w : Warp) (d : BitVec 6) (pc : Pc) (v : Word) : Warp := { (w.noteS d pc).sset d.toNat v with pendS := w.pendS.erase d }

/-- DRAIN_COMMAND (R178, R389): the release at the command's scope, the append, and the sequence number in s[D]; it waits while the log does not let the append through, and a number that replay does not find traps the front (R210). With
the group's deferred store record held, or its record's write failed, nothing is appended, s[D] is zero and the front traps by R169. -/
def execDrainCommand (a : Agent) (s : State) : Out :=
  .next (match (s.ord a).outbox with
    | ⟨.command sc ch addr d pc lost, r⟩ :: _ =>
      let who := s.who a
      let c := s.ctxOf a
      if lost || ((s.warp? a).bind Warp.dsr).isSome then (((s.popBox a 0).modWarp a fun w => w.command d pc 0)).releaseFails a
      else if s.midList c ch then s
      else (match s.gate who 5 0 with
        | .wait => s.stalled who 5 0
        | _ =>
          let x := (s.popBox a 0).releaseNow a sc
          let s1 := (x.2.closeRegion a r).append c ch addr (some a) (s.members a) (some x.1)
          let seq := (s1.chain c ch).seq
          let s2 := s1.modRec c ch seq fun r => { r with mode := who.mode }
          let s3 := s2.modWarp a fun w => w.command d pc (BitVec.ofNat 64 seq)
          match s3.logEvent who 5 0 ch seq with
          | .ok s4 => s4
          | .error _ => (s3.warp? a).elim s3 fun w => s3.divergeFront w 5)
    | _ => s)

/-! Freeze and thaw (R193 to R197, R363) -/

/-- The first word of a range that another agent's open region has written (R194). -/
def State.frozenOver (s : State) (a : Agent) (base size : Nat) : Option (Track × Nat) :=
  let hits := (s.ctx (s.ctxOf a)).track.filterMap fun t => match t.loc with
    | .fab w => if t.write && t.agent != a && decide (base ≤ 4 * w) && decide (4 * w < base + size) then some (t, 4 * w) else none
    | _ => none
  hits.foldl (fun (o : Option (Track × Nat)) p => match o with
    | none => some p
    | some q => if p.2 < q.2 then some p else o) none

/-- What the table makes of a freeze (R193): the table and the result, or the freeze waits for a thaw of the same range. -/
def freezeTable (tbl : List FrzEntry) (base size : Nat) : Option (List FrzEntry × Nat) :=
  let same := tbl.filter fun e => e.base == base && e.size == size
  if same.any fun e => e.thaw.isSome then none
  else match same with
    | e :: _ => if e.count = 65535 then some (tbl, 1)
      else some (tbl.map fun x => if x.base == base && x.size == size then { x with count := x.count + 1 } else x, 0)
    | [] => if 64 ≤ tbl.length then some (tbl, 1) else some (tbl ++ [⟨base, size, 1, none, none⟩], 0)

/-- A group's wait at freeze or thaw over: its result, and its front past the instruction; both when the group is next resident (R363). -/
def State.frzResult (s : State) (a : Agent) (d : BitVec 6) (v : Nat) : State := s.deliver a (.result d v)

/-- DRAIN_FREEZE (R194): the release at system scope, the check against open writes, the entry; a full result is written at once, and done when every core has acknowledged. -/
def execDrainFreeze (a : Agent) (s : State) : Out :=
  .next (match (s.ord a).outbox with
    | ⟨.freeze base size va _, r⟩ :: _ =>
      let c := s.ctxOf a
      let who := s.who a
      (match freezeTable (s.ctx c).frozen base size with
        | none => s
        | some (tbl, res) => match s.gate who 6 0 with
          | .wait => s.stalled who 6 0
          | _ =>
            let s1 := (((s.popBox a 0).releaseNow a .system).2).closeRegion a r
            match s1.warp? a with
            | none => s1
            | some w => match s1.frozenOver a base size with
              | some (t, fa) => s1.deliver a (.trap ⟨0x30, va + BitVec.ofNat 64 (fa - base), raceW3 t 2, raceW4 a.launchId t⟩)
              | none => match s1.logEvent who 6 0 (base % 2 ^ 52) res with
                | .error e => s1.deliver a (.trap e)
                | .ok s2 =>
                  let s3 := s2.modCtx c fun x => { x with frozen := tbl }
                  match res, w.wait with
                  | 1, some (.freeze d) => s3.frzResult a d 1
                  | _, _ => s3)
    | _ => s)

/-- FREEZE_ACKNOWLEDGED (R194): every core has acknowledged the broadcast, and the result done is written. -/
def execFreezeAcknowledged (a : Agent) (s : State) : Out :=
  .next (match s.warp? a with
    | some w => match w.wait with
      | some (.freeze d) => if w.late.isSome || !(s.ord a).outbox.isEmpty then s else s.frzResult a d 0
      | _ => s
    | none => s)

/-- DRAIN_THAW (R196): no match, a count lowered, or a release at system scope and the entry thawing. -/
def execDrainThaw (a : Agent) (s : State) : Out :=
  .next (match (s.ord a).outbox with
    | ⟨.thaw base size, r⟩ :: _ =>
      let c := s.ctxOf a
      let who := s.who a
      let x := s.ctx c
      let mine := fun (e : FrzEntry) => e.base == base && e.size == size && e.thaw.isNone
      (match s.gate who 6 0 with
        | .wait => s.stalled who 6 0
        | _ =>
          let s0 := s.popBox a 0
          let out : State × Nat := match x.frozen.find? mine with
            | none => (s0.closeRegion a r, 2 ^ 64 - 1)
            | some e =>
              if 1 < e.count then ((s0.modCtx c fun x => { x with frozen := x.frozen.map fun e => if mine e then { e with count := e.count - 1 } else e }).closeRegion a r, 0)
              else
                let y := s0.releaseNow a .system
                let n := x.thaws + 1
                ((y.2.modCtx c fun x => { x with
                  thaws := n
                  frozen := x.frozen.map fun e => if mine e then { e with thaw := some n, rel := some y.1 } else e }).closeRegion a r, n)
          match out.1.logEvent who 6 0 (2 ^ 63 + base % 2 ^ 52) out.2 with
          | .error e => out.1.deliver a (.trap e)
          | .ok s2 => match (s2.warp? a).bind Warp.wait with
            | some (.thaw d) => s2.frzResult a d out.2
            | _ => s2)
    | _ => s)

/-- The largest n such that every thaw up to n has completed (R196). -/
def thawedTo (out : List Nat) : Nat → Nat → Nat
  | done, 0 => done
  | done, k + 1 => if out.contains (done + 1) then thawedTo out (done + 1) k else done

/-- THAW_REPLICAS_REMOVED (R196): no cache keeps a word of the range, the entry is freed, and the thaw completion word grows, after the thaw's release. -/
def execThawReplicasRemoved (c : Fin 256) (n : Nat) (s : State) : Out :=
  let x := s.ctx c.val
  .next (match x.frozen.find? fun e => e.thaw == some n with
    | none => s
    | some e =>
      let outs := x.thawOut ++ [n]
      let v := thawedTo outs x.thawDone outs.length
      let s0 := s.dropReplicas fun w => decide (e.base ≤ 4 * w) && decide (4 * w < e.base + e.size)
      let s1 := s0.setCtx c.val { x with frozen := x.frozen.erase e, thawOut := outs.filter fun k => decide (v < k), thawDone := v }
      let addr := bits x.frz.toNat 3 49 * 8
      if addr = 0 || v = x.thawDone then s1 else s1.devWrite addr 8 v (donePub e.rel))

/-! What waiting groups wait for -/

/-- The instruction that a group's front stands at, if it can be fetched. -/
def State.frontInstr (s : State) (a : Agent) : Option Instr :=
  match s.warp? a, s.launchOf a with
  | some w, some la => match s.fetch la w.frontPc.toNat with
    | .word x => (match decode x with
      | .ok i => some i
      | .error _ => none)
    | .fault _ => none
    | .wait _ => none
  | _, _ => none

/-- A waiting group's front goes past its instruction, if its wait passes a test and it is resident (R439). -/
def State.endWait (s : State) (a : Agent) (f : Wait → Bool) : State :=
  match s.warp? a with
  | some w => if s.stands w then s else if (w.wait.map f).getD false then s.setWarp w.done else s
  | none => s

/-- A waiting instruction tried again for its group, the turn being left as it was. -/
def retried (a : Agent) (s : State) (f : State → Out) : Out :=
  match f { s with turn := some a } with
  | .next t => .next { t with turn := s.turn }
  | .fault e => .fault e
  | .refused r => .refused r

/-- QUEUE_PUSH_EFFECT (R109): a waiting push takes effect at the home bank. -/
def execQueuePushEffect (a : Agent) (s : State) : Out :=
  match (s.warp? a).bind Warp.wait, s.frontInstr a with
  | some .qpush, some (.qpush g d x) => if (s.warp? a).all s.stands then .next s else retried a s (execQpush g d x)
  | _, _ => .next s

/-- QUEUE_POP_EFFECT (R109): a waiting pop takes effect. -/
def execQueuePopEffect (a : Agent) (s : State) : Out :=
  match (s.warp? a).bind Warp.wait, s.frontInstr a with
  | some .qpop, some (.qpop g d x c) => if (s.warp? a).all s.stands then .next s else retried a s (execQpop g d x c)
  | _, _ => .next s

/-- RFLUSH_DONE (R198, R357): no store of the group to the range is pending; the range's dirty lines reach home storage, and the front advances. -/
def execRflushDone (a : Agent) (s : State) : Out :=
  .next (match (s.warp? a).bind Warp.wait with
    | some (.rflush fa n) =>
      if s.pendingIn a fa n then s
      else
        (s.flushRange fa n).endWait a fun r => r == .rflush fa n
    | _ => s)

/-- LOG_FLUSH_DONE (R407): the ring has room again and no append of the group is still to be logged, so its records are in memory. -/
def execLogFlushDone (a : Agent) (s : State) : Out :=
  let x := s.ctx (s.ctxOf a)
  .next (if (x.logUsed = x.logCap ∧ (s.who a).mode = 1) ∨ s.appending a then s
    else (s.endWait a fun r => r == .logFlush).modCtx (s.ctxOf a) fun x => x.passed ((s.who a).word0 0 0))

/-- BPCTL_PROPAGATED (R409): every core holds the value, and the front advances. -/
def execBpctlPropagated (a : Agent) (s : State) : Out := .next (s.endWait a fun r => r == .bpctl)

/-- SLEEP_WAKE (R213, R307): the time base has reached the instant. -/
def execSleepWake (a : Agent) (s : State) : Out :=
  .next (s.endWait a fun r => match r with
    | .sleep t => decide (t ≤ s.now)
    | _ => false)

/-! Loads return; samples (R138, R215) -/

/-- Whether a request passes a queueing point, by the unit that serves it (R215): 0 the first-level cache, which each passes; 1 to 3 the crossbar, the home slice and a die-to-die link, which one served there
does not; 4 and 5 the compression engine and a memory controller, on the way to storage; 6 the second tier (log entry 15: DEDUCED). -/
def passesPoint (srv j : Nat) : Bool :=
  if j = 0 then true
  else if j < 4 then decide (srv ≠ 0)
  else if j < 6 then srv == 3 || srv == 4 || srv == 5
  else srv == 4 || srv == 5

/-- The eight waits of a request, low first (R215): at each queueing point that it passes a free value, at the others 0; then their sum; each saturates (log entry 15: DEDUCED). -/
def sampleWaits (n srv : Nat) : List Nat :=
  let ws := (List.range 7).map fun j => if passesPoint srv j then Config.queueWait n j else 0
  (ws ++ [ws.foldl (· + ·) 0]).map fun w => Nat.min w 0xFFFF

/-- The sample record of a request (R215). -/
def State.sampleBytes (s : State) (r : Request) : List (BitVec 8) :=
  toBytes 8 r.at0.toNat ++ toBytes 8 (r.pc.toNat / 8) ++ toBytes 8 r.va ++
    toBytes 8 (r.kind * 2 ^ 56 + r.tray * 2 ^ 32 + r.vlane * 2 ^ 21 + r.group * 2 ^ 16 + r.core) ++
    ((sampleWaits s.free r.srv).map (toBytes 2)).flatten ++ toBytes 8 s.now.toNat ++ toBytes 8 (r.fab.getD 0 + r.srv * 2 ^ 60)

/-- A tagged request completes: its sample record is written or dropped, while the debug level and EN allow records (R214, R215). -/
def State.sampleDone (c : Nat) (s : State) (r : Request) : State :=
  let x := s.ctx c
  if s.dbgLevel < 1 || !bit x.smpc.toNat 8 then s
  else
    let w := ({ s with free := s.free + 1 }).bufRecord c x.smp x.smpc 64 96 (s.sampleBytes r)
    w.2.modCtx c fun x => { x with smpc := w.1 }

/-- LOAD_DATA_RETURN (R138, R215): the oldest pending load of a group arrives, and those of its tagged requests that the memory side no longer holds complete. -/
def execLoadDataReturn (a : Agent) (s : State) : Out :=
  let s1 := s.modWarp a fun w => if w.halted then w else { w with pend := w.pend.drop 1 }
  let mine := fun (r : Request) => r.agent == a && s1.completable r
  .next { ((s1.requests.filter mine).foldl (State.sampleDone (s1.ctxOf a)) s1) with requests := s1.requests.filter fun r => !mine r }

/-! Atomics at their home (R176, R190) -/

/-- ATOMIC_EXECUTE (R190): an atomic executes at the home of its word, on the newest version; a word registered to a core is recalled first. One that is misaligned, that the memory side does not serve, or
that would write a frozen word, or that is of a floating type on a host-homed word, has no effect here. -/
def execAtomicExecute (a : Agent) (addr : BitVec 52) (r : AtomReq) (s : State) : Out :=
  let fa := addr.toNat
  let n := r.bytes
  let locs := (List.range (n / 4)).map fun j => Loc.fab (fa / 4 + j)
  .next (if fa % n ≠ 0 || s.side fa != .served || (s.redFails fa).isSome || s.frozenAny fa n || (r.flt && hostHomed fa) then s
    else
      let t : Target := ⟨.mem locs 0, 0, some fa, false, false, false, fa⟩
      let s0 := (s.walkFor fa).recall t
      let old := memRead s0.mem fa n
      let poison := locs.any fun l => (s0.newest l).poison
      if poison then s
      else
        let s1 := { s0 with atomOld := BitVec.ofNat 64 old }
        match r.run old with
        | none => s1.wakeAt t
        | some v =>
          let w : WriteOp := ⟨(List.range (n / 4)).map fun j => ⟨.fab (fa / 4 + j), 15, BitVec.ofNat 32 (bits v (32 * j) 32)⟩, 0, 0, 0, BitVec.ofNat 64 fa⟩
          match s1.roomFor w with
          | some s2 => s2.applyAt a w .none none
          | none => s)

/-! Host accesses to device memory (R178, R191, R195) -/

/-- The words that a list of bytes at an address writes. -/
def bytesWrite (fa : Nat) (bs : List (BitVec 8)) : WriteOp :=
  let n := bs.length
  let pieces := (List.range ((fa + n + 3) / 4 - fa / 4)).map fun j =>
    let w := fa / 4 + j
    let has := fun (b : Nat) => decide (fa ≤ 4 * w + b) && decide (4 * w + b < fa + n)
    let mask := [0, 1, 2, 3].foldl (fun (m : BitVec 4) b => if has b then m ||| BitVec.ofNat 4 (2 ^ b) else m) 0
    let val := [0, 1, 2, 3].foldl (fun (v : Nat) b => if has b then v + (bs.getD (4 * w + b - fa) 0).toNat * 2 ^ (8 * b) else v) 0
    (⟨.fab w, mask, BitVec.ofNat 32 val⟩ : Piece)
  ⟨pieces, 0, 0, 0, BitVec.ofNat 64 fa⟩

/-- Whether an address lies where a host write reaches memory: not the management region. -/
def memoryAt (fa : Nat) : Bool := regionOf (offOf fa) != .mgmt && regionOf (offOf fa) != .reserved

/-- HOST_MEMORY_WRITE (R178, R195, R38, R43): discarded whole and reported when it covers a frozen byte or fails at the memory side (log entry 16: DEDUCED); else it joins the port's outbox, behind the
port's earlier writes, and with none before it is performed at once where nothing makes it wait. -/
def execHostMemoryWrite (p : Port) (addr : BitVec 52) (bytes : List (BitVec 8)) (s : State) : Out :=
  let fa := addr.toNat
  .next (if s.boot.off || !s.portIsUp p.val || bytes.isEmpty || !memoryAt fa then s
    else if s.frozenAny fa bytes.length then { s with signals := s.signals ++ [.aer p.val fa] }
    else
      let a : Agent := .port p.val
      let s1 := s.push a (.write (bytesWrite fa bytes)) false
      if (s.ord a).outbox.isEmpty then s1.drainAt a 0 else s1)

/-- The answer to a host's read of memory (R191, R199): the newest bytes; none where the memory side does not serve the address, or a word is poisoned. -/
def State.hostAnswer (s : State) (fa len : Nat) : State :=
  let ok := memoryAt fa && s.side fa == .served && s.side (fa + len - 1) == .served &&
    !((List.range ((fa + len + 3) / 4 - fa / 4)).any fun j => (s.newest (.fab (fa / 4 + j))).poison)
  { s.walkFor fa with hostRead := if ok then memBytes s.mem fa len else [] }

/-- HOST_MEMORY_READ (R191, R16, R43): of memory, once no migration's final hold is on it; in the management region, the bytes of the register. -/
def execHostMemoryRead (p : Port) (addr : BitVec 52) (len : Nat) (s : State) : Out :=
  let fa := addr.toNat
  .next (if s.boot.off || !s.portIsUp p.val then s
    else if regionOf (offOf fa) == .mgmt && pkgOf fa == s.pkg then
      let o := offOf fa - 0x3F0000000000
      { s with hostRead := ((toBytes 8 (s.regRead (o / 8 * 8)).toNat).drop (o % 8)).take len }
    else if s.held fa || s.held (fa + len - 1) then { s with hostReads := s.hostReads ++ [(fa, len)] }
    else s.hostAnswer fa len)

/-- The reads of hosts that waited for a final hold are answered (R43). -/
def State.answerReads (s : State) : State :=
  let go := fun (p : Nat × Nat) => !(s.held p.1 || s.held (p.1 + p.2 - 1))
  (s.hostReads.filter go).foldl (fun (s : State) p => s.hostAnswer p.1 p.2) { s with hostReads := s.hostReads.filter fun p => !go p }

/-- CXL_CACHE_SNOOP (R191): the host takes a host-homed line back. -/
def execCxlCacheSnoop (p : Port) (line : BitVec 52) (s : State) : Out :=
  .next (if regionOf (offOf line.toNat) == .host p.val then { s with hostLines := alDel s.hostLines (line.toNat / 64) } else s)

/-! Write-backs, walks, resolutions (R140, R165, R167, R187) -/

/-- The pending writes to a line of an agent drain, the oldest first, as far as they may (R187). -/
def State.drainLine (s : State) (a : Agent) (line : Nat) : State :=
  (s.ord a).outbox.foldl (fun (s : State) e => match e.kind with
    | .write w => if w.lines.any fun x => x / 128 == line then s.drainAt a ((s.ord a).outbox.findIdx fun y => y == e) else s
    | _ => s) s

/-- LINE_WRITE_BACK (R187): a line leaves a core's first-level cache for its home: the writes to it that the core's agents still have pending drain first. -/
def execLineWriteBack (core : Nat) (addr : BitVec 52) (s : State) : Out :=
  let line := addr.toNat / 128
  let as := (s.ords.filter fun p => s.coreOf p.1 == some core).map Prod.fst
  .next ((as.foldl (fun (s : State) a => s.drainLine a line) s).lineBack line fun c => c == core)

/-- PAGE_WALK (R165): a walker of a die translates a line request. -/
def execPageWalk (die : Fin 4) (addr : BitVec 52) (s : State) : Out := .next (s.walk die.val addr.toNat)

/-- The lanes of a group parked for a page. -/
def Warp.parkedFor (w : Warp) (page : Nat) : List Nat :=
  (List.range w.lanes.length).filter fun k => (w.lane k).st == .parked && (w.lane k).park == some page && (w.lane k).back.isNone

/-- The lanes of a group parked for a page come back, or trap with a cause (R140, R167). -/
def State.resolveLanes (s : State) (a : Agent) (page : Nat) (cause : Option Nat) : State :=
  match s.warp? a with
  | none => s
  | some w =>
    let ks := w.parkedFor page
    if ks.isEmpty then s
    else match cause with
      | none => (s.setWarp (w.mapLanes ks fun _ l => { l with back := some .unpark })).comeBack a false
      | some c => s.trapLanes w (ks.map fun k => (k, ⟨c, (w.lane k).parkVa, 0, 0⟩))

/-- Every group and handler group. -/
def State.warpAgents (s : State) : List Agent :=
  (s.trays.map fun t => t.warps.map Warp.agent).flatten ++ s.handlers.map fun h => h.warp.agent

/-- OOS of CMP_POOL counted on the die of a channel, n times (R36). -/
def State.countOos (s : State) (ch : Nat) : Nat → State
  | 0 => s
  | n + 1 => ({ s with regs := { s.regs with cmpPool := s.regs.cmpPool.modify (dieOfChan ch) fun w => satInc w 16 8 } }).countOos ch n

/-- A pending write taken out of its agent's outbox and charged with a reason; a release that it belonged to is not performed, and traps the front (R39, R167, R169). -/
def State.failWrite (s : State) (a : Agent) (w : WriteOp) (reason : Nat) : State :=
  let mine := fun (e : OutEntry) => match e.kind with
    | .write v => v == w
    | .release _ (some v) => v == w
    | _ => false
  let o := s.ord a
  let s1 := (s.setOrd a { o with outbox := o.outbox.eraseP mine }).chargeFailure a w reason
  let joined := ((o.outbox.find? mine).map fun e => e.kind != .write w).getD false
  (if joined then s1.releaseFails a else s1).flushPort a

/-- The pending writes that wait for a page (R167). -/
def State.heldWrites (s : State) (page : Nat) : List (Agent × WriteOp) :=
  (s.ords.map fun p => p.2.outbox.filterMap fun e => match e.kind with
    | .write w => if s.writeAbsent w == some page then some (p.1, w) else none
    | .release _ (some w) => if s.writeAbsent w == some page then some (p.1, w) else none
    | _ => none).flatten

/-- A group that waits at an access whose page or chunks do not come (R39, R163, R167): a lane of an atomic that returns a value traps, one of an atomic without return goes on with the failure charged, a
release store or an atomic that releases traps its front as R169 does, and a fetch, a transfer or a group-wide instruction traps its front; the other lanes of an atomic wait on. -/
def State.dropWait (s : State) (w : Warp) (va : Nat) : State :=
  let k := w.front.headD 0
  let op : WriteOp := ⟨[], (w.lane k).pc, k, (w.lane k).ident, BitVec.ofNat 64 va⟩
  let left := w.front.filter fun j => j != k
  let rest := fun (s : State) => s.modWarp w.agent fun v =>
    if left.isEmpty then v.unwait else { v with wait := w.wait, waitF := maskOf left, waitAt := s.now }
  match s.frontInstr w.agent with
  | some (.atom ..) => rest (s.trapLanes w [(k, .at 0x15 va)])
  | some (.cas ..) => rest (s.trapLanes w [(k, .at 0x15 va)])
  | some (.red _ _ (some _) _ _ _ _) => s.trapFront { w with dsr := none } (op.failTrap 0x15)
  | some (.red ..) => rest ((s.setWarp (w.advance [k])).chargeFailure w.agent op 0x15)
  | some (.strel ..) => s.trapFront { w with dsr := none } (op.failTrap 0x15)
  | _ => s.trapFront w (.at 0x15 va)

/-- A fetch whose page does not come traps its front (R163). -/
def State.dropFetch (s : State) (w : Warp) (va : Nat) : State := s.trapFront w.counted (.at 0x15 va)

/-- The groups that wait, issue slot free, for a page: each with its access's address, and whether it is a fetch. -/
def State.pageWaiters (s : State) (page : Nat) : List (Warp × Nat × Bool) :=
  (s.warpAgents.filterMap s.warp?).filterMap fun w => if w.evicted || w.halted then none else match w.wait with
    | some (.page p va) => if p = page then some (w, va, false) else none
    | some (.fetch p va) => if p = page then some (w, va, true) else none
    | _ => none

/-- The started engine commands that wait for a page: context, chain, number, and the address accessed. -/
def State.pageCmds (s : State) (page : Nat) : List (Nat × Nat × Nat × Nat) :=
  (s.ctxs.map fun p => (p.2.chains.zipIdx.map fun h => h.1.recs.filterMap fun r => match r.hold with
    | some (.page fa) => if r.st == 1 && r.ending.isNone && pageOf fa == page then some (p.1, h.2, r.seq, fa) else none
    | _ => none).flatten).flatten

/-- The fabric address on a page of a group's access at a virtual address; the page's first where the access names the page by other means. -/
def State.faultAddr (s : State) (a : Agent) (page va : Nat) : Nat :=
  (((s.ctx (s.ctxOf a)).range va 1).map fun r => r.fabric va).filter (fun fa => pageOf fa == page) |>.getD (page * 65536)

/-- The fabric addresses on a page at which lanes are parked. -/
def State.parkedAddrs (s : State) (page : Nat) : List Nat :=
  ((s.warpAgents.filterMap s.warp?).map fun w => (w.parkedFor page).map fun k => s.faultAddr w.agent page (w.lane k).parkVa.toNat).flatten

/-- Everything that waits for a page fails for want of chunks (R39, R167): held writes, waiting groups, engine commands; each, and each lane that was parked, is an out-of-space fault of the die that homes the address
accessed (R36). -/
def State.failPage (s : State) (page : Nat) (parked : List Nat) : State :=
  let ws := s.heldWrites page
  let gs := s.pageWaiters page
  let cs := s.pageCmds page
  let s1 := ws.foldl (fun (s : State) p => s.failWrite p.1 p.2 0x15) s
  let s2 := gs.foldl (fun (s : State) p => if p.2.2 then s.dropFetch p.1 p.2.1 else s.dropWait p.1 p.2.1) s1
  let s3 := cs.foldl (fun (s : State) c => (s.modRec c.1 c.2.1 c.2.2.1 fun r => { r with hold := none }).endCommand c.1 c.2.1 c.2.2.1 (failStatus 0x15)) s2
  let fas := parked ++ ws.map (fun p => p.2.addrOn page) ++ gs.map (fun p => s.faultAddr p.1.agent page p.2.1) ++ cs.map fun c => c.2.2.2
  fas.foldl (fun (s : State) fa => s.countOos (chanOf (regionRel (offOf fa))) 1) s3

/-- PAGE_RESOLVED (R140, R163, R167): firmware has resolved an absent page: parked lanes come back or trap with the cause of the final entry, or with 0x15 for want of chunks, and what waits for the page goes on
or fails in the same way. -/
def execPageResolved (page : BitVec 52) (noChunks : Bool) (s : State) : Out :=
  let pg := pageOf page.toNat
  let cause : Option (Option Nat) := if noChunks then some (some 0x15) else match s.pageState (pg * 65536) with
    | .present _ => some none
    | .absent => none
    | .unmapped => some (some 0x10)
    | .poisoned => some (some 0x14)
  .next (match cause with
    | none => s
    | some c =>
      let parked := s.parkedAddrs pg
      let s1 := s.warpAgents.foldl (fun (s : State) a => s.resolveLanes a pg c) s
      if noChunks then s1.failPage pg parked else s1)

/-! Room that does not come (R39) -/

/-- A write that found no room is discarded and charged; a command that waits for room ends (R39). -/
def State.dropWrite (s : State) (r : RoomWait) : State :=
  let s1 := { s with roomWaits := s.roomWaits.erase r }
  match r.op, r.agent with
  | some w, _ => s1.failWrite r.agent w 0x15
  | none, .engine c ch seq => (s1.modRec c ch seq fun x => { x with hold := none }).endCommand c ch seq (statusOf 4 0)
  | none, _ => s1

/-- OUT_OF_SPACE_TIMEOUT (R39): the oldest reservation of a channel that has waited 50 µs fails its access with out-of-space. -/
def execOutOfSpaceTimeout (ch : Fin 512) (s : State) : Out :=
  let late := fun (t : Word) => decide (t.toNat + 50000 ≤ s.now.toNat)
  .next (match s.roomWaits.find? fun r => r.channel == ch.val && late r.since with
    | some r => (s.dropWrite r).countOos ch.val 1
    | none => match (s.warpAgents.filterMap s.warp?).find? fun w => match w.wait with
        | some (.room c _ _ _) => c == ch.val && late w.waitAt
        | _ => false with
      | some w => (s.dropWait w (match w.wait with
        | some (.room _ _ _ va) => va
        | _ => 0)).countOos ch.val 1
      | none => s)

end Sys2Proof.Machine
end

