-- ==== Sys2Proof/Machine/Package.lean ====
section
/-!
DEFINITION. The package's own steps: resets (R26 to R29), links (R21 to R24), the domain (R98), soft errors (R5, R99), host links (R17, R50), the balloon list (R41, R42), checkpoints (R45, R46), migrations (R43,
R44, R398), and the memory-side tables (R164, R166).
-/

namespace Sys2Proof

/-- The header of a flit as a number (R21). -/
def Flit.header (f : Flit) : Nat := f.cls.toNat * 2 ^ 60 + f.vc.toNat * 2 ^ 56 + f.seq.toNat * 2 ^ 44 + f.ack.toNat * 2 ^ 32 + f.rsv.toNat

/-- The 256 bytes of a flit (R21): header, payload, and the check over both. -/
def Flit.bytes (f : Flit) : List (BitVec 8) :=
  let b := Machine.toBytes 8 f.header ++ f.payload
  b ++ Machine.toBytes 8 (Config.crc64 b).toNat

/-- The fields of a flit's bytes (R21), with the messages of its payload. -/
def Flit.ofBytes (bs : List (BitVec 8)) (msgs : List LinkMsg) : Flit :=
  let h := Machine.ofBytes (bs.take 8)
  ⟨BitVec.ofNat 4 (bits h 60 4), BitVec.ofNat 4 (bits h 56 4), BitVec.ofNat 12 (bits h 44 12), BitVec.ofNat 12 (bits h 32 12), BitVec.ofNat 32 (bits h 0 32), (bs.drop 8).take 240, msgs⟩

/-- Whether a flit's bytes arrived whole (R22): the forward error correction has not failed, and the CRC matches. -/
def flitWhole (fec : Bool) (bs : List (BitVec 8)) : Bool := fec && bs.length == 256 && Machine.ofBytes (bs.drop 248) == (Config.crc64 (bs.take 248)).toNat

/-- Whether a flit is discarded for its header: a reserved class, or a reserved field that is not zero (R21). -/
def Flit.bad (f : Flit) : Bool := decide (5 < f.cls.toNat) || f.rsv != 0

end Sys2Proof

namespace Sys2Proof.Machine

/-! Resets (R26 to R29) -/

/-- The die of a core index (R14). -/
def dieOfCore (c : Nat) : Nat := Config.dieOf (c % 28) (c / 28)

/-- Whether a tray is resident: it has a group that has neither exited nor been evicted. -/
def Tray.resident (t : Tray) : Bool := t.warps.any fun w => !w.gone && !w.evicted

/-- REFUSED of DIE_RST_CTL set for some dies (R26). -/
def State.rstRefused (s : State) (ds : BitVec 4) : State :=
  { s with regs := { s.regs with dieRst := s.regs.dieRst ||| BitVec.ofNat 64 (ds.toNat * 2 ^ 20) } }

/-- IN_RST of a die (R26). -/
def State.setInRst (s : State) (d : Nat) (on : Bool) : State :=
  { s with regs := { s.regs with dieRst := BitVec.ofNat 64 (setBits s.regs.dieRst.toNat (16 + d) 1 on.toNat) } }

/-- Whether a launch has a tray on a die. -/
def State.onDie (s : State) (l d : Nat) : Bool := s.trays.any fun t => t.launch == l && dieOfCore t.core == d && !t.freed

/-- The words registered to a die's cores are discarded and poisoned, and what the cores' caches hold is gone (R28). A word that a write-back has brought to its home stands with its value there, and so does the
newest version of one that no core has registered (log entry 83: DEDUCED). -/
def State.poisonRegistered (s : State) (d : Nat) : State :=
  let ws := (s.regd.filter fun p => dieOfCore p.2 == d).map Prod.fst
  { (ws.foldl (fun (s : State) w => s.poison (.fab w)) s) with
    regd := s.regd.filter fun p => dieOfCore p.2 != d
    unregd := s.unregd.filter fun p => dieOfCore p.2.1 != d
    cached := s.cached.filter fun p => dieOfCore p.2 != d }

/-- The outboxes of a die's groups are lost with its cores (R28). -/
def State.dropBoxes (s : State) (d : Nat) : State :=
  { s with ords := s.ords.map fun p => if (s.coreOf p.1).map dieOfCore == some d then (p.1, { p.2 with outbox := [] }) else p }

/-- The launches with a tray on a die end with status core reset (R27). -/
def State.endOnDie (s : State) (d : Nat) : State :=
  { s with launches := s.launches.map fun (l : Launch) => if s.onDie l.id d && l.phase != .done then { l with ending := some (l.ending.getD (statusOf 8 0)) } else l }

/-- The core domain of a die reset (R27, R28): with FORCE, launches with a tray on it end; without it no tray is resident there, and none does. -/
def State.coreReset (s : State) (d : Nat) (force : Bool) : State :=
  let s2 := ((if force then s.endOnDie d else s).dropBoxes d).poisonRegistered d
  { s2.setInRst d true with inReset := s2.inReset ++ [(d, false)] }

/-- The dies of a request mask. -/
def diesOf (m : BitVec 4) : List Nat := [0, 1, 2, 3].filter fun d => m.getLsbD d

/-- CORE_RESET (R26, R27): each requested die is reset, or refused while a tray is resident on it without FORCE. -/
def execCoreReset (p : Port) (dies : BitVec 4) (force : Bool) (s : State) : Out :=
  guarded p s (fun s => s.rstRefused dies) fun s => (diesOf dies).foldl (fun (s : State) d =>
    if !force && s.trays.any fun t => t.resident && dieOfCore t.core == d then s.rstRefused (BitVec.ofNat 4 (2 ^ d)) else s.coreReset d force) s

/-- Whether a die homes a word of this package. -/
def State.homed (s : State) (d fa : Nat) : Bool := pkgOf fa == s.pkg && !hostHomed fa && homeDie fa == d

/-- The uncore domain of a die reset, and its core domain with it (R29): every dirty line that its home slices hold is written back and every registration there recalled; words that its cores have registered at
other dies' slices are lost as R28 says. HBM4E and, beside it, the shelf's banks keep what they hold, and so do the die's MT_STAT and the counts of its CMP_POOL (log entry 83: DEDUCED). -/
def State.uncoreReset (s : State) (d : Nat) : State :=
  let ls := union (s.dirty.filter fun l => s.homed d (128 * l)) ((s.regd.filter fun p => s.homed d (4 * p.1)).map fun p => p.1 / 32)
  let s1 := ls.foldl (fun (s : State) l => s.lineBack l fun _ => true) s
  let s2 := (s1.dropBoxes d).poisonRegistered d
  { s2.setInRst d true with inReset := s2.inReset ++ [(d, true)] }

/-- UNCORE_RESET (R29): refused while any context is resident. -/
def execUncoreReset (p : Port) (dies : BitVec 4) (s : State) : Out :=
  guarded p s (fun s => s.rstRefused dies) fun s =>
    if s.ctxs.any fun q => q.2.st != 0 then s.rstRefused dies else (diesOf dies).foldl State.uncoreReset s

/-- DIE_RESET_COMPLETE (R28, R194): the die leaves reset; freeze entries stand. -/
def execDieResetComplete (die : Fin 4) (s : State) : Out :=
  .next (if s.inReset.any fun q => q.1 == die.val then { s.setInRst die.val false with inReset := s.inReset.filter fun q => q.1 != die.val } else s)

/-! Links (R21 to R25) -/

/-- ABL_STAT of a link changed. -/
def State.modAbl (s : State) (n : Nat) (f : Word → Word) : State := { s with regs := { s.regs with ablStat := s.regs.ablStat.modify n f } }

/-- Limited mode (R84): only the host ports and the management window work. -/
def State.limited (s : State) : Bool := bit s.regs.secStat.toNat 3

/-- RETRAIN (R24): a link in state 0 begins training; not in limited mode, in which no link works (R84). -/
def execRetrain (p : Port) (link : Fin 16) (s : State) : Out :=
  guarded p s id fun s => if s.linkState link.val = 0 && !s.limited then s.modAbl link.val fun w => BitVec.ofNat 64 (setBits w.toNat 0 2 1) else s

/-- LINK_TRAINED (R24): a training link comes up with its peer, and its sequence starts anew. -/
def execLinkTrained (link : Fin 16) (peerPkg : BitVec 6) (peerPort : BitVec 4) (s : State) : Out :=
  .next (if s.linkState link.val = 1 then
    let s1 := s.modAbl link.val fun w => BitVec.ofNat 64 (setBits (setBits (setBits w.toNat 0 2 2) 24 6 peerPkg.toNat) 20 4 peerPort.toNat)
    { s1 with links := s1.links.set link.val Link.clear }
  else s)

/-- A context receives a machine check (R23): its running launches stop and complete with that status, and both ports are interrupted. -/
def State.machineCheck (s : State) (c : Nat) : State :=
  let s1 := s.endStarted c launchChain (statusOf 7 0)
  { s1 with signals := s1.signals ++ [.machineCheck c] }

/-- A line marked uncertain and poisoned; the contexts that map it receive a machine check (R23). -/
def State.uncertain (s : State) (line : Nat) : State :=
  let s1 := (List.range 32).foldl (fun (s : State) j => s.poison (.fab (32 * line + j))) s
  (s1.ctxs.filter fun p => (p.2.fabRange (128 * line) 128).isSome).foldl (fun (s : State) p => s.machineCheck p.1) s1

/-- The words of an atomic lost with a link, as a write whose failure is charged (R23). -/
def lostAtomic (k : Nat) (ident : BitVec 16) (pc : Pc) (va : Word) : WriteOp := ⟨[], pc, k, ident, va⟩

/-- A lane traps for what has become of an access or of a register of its; one that is Trapped already keeps its own trap, and the context receives a machine check (log entry 84: DESIGN CHOICE). -/
def State.strikeLane (s : State) (a : Agent) (k : Nat) (va : Word) : State :=
  match s.warp? a with
  | none => s
  | some w => match (w.lane k).st with
    | .ready => s.trapLanes w [(k, .at 0x14 va.toNat)]
    | .parked => s.trapLanes w [(k, .at 0x14 va.toNat)]
    | .trapped => s.machineCheck (s.ctxOf a)
    | .exited => s
    | .vacant => s

/-- A message of a flit that a link lost (R23): a read or its data is issued again over another link, an atomic's words are poisoned and its lane traps or its agent is charged, lines of a directory update
or an acknowledgement are uncertain; the others are dropped. -/
def State.lostMsg (cls : Nat) (s : State) (m : LinkMsg) : State :=
  match m with
  | .coll p i c x k t w => ((List.range 16).find? fun n => s.linkState n == 2).elim s fun n => s.sendFlit n cls [.coll p i c x k t w]
  | .read p i => ((List.range 16).find? fun n => s.linkState n == 2).elim s fun n => s.sendFlit n cls [.read p i]
  | .data p i => ((List.range 16).find? fun n => s.linkState n == 2).elim s fun n => s.sendFlit n cls [.data p i]
  | .atomic addr n a k ident pc va ret =>
    let s1 := (List.range (n / 4)).foldl (fun (s : State) j => s.poison (.fab (addr.toNat / 4 + j))) s
    if ret then s1.strikeLane a k va else s1.chargeFailure a (lostAtomic k ident pc va) 0x14
  | .directory ls => ls.foldl State.uncertain s
  | .acknowledge ls => ls.foldl State.uncertain s
  | .retry _ => s
  | .sync => s
  | .followUp _ => s
  | .delayReq => s
  | .delayResp _ => s
  | .barrier p c ch q t r g => ((List.range 16).find? fun n => s.linkState n == 2).elim s fun n => s.sendFlit n cls [.barrier p c ch q t r g]
  | .halt p i c x y => ((List.range 16).find? fun n => s.linkState n == 2).elim s fun n => s.sendFlit n cls [.halt p i c x y]
  | .resume p i c => ((List.range 16).find? fun n => s.linkState n == 2).elim s fun n => s.sendFlit n cls [.resume p i c]

/-- A link goes down after eight retries (R22, R23): the messages of the flits of its replay buffer that were not acknowledged are classified. -/
def State.linkDown (s : State) (n : Nat) : State :=
  let lost := (s.links.getD n Link.clear).replay
  let s1 := s.modAbl n fun w => BitVec.ofNat 64 (setBits w.toNat 0 2 0) ||| 4 ||| (if lost.any fun f => f.cls == 3 || f.cls == 4 then 8 else 0)
  let s2 := { s1 with links := s1.links.set n Link.clear }
  lost.foldl (fun (s : State) f => f.msgs.foldl (State.lostMsg f.cls.toNat) s) s2

/-- The peer asks for the flits from a sequence number on (R22): they are sent again in order from the replay buffer, for one number at most eight times; asked once more, the link goes down. -/
def State.resend (s : State) (n seq : Nat) : State :=
  let lk := s.links.getD n Link.clear
  let tries := if lk.asked = seq then lk.tries + 1 else 1
  if 8 < tries then s.linkDown n
  else { s with
    links := s.links.set n { lk with asked := seq, tries := tries }
    sent := s.sent ++ (lk.replay.dropWhile fun f => f.seq.toNat != seq).map fun f => Msg.flit n f }

/-! The time base against its source (R211, R212) -/

/-- An offset as TIME_OFS holds it: signed, saturating (R211). -/
def satOfs (z : Int) : BitVec 32 := BitVec.ofInt 32 (if z < -(2 ^ 31) then -(2 ^ 31) else if 2 ^ 31 - 1 < z then 2 ^ 31 - 1 else z)

/-- A measured offset of the time base from its source: it is kept, and LOCKED tells whether the last eight lay within 20 ns (R211). -/
def State.measured (s : State) (z : Int) : State :=
  let o := satOfs z
  let os := (s.offsets ++ [o]).drop (s.offsets.length - 7)
  let locked := os.length == 8 && os.all fun x => decide (-20 ≤ x.toInt) && decide (x.toInt ≤ 20)
  { s with
    offsets := os
    regs := { s.regs with timeOfs := o.setWidth 64, timeCfg := BitVec.ofNat 64 (setBits s.regs.timeCfg.toNat 8 1 locked.toNat) } }

/-- Whether the package is the slave of IEEE 1588 on a link (R211, R212). -/
def State.slaveOn (s : State) (n : Nat) : Bool := bits s.regs.timeCfg.toNat 0 2 == 3 && bits s.regs.timeCfg.toNat 12 4 == n

/-- Whether it is master on a link: on every other up link, with MASTER set (R211, R212). -/
def State.masterOn (s : State) (n : Nat) : Bool := bit s.regs.timeCfg.toNat 2 && s.linkState n == 2 && !s.slaveOn n

/-- Another package's part of a patch barrier has arrived (R366): the barrier completes if it now can. -/
def State.barrierMsg (s : State) (p c ch q t r : Nat) (g : Bool) : State :=
  match s.launches.find? fun l => l.isRec c ch q with
  | none => s
  | some la =>
    let s1 := s.modLaunch la.id fun x => { x with farBars := union x.farBars [(p, t, r, g)] }
    match s1.trays.find? fun x => x.launch == la.id && la.f.patchOf x.idx == t with
    | some x => s1.barSettle la.id x.idx true
    | none => s1

/-! Collectives over packages (R396, log entry 96) -/

/-- The members of a collective that have started here and not ended, in the order they started. -/
def State.collective (s : State) (c id : Nat) : List CollMember :=
  s.colls.filter fun m => m.ctx == c && m.id == id && (s.rec? c m.chain m.seq).any fun r => r.st == 1 && r.ending.isNone

/-- Its members on other packages. -/
def State.farMembers (s : State) (c id : Nat) : List FarMember := s.farColls.filter fun x => x.ctx == c && x.id == id

/-- What must agree among members: COUNT, TYPE, OP and P. -/
def collShape (w3 : Nat) : Nat := bits w3 0 40 + bits w3 56 8 * 2 ^ 40

/-- The shape of a member's record. -/
def CollMember.shape (m : CollMember) : Nat := collShape (m.body.getD 3 0).toNat

/-- Something said of a member of this package to every other package of the domain. -/
def State.tellColl (s : State) (m : CollMember) (what : CollMsg) : State :=
  ((List.range s.domPkgs).filter (· != s.pkg)).foldl (fun (s : State) p =>
    s.sendTo p (match what with
      | .brings _ => 2
      | _ => 1) [.coll s.pkg s.free m.ctx m.id m.rank m.since what]) s

/-- Whether one member, by start and package, started before another. -/
def startedBefore (a b : Nat × Nat) : Bool := decide (a.1 < b.1) || (a.1 == b.1 && decide (a.2 < b.2))

/-- A member has started on another package: where it does not fit one that is still to be assembled, the later of the two ends alone with bad record, each on its own package. -/
def State.joinFar (s : State) (m : FarMember) : State :=
  let far := (s.farMembers m.ctx m.id).filter fun x => !x.used && (x.rank == m.rank || x.shape != m.shape)
  let own := (s.collective m.ctx m.id).filter fun x => x.data.isNone && (x.rank == m.rank || x.shape != m.shape)
  if (far.any fun x => startedBefore (x.since, x.pkg) (m.since, m.pkg)) || own.any fun x => startedBefore (x.since, s.pkg) (m.since, m.pkg) then s
  else
    let s1 := own.foldl (fun (s : State) x => s.endCommand x.ctx x.chain x.seq (statusOf 1 0)) s
    { s1 with farColls := (s1.farColls.filter fun x => !far.contains x) ++ [m] }

/-- A package's word of a member of its own has arrived: it starts; its elements, kept while a member of this package is there; or it ends, and a collective that had assembled with it waits on for another. -/
def State.collMsg (s : State) (p c id rank since : Nat) (what : CollMsg) : State :=
  let it := fun (x : FarMember) => x.pkg == p && x.ctx == c && x.id == id && x.rank == rank && x.since == since
  match what with
  | .joins shape => s.joinFar ⟨p, c, id, rank, since, shape, none, false⟩
  | .brings v =>
    if (s.collective c id).isEmpty then { s with farColls := s.farColls.filter fun x => !it x }
    else { s with farColls := s.farColls.map fun (x : FarMember) => if it x then { x with data := some v } else x }
  | .leaves =>
    let again := s.farColls.any fun x => it x && x.used && x.data.isNone
    let s1 := { s with farColls := s.farColls.filter fun x => !(it x && x.data.isNone) }
    if !again then s1
    else { s1 with
      farColls := s1.farColls.map fun (x : FarMember) => if x.ctx == c && x.id == id then { x with used := false } else x
      colls := s1.colls.map fun (m : CollMember) => if m.ctx == c && m.id == id then { m with data := none } else m }

/-- A message that has arrived: one about a collective (R396); a cross-trigger halts or resumes the context here (R219, R220); of the time messages (R212) Sync and Follow_Up give the slave the first two times, and it sends Delay_Req; the answer gives the fourth, and with it the offset, half of the difference of the two
delays (rounded down: log entry 85: DESIGN CHOICE). A master answers Delay_Req. -/
def State.timeMsg (n : Nat) (s : State) (m : LinkMsg) : State :=
  match m with
  | .sync => if s.slaveOn n then { s with ptp := ⟨some s.now, none, none⟩ } else s
  | .followUp t => if s.slaveOn n && s.ptp.got.isSome then { s with ptp := ⟨s.ptp.got, some t, some s.now⟩ }.sendFlit n 5 [.delayReq] else s
  | .delayReq => if s.masterOn n then s.sendFlit n 5 [.delayResp s.now] else s
  | .delayResp t => match s.ptp with
    | ⟨some got, some sent, some ask⟩ => if s.slaveOn n then { s with ptp := ⟨none, none, none⟩ }.measured ((((got.toNat : Int) - sent.toNat) - ((t.toNat : Int) - ask.toNat)) / 2) else s
    | _ => s
  | .retry q => s.resend n q.toNat
  | .coll p _ c x k t w => s.collMsg p c x k t w
  | .barrier p c ch q t r g => s.barrierMsg p c ch q t r g
  | .halt _ _ c x y => if s.dbgLevel < 2 then s else s.haltHere c x y
  | .resume _ _ c => s.resumeHere c
  | _ => s

/-- Whether a message has an identity, by which a receiver drops the duplicates of one that was issued again (R23). -/
def LinkMsg.named : LinkMsg → Bool
  | .read _ _ => true
  | .data _ _ => true
  | .coll _ _ _ _ _ _ _ => true
  | .barrier _ _ _ _ _ _ _ => true
  | .halt _ _ _ _ _ => true
  | .resume _ _ _ => true
  | _ => false

/-- A flit has arrived on a link that is up (R21, R22): one in sequence is delivered, but for duplicates (R23), and what the peer has received leaves the replay buffer, with the count of the retries it asked for; one that is uncorrectable is discarded and asked for again, at most
eight times. RETRIES counts these requests of this end and not what it resends at the peer's (log entry 81: DESIGN CHOICE). -/
def State.receive (s : State) (n : Nat) (whole : Bool) (f : Flit) : State :=
  let lk := s.links.getD n Link.clear
  if s.linkState n ≠ 2 then s
  else if !whole || f.bad then
    (if lk.retries = 8 then s.linkDown n
     else
      let s1 := s.modAbl n fun w => satInc w 32 16
      { s1 with links := s1.links.set n { lk with retries := lk.retries + 1 }, sent := s1.sent ++ [Msg.retry n lk.expect] })
  else if f.seq.toNat = lk.expect then
    let keep := lk.replay.filter fun (g : Flit) => decide ((f.ack.toNat + 4096 - g.seq.toNat) % 4096 ≥ 2048)
    let g : Flit := { f with msgs := f.msgs.filter fun m => !(LinkMsg.named m && s.delivered.any fun p => p.2.msgs.contains m) }
    let s1 := { s with links := s.links.set n { lk with expect := (lk.expect + 1) % 4096, retries := 0, replay := keep, tries := if keep.any fun g => g.seq.toNat == lk.asked then lk.tries else 0 }, delivered := s.delivered ++ [(n, g)] }
    g.msgs.foldl (State.timeMsg n) s1
  else s

/-- FLIT_RECEIVE (R21, R22): 256 bytes arrive on a link. -/
def execFlitReceive (link : Fin 16) (f : Wire) (s : State) : Out :=
  .next (s.receive link.val (flitWhole f.fec f.bytes) (Flit.ofBytes f.bytes f.msgs))

/-! The domain (R98), host links (R17, R50), soft errors (R5, R99) -/

/-- Whether a domain configuration is one that R98 accepts. -/
def domOk (v : Nat) (reachable : Bool) : Bool :=
  !bit v 24 || (decide (bits v 16 6 + 1 ≤ (bits v 0 4 + 1) * (bits v 4 4 + 1)) && decide (bits v 8 6 ≤ bits v 16 6) && reachable)

/-- DOM_CFG written (R98): refused while any context is active or for a configuration that does not hold together. -/
def execDomCfgWrite (p : Port) (v : Word) (reachable : Bool) (s : State) : Out :=
  guarded p s (fun s => { s with regs := s.regs.refuse 0x300 }) fun s =>
    if (s.ctxs.any fun q => q.2.started != 0) || !domOk v.toNat reachable then { s with regs := s.regs.refuse 0x300 }
    else { s with regs := { s.regs with domCfg := regWrite s.regs.domCfg v 0x13F3FFF 0x2000000 } }

/-- HOST_LINK_DOWN (R17, R50, R79): the window is unbacked, and a firmware load that came by the port discarded; where the port held the semaphore, that is free and an uncommitted key load discarded, whichever port wrote its LOAD. -/
def execHostLinkDown (p : Port) (s : State) : Out :=
  .next (
    let s1 := { s with
      portUp := s.portUp.set p.val false
      boot := if (s.boot.fw.map FwLoad.port) = some p.val then { s.boot with fw := none } else s.boot }
    if s1.holder = some p.val then { s1 with regs := { s1.regs with keyMask := 0, keyFor := none } }.setHolder none else s1)

/-- HOST_LINK_UP (R17): the window is backed again. -/
def execHostLinkUp (p : Port) (s : State) : Out := .next { s with portUp := s.portUp.set p.val true }

/-- A launch that has placed its trays fetches a word that an error has reached as poison (R5, R284). -/
def Launch.loseCode (w : Nat) (l : Launch) : Launch := { l with badCode := union l.badCode [w] }

/-- SOFT_ERROR (R5, R99): corrected; or a memory word is poisoned, as code of the running launches too; or what a lane or a group holds is lost, and the lanes concerned trap with 0x14 (log entry 84: DESIGN CHOICE); or, in a routing entry, a machine
check with which the launch ends. -/
def execSoftError (site : SoftSite) (correctable : Bool) (s : State) : Out :=
  .next (if correctable then s
    else match site with
      | .word a => { (s.poison (.fab (a.toNat / 4))) with launches := s.launches.map (Launch.loseCode (a.toNat / 4)) }
      | .sp l t w => if (s.tray? l t).isSome then s.poison (.sp l t w) else s
      | .pm l t w => if (s.tray? l t).isSome then s.poison (.pm l t w) else s
      | .lane a k => s.strikeLane a k 0
      | .group a => match s.warp? a with
        | some w => (List.range w.lanes.length).foldl (fun (s : State) k => s.strikeLane a k 0) s
        | none => s
      | .route l => match s.launch? l with
        | some la => (s.endLaunch l (statusOf 7 0)).machineCheck la.ctx
        | none => s)

/-! The balloon list (R41, R42) -/

/-- HEAD, TAIL and LOG2_SIZE of BAL_CTL (R42). -/
def State.balHead (s : State) : Nat := bits s.regs.balCtl.toNat 0 21
/-- TAIL. -/
def State.balTail (s : State) : Nat := bits s.regs.balCtl.toNat 21 21
/-- LOG2_SIZE. -/
def State.balLog (s : State) : Nat := bits s.regs.balCtl.toNat 42 5

/-- REFUSED of BAL_CTL set. -/
def State.balRefused (s : State) : State := { s with regs := s.regs.refuse 0x448 }

/-- A field of BAL_CTL written. -/
def State.setBal (s : State) (lo len v : Nat) : State :=
  { s with regs := { s.regs with balCtl := BitVec.ofNat 64 (setBits s.regs.balCtl.toNat lo len v) } }

/-- A step of the semaphore's holder or of the serving controller (R41). -/
def guardedOr (p : Option Port) (s : State) (refuse k : State → State) : Out :=
  match p with
  | some q => guarded q s refuse k
  | none => .next (if s.boot.off || s.power == 3 then s else k s)

/-- BALLOON_SIZE_WRITE (R41). -/
def execBalloonSizeWrite (p : Option Port) (log2 : BitVec 5) (s : State) : Out :=
  guardedOr p s State.balRefused fun s =>
    if s.balHead ≠ s.balTail || decide (log2.toNat < 8) || decide (20 < log2.toNat) then s.balRefused else s.setBal 42 5 log2.toNat

/-- Sheets stored anew (R33, R38). -/
def State.storeSheets (s : State) (sheets : List Nat) : State := sheets.foldl State.storeSheet s

/-- The sheets of a frame, by its number, where it lies in the first tier. -/
def frameSheets (f : Nat) : List Nat := if regionOf (offOf (f * 65536)) == .first then pageSheets f else []

/-- A page whose content is declared free reads zero (R42). -/
def State.zeroPage (s : State) (page : Nat) : State :=
  let lo := page * 65536
  let here := fun (loc : Loc) => match loc with
    | .fab w => decide (lo ≤ 4 * w) && decide (4 * w < lo + 65536)
    | _ => false
  let s1 := { s with
    mem := s.mem.filter fun c => !(decide (lo ≤ c.1) && decide (c.1 < lo + 65536))
    vers := s.vers.map fun (p : Loc × List Version) => if here p.1 then (p.1, p.2 ++ [({ val := 0, writer := none, pub := .init, poison := false } : Version)]) else p
    regd := s.regd.filter fun p => !here (.fab p.1)
    unregd := s.unregd.filter fun p => !here (.fab p.1)
    cached := s.cached.filter fun p => !here (.fab p.1)
    dirty := s.dirty.filter fun l => !(here (.fab (32 * l))) }
  s1.storeSheets (frameSheets (s.frameOff lo / 65536))

/-- BALLOON_ENTRY (R41, R195): the entry at HEAD is processed, or counted in BAD, and HEAD advances. Bits [63:52], of which the manual says nothing, are taken as reserved, and a poisoned entry is no entry (log entry 83: DEDUCED). -/
def State.balloonEntry (s : State) : State :=
  let h := s.balHead
  let a := bits s.regs.balBase.toNat 3 49 * 8 + 8 * (h % 2 ^ s.balLog)
  let e := memRead s.mem a 8
  let fa := bits e 16 36 * 65536
  let ok := !s.badEntry a && bit e 0 && bits e 1 15 == 0 && bits e 52 12 == 0 && regionOf (offOf fa) == .first && pkgOf fa == s.pkg && s.backed fa && !s.frozenAny fa 65536
  let s1 := if ok then s.zeroPage (fa / 65536) else { s with regs := { s.regs with balCtl := satInc s.regs.balCtl 48 16 } }
  s1.setBal 0 21 ((h + 1) % 2 ^ 21)

/-- The entries of the balloon list, oldest first: at most n (R41). -/
def State.balloonList (s : State) : Nat → State
  | 0 => s
  | n + 1 => if s.balHead = s.balTail then s else s.balloonEntry.balloonList n

/-- BALLOON_TAIL_WRITE (R41): while the ring is not empty the engine processes the entry at HEAD; in limited mode it is idle (R84). -/
def execBalloonTailWrite (p : Option Port) (tail : BitVec 21) (s : State) : Out :=
  guardedOr p s State.balRefused fun s =>
    let n := (tail.toNat + 2 ^ 21 - s.balHead) % 2 ^ 21
    if 2 ^ s.balLog < n then s.balRefused else if s.limited then s.setBal 21 21 tail.toNat else (s.setBal 21 21 tail.toNat).balloonList n

/-! Checkpoints (R45, R46) -/

/-- BUSY of CKPT_CTL. -/
def State.ckptBusy (s : State) : Bool := bit s.regs.ckptCtl.toNat 1

/-- Whether a checkpoint of so many 4 KiB units is refused for its target (R46). -/
def State.ckptRefused (s : State) (need : Nat) : Bool :=
  let base := bits s.regs.ckptTgt.toNat 16 36 * 65536
  let size := bits s.regs.ckptTgt.toNat 0 16 * 2 ^ 30
  size == 0 || !s.windowOk base size || decide (size < need * 4096)

/-- A checkpoint begins (R45): every resident tray is saved, idempotent ones too. -/
def State.ckptBegin (s : State) : State :=
  let as := ((s.trays.map Tray.warps).flatten.filter fun w => !w.gone).map Warp.agent
  as.foldl (fun (s : State) a => s.evictGroup a) { s with regs := { s.regs with ckptCtl := s.regs.ckptCtl ||| 2 } }

/-- CHECKPOINT_START (R45, R46): ignored while BUSY and in limited mode (R84), refused with ERR for a target that is unbacked or too small. -/
def execCheckpointStart (p : Port) (s : State) : Out :=
  guarded p s id fun s =>
    if s.ckptBusy || s.limited then s
    else if s.ckptRefused s.sizeNeeded then { s with regs := { s.regs with ckptCtl := s.regs.ckptCtl ||| 8 } }
    else s.ckptBegin

/-- Whether an address is one of those whose storage a checkpoint copies: on a first-tier frame of this package, on the shelf, or in a memory-side table (R45). -/
def State.ckptAddr (s : State) (tables : List Nat) (a : Nat) : Bool :=
  (pkgOf a == s.pkg && (regionOf (s.frameOff a) == .first || regionOf (offOf a) == .shelf)) || tables.any fun t => decide (t ≤ a) && decide (a < t + 2048)

/-- What a checkpoint copies of memory (R45). -/
def State.ckptMem (s : State) : Memory := let ts := s.allTables; s.mem.filter fun c => s.ckptAddr ts c.1

/-- Whether a ballooning run, or a migration of one, is still in progress (R46). -/
def State.ballooning (s : State) : Bool := !s.runs.isEmpty || s.migs.any fun m => m.cmd.isNone

/-- A checkpoint ends (R45): dirty lines are written back, the image is taken, DONE is set, SIZE_NEEDED given, and launches may resume. -/
def State.ckptEnd (s : State) (need : Nat) : State :=
  let s1 := s.dirty.foldl (fun (s : State) l => s.lineBack l fun _ => true) s
  let w := (s1.regs.ckptCtl &&& ~~~ 2) ||| 4
  { s1 with
    regs := { s1.regs with ckptCtl := BitVec.ofNat 64 (setBits w.toNat 24 40 need) }
    safeTier := some ⟨bits s.regs.ckptTgt.toNat 16 36 * 65536, bits s.regs.ckptTgt.toNat 0 16 * 2 ^ 30, s1.ckptMem, s1.frames, s1.regs.mtRoot, s1.ctxs, s1.launches, s1.trays, s1.gathers, s1.handlers, s1.ords, s1.nextId⟩ }

/-- CHECKPOINT_DONE (R45, R46): once no ballooning run is in progress and every arrival at a sync word is home; not in limited mode (R84). -/
def execCheckpointDone (s : State) : Out := .next (if s.ckptBusy && !s.ballooning && !s.limited && s.arriving.isEmpty then s.ckptEnd s.sizeNeeded else s)

/-! The memory-side tables (R164, R166) -/

/-- MT_INV_GO (R166): GO starts an invalidation unless one is in progress. -/
def execMtInvGo (v : Word) (s : State) : Out :=
  .next (if s.boot.off || !bit v.toNat 0 || bit s.regs.mtInv.toNat 2 then s else { s with regs := { s.regs with mtInv := s.regs.mtInv ||| 4 } })

/-- MT_INV_DONE (R166): all four dies have invalidated, and BUSY clears. -/
def execMtInvDone (s : State) : Out := .next { s with regs := { s.regs with mtInv := s.regs.mtInv &&& ~~~ 4 } }

/-- A level-0 entry swept (R164). -/
def sweptEntry (e : Nat) : Nat :=
  if bit e 4 then setBits (setBits e 4 1 0) 8 8 0 else setBits e 8 8 (Nat.min (bits e 8 8 + 1) 255)

/-- SWEEP (R164): ACC of every level-0 entry is cleared, and SWEEPS counts. -/
def execSweep (s : State) : Out :=
  .next (s.leafTables.foldl (fun (s : State) t => (List.range 256).foldl (fun (s : State) i => s.devWrite (t + 8 * i) 8 (sweptEntry (s.tblEntry t i))) s) s)

/-! Migrations (R43, R44, R398) -/

/-- Eight chunks reserved for each sheet that a first-tier frame touches (R43), none if some pool is short. -/
def State.reserveFrame (s : State) (frame : Nat) : Option State :=
  (pageSheets frame).foldl (fun (o : Option State) sh => match o with
    | none => none
    | some s => if 8 ≤ s.freeChunks (s.poolOf sh) then
        some (({ s with reserved := alSet s.reserved sh ((alGet s.reserved sh).getD 0 + 8) }.takeChunks (s.poolOf sh) 8).lowCheck (s.poolOf sh))
      else none) (some s)

/-- The reservation of an abandoned migration returned (R43), but for what a sheet with dirty lines needs of it: those lines keep the reservation that R37 gives them (log entry 4: DESIGN CHOICE). -/
def State.unreserveFrame (s : State) (frame : Nat) : State :=
  (pageSheets frame).foldl (fun (s : State) sh =>
    let r := (alGet s.reserved sh).getD 0
    let keep := if s.sheetDirty sh then Nat.min r (Nat.max (r - 8) (8 - s.sheetChunks sh)) else r - 8
    (if s.sheetDirty sh then { s with reserved := alSet s.reserved sh keep } else s.setReserved sh keep).giveChunks (s.poolOf sh) (r - keep)) s

/-- A sheet of a frame that a migration has filled (R43, R37): with no dirty line it is stored; else its content takes its chunks, and the rest up to eight stays reserved for its dirty lines. -/
def State.settleSheet (s : State) (sh : Nat) : State :=
  if s.sheetDirty sh then
    let n := s.sheetNeed sh
    let held := s.sheetChunks sh + (alGet s.reserved sh).getD 0
    let keep := 8 - n + s.migHold sh
    let s1 := { s with chunks := alSet s.chunks sh n, reserved := alSet s.reserved sh keep }
    if n + keep ≤ held then s1.giveChunks (s.poolOf sh) (held - n - keep) else (s1.takeChunks (s.poolOf sh) (n + keep - held)).lowCheck (s.poolOf sh)
  else s.storeSheet sh

/-- Whether a frame, by its number, lies in the first tier. -/
def frameFirst (f : Nat) : Bool := regionOf (offOf (f * 65536)) == .first

/-- The frame number behind a page, as its entry names it. -/
def State.frameOf (s : State) (page : Nat) : Nat := s.frameOff (page * 65536) / 65536

/-- What starting a page's migration comes to (R43, R398). -/
inductive MigStart where
  | passed
  | noSpace
  | busy
  | started (s : State)

/-- The level-0 entry of a page changed by f, if the walk reaches one. -/
def State.modEntry (s : State) (page : Nat) (f : Nat → Nat) : State :=
  match s.walkTo (offOf (page * 65536)) with
  | some a => s.devWrite a 8 (f (memRead s.mem a 8))
  | none => s

/-- The frame that firmware keeps free for a migration (R398): one that a migration has given back, else one of firmware's own (log entry 4: DESIGN CHOICE). -/
def State.spareFrame (s : State) (toFst : Bool) : Option (Nat × State) :=
  match if toFst then s.freeFst else s.freeSnd with
  | f :: r => some (f, if toFst then { s with freeFst := r } else { s with freeSnd := r })
  | [] => match Config.spareFrame toFst s.free with
    | some f => if frameFirst f.toNat == toFst then some (f.toNat, { s with free := s.free + 1 }) else none
    | none => none

/-- A migration begins (R43): a page that has no frame of its own or lies in the target tier already is passed over; one that is migrating is busy; without a free frame, or without chunks for it, there
is no space. -/
def State.startMig (s : State) (page : Nat) (toFst : Bool) (cmd : Option (Nat × Nat × Nat)) : MigStart :=
  let there := s.translated (page * 65536) && (match s.pageState (page * 65536) with
    | .present _ => true
    | .absent => false
    | .unmapped => false
    | .poisoned => false)
  if !there || frameFirst (s.frameOf page) == toFst then .passed
  else if s.migs.any fun m => m.page == page then .busy
  else match s.spareFrame toFst with
    | none => .noSpace
    | some (f, s1) => match if toFst then s1.reserveFrame f else some s1 with
      | none => .noSpace
      | some s2 => .started { s2.modEntry page fun e => setBits e 5 1 1 with migs := s2.migs ++ [⟨page, toFst, f, 1, [], false, cmd⟩] }

/-- The pages of a migrate command from the i-th on (R398), at most n looked at: the next migration begins, or the command ends. -/
def State.migPages (s : State) (cmd : Nat × Nat × Nat) (first : Nat) (toFst : Bool) : Nat → Nat → State
  | _, 0 => s.endCommand cmd.1 cmd.2.1 cmd.2.2 (statusOf 0 0)
  | i, n + 1 => match s.startMig (first + i) toFst (some cmd) with
    | .passed => s.migPages cmd first toFst (i + 1) n
    | .noSpace => s.endCommand cmd.1 cmd.2.1 cmd.2.2 (statusOf 5 0)
    | .busy => s.endCommand cmd.1 cmd.2.1 cmd.2.2 (statusOf 6 0)
    | .started s1 => s1

/-- The first fabric page of a migrate command, its pages and its direction. -/
def State.migBody (s : State) (cmd : Nat × Nat × Nat) : Option (Nat × Nat × Bool) :=
  (s.rec? cmd.1 cmd.2.1 cmd.2.2).bind fun r =>
    ((s.ctx cmd.1).range (r.word 1) ((bits (r.word 2) 0 16 + 1) * 65536)).map fun g => (g.fabric (r.word 1) / 65536, bits (r.word 2) 0 16 + 1, bit (r.word 2) 16)

/-- A migration leaves the engine (R43, R398): its command goes on with the next page, or ends. -/
def State.migOver (s : State) (m : Mig) (ok : Bool) : State :=
  let s1 := { s with migs := s.migs.filter fun x => x.page != m.page }
  match m.cmd with
  | none => s1
  | some cmd =>
    if !ok then s1.endCommand cmd.1 cmd.2.1 cmd.2.2 (statusOf 6 0)
    else match s1.migBody cmd with
      | none => s1.endCommand cmd.1 cmd.2.1 cmd.2.2 (statusOf 0 0)
      | some (first, n, dir) => s1.migPages cmd first dir (m.page + 1 - first) (first + n - (m.page + 1))

/-- A frame given back to the free frames of its tier. -/
def State.freeFrame (s : State) (f : Nat) : State :=
  if frameFirst f then { s with freeFst := s.freeFst ++ [f] } else { s with freeSnd := s.freeSnd ++ [f] }

/-- MIGRATION_ROUND (R43): a round ends with at most 15 lines written: the final hold; the sixteenth with more: abandoned; else another round copies what was written. -/
def execMigrationRound (page : BitVec 52) (s : State) : Out :=
  let pg := pageOf page.toNat
  .next (match s.migs.find? fun m => m.page == pg && !m.hold with
    | none => s
    | some m =>
      let put := fun (s : State) (x : Mig) => { s with migs := s.migs.map fun y => if y.page == pg then x else y }
      if m.dirty.length ≤ 15 then put s { m with hold := true }
      else if m.round = 16 then
        let s1 := (s.modEntry pg fun e => setBits e 5 1 0)
        ((if m.toFst then s1.unreserveFrame m.frame else s1).freeFrame m.frame).migOver m false
      else put s { m with round := m.round + 1, dirty := [] })

/-- A page moved to its new frame (R43): the entry names it, the old frame's sheets are stored without the page and the new frame's with it. -/
def State.movePage (s : State) (m : Mig) : State :=
  let old := s.frameOf m.page
  let fs := alDel s.frames old
  let s1 := { (s.modEntry m.page fun e => setBits (setBits e 5 1 0) 16 36 m.frame) with
    migs := s.migs.filter fun x => x.page != m.page
    frames := if m.toFst then alSet fs m.frame m.page else fs }
  ((s1.storeSheets (frameSheets old)).freeFrame old |> fun s => if m.toFst then (pageSheets m.frame).foldl State.settleSheet s else s)

/-- MIGRATION_HOLD_RELEASE (R43): the page stands in its new frame, and the waiting accesses go there. -/
def execMigrationHoldRelease (page : BitVec 52) (s : State) : Out :=
  .next (match s.migs.find? fun m => m.page == pageOf page.toNat && m.hold with
    | none => s
    | some m => ((s.movePage m).migOver m true).answerReads)

end Sys2Proof.Machine
end

