-- ==== Sys2Proof/Machine/Place.lean ====
section
/-!
DEFINITION. The launch distributor (R86 to R97, R106 to R118): launch records, the room on a core, placement, slides, pre-emption, and the return of evicted and flushed trays.
-/

namespace Sys2Proof.Machine

/-! Launch records (R66, R67, R89, R106, R107) -/

/-- The launch fields of a fetched record (R66). -/
def launchF (b : List Word) : LaunchF := ⟨b.getD 0 0, b.getD 1 0, b.getD 2 0, b.getD 3 0, b.getD 4 0, b.getD 5 0, b.getD 6 0⟩

/-- Bytes of a tray's lane-private window in units of 64 KiB (R55). -/
def LaunchF.lpNeed (f : LaunchF) : Nat := (f.groups * 128 * f.lpWords + 65535) / 65536

/-- Units of a context's lane-private pool (R55). -/
def State.lpPool (s : State) (c : Nat) : Nat := bits (s.ctx c).lppool.toNat 0 16

/-- Whether a launch record keeps the limits of R66 and the rules of R89, R55 and R201. -/
def State.launchLimits (s : State) (c : Nat) (f : LaunchF) : Bool :=
  let w0 := f.w0.toNat
  bits w0 0 8 == 1 && bits w0 14 2 == 0 && bits w0 27 5 == 0 && (f.scope == 4 || f.scope == 5) && f.mode != 3 &&
  bits f.w1.toNat 56 8 == 0 && bits f.w1.toNat 0 3 == 0 && bits f.w2.toNat 56 8 == 0 && bits f.w2.toNat 0 3 == 0 &&
  bits f.w3.toNat 55 9 == 0 && bits f.w4.toNat 63 1 == 0 &&
  decide (1 ≤ f.dw) && decide (f.dw ≤ 28 * s.domWidth) && decide (1 ≤ f.dh) && decide (f.dh ≤ 24 * s.domHeight) &&
  decide (1 ≤ f.pw) && f.dw % f.pw == 0 && decide (1 ≤ f.ph) && f.dh % f.ph == 0 &&
  decide (1 ≤ f.groups) && decide (f.groups ≤ 32) && decide (f.tiles ≤ 48) && decide (f.spBytes + f.pmBytes ≤ 384 * 1024) &&
  decide (f.groups * 128 * f.nregs ≤ 524288) &&
  (f.fixed || (decide (f.dw ≤ 28) && decide (f.dh ≤ 24))) &&
  (!f.fixed || (f.cells f.ox f.oy).all fun p => (s.pkgAt p.1 p.2).isSome) &&
  (!f.fixed || f.scope == 5 || s.membersAt f f.ox f.oy == [s.pkg]) &&
  decide ((if f.fixed then (f.cells f.ox f.oy).countP fun p => s.pkgAt p.1 p.2 == some s.pkg else f.dw * f.dh) * f.lpNeed ≤ s.lpPool c) &&
  (f.mode == 0 || (s.ctx c).logCap != 0)

/-- Stage k of a pipeline declaration, given as its words (R106). -/
def stageOf (b : List Nat) (k : Nat) : Stage :=
  let q := b.getD (2 + 2 * k) 0
  ⟨BitVec.ofNat 56 (b.getD (1 + 2 * k) 0), bits q 35 29, bits q 31 4, bits q 16 15, bits q 0 16⟩

/-- The bytes of a stage's output queue in the shelf (R109). -/
def Stage.queueBytes (x : Stage) : Nat := 64 * 2 ^ x.qlog2

/-- Whether stage k keeps the limits of R106 and R107, one of n. -/
def stageOk (b : List Nat) (n k : Nat) : Bool :=
  let x := stageOf b k
  if n ≤ k then b.getD (1 + 2 * k) 0 == 0 && b.getD (2 + 2 * k) 0 == 0
  else
    bits (b.getD (1 + 2 * k) 0) 56 8 == 0 && bits (b.getD (1 + 2 * k) 0) 0 3 == 0 && decide (1 ≤ x.min) && decide (x.min ≤ x.trays) &&
    (if k + 1 = n then x.qbase == 0 && x.qlog2 == 0
     else x.qbase % 64 == 0 && decide (4 ≤ x.qlog2) && decide (x.qlog2 ≤ 12) && decide (x.qbase + x.queueBytes ≤ shelfSize))

/-- Whether two queues overlap. -/
def queuesMeet (a b : Stage) : Bool := decide (a.qbase < b.qbase + b.queueBytes) && decide (b.qbase < a.qbase + a.queueBytes)

/-- The stages that a declaration gives, if it keeps every limit (R107). -/
def pipeStages (b : List Nat) (f : LaunchF) (own : Bool) : Option (List Stage) :=
  let n := bits (b.getD 0 0) 0 4
  let xs := (List.range n).map (stageOf b)
  let qs := xs.take (n - 1)
  let ok := bits (b.getD 0 0) 4 60 == 0 && decide (1 ≤ n) && decide (n ≤ 8) && ((List.range 8).all (stageOk b n)) && ((List.range 15).all fun j => b.getD (17 + j) 0 == 0) &&
    (xs.foldl (fun m x => m + x.trays) 0 == f.dw * f.dh) && own &&
    (List.range qs.length).all fun i => (List.range i).all fun j => match qs[i]?, qs[j]? with
      | some a, some b => !queuesMeet a b
      | _, _ => true
  if ok then some xs else none

/-- The declaration at PARAM as the distributor reads it (R107): its 32 words, if the record has PIPE and a range grants the read; else none. -/
def State.pipeWords (s : State) (c : Nat) (f : LaunchF) : List Word :=
  match (s.ctx c).range f.param 256 with
  | some r => if f.pipe && r.rd && s.backed (r.fabric f.param) then (List.range 32).map fun j => BitVec.ofNat 64 (memRead s.mem (r.fabric f.param + 8 * j) 8) else []
  | none => []

/-- Whether words of the declaration at PARAM are poisoned (R199). -/
def State.pipeBad (s : State) (c : Nat) (f : LaunchF) : Bool :=
  f.pipe && ((s.ctx c).range f.param 256).any fun r => (List.range 64).any fun j => s.badWord (r.fabric f.param / 4 + j)

/-- The pipeline of a launch record whose declaration was read as some words: none without PIPE; and whether the record is bad for it. -/
def State.recPipe (s : State) (f : LaunchF) (ws : List Word) : Option Pipe × Bool :=
  if !f.pipe then (none, false)
  else
    let own := !f.fixed || (s.membersAt f f.ox f.oy).length == 1
    match if ws.isEmpty then none else pipeStages (ws.map BitVec.toNat) f own with
    | none => (none, true)
    | some xs => (some ⟨xs, List.replicate (xs.length - 1) ⟨0, 0, []⟩, none⟩, false)

/-- The dependences of a launch record with a number: chain and number (R66, R67). -/
def LaunchF.deps (f : LaunchF) : List (Nat × Nat) :=
  [(bits f.w4.toNat 51 6, f.w5.toNat), (bits f.w4.toNat 57 6, f.w6.toNat)].filter fun d => d.2 != 0

/-- Whether a dependence is bad (R67). -/
def State.badDep (s : State) (c ch seq : Nat) (d : Nat × Nat) : Bool :=
  let h := s.chain c d.1
  (d.1 == ch && decide (seq ≤ d.2)) || (!h.enable && decide (h.done < d.2))

/-- Whether a dependence is met (R67). -/
def State.depMet (s : State) (c : Nat) (d : Nat × Nat) : Bool := decide (d.2 ≤ (s.chain c d.1).done)

/-- LAUNCH_RECORD (R89, R64, R67): the oldest unstarted record of a launch chain is fetched and checked, with the declaration of its pipeline, which is read here and nowhere else (R107); it completes with CAUSE 0x14 where a word read is poisoned (R199), with bad record or bad dependence, or becomes ready when its dependences
are met. -/
def execLaunchRecord (c : Fin 256) (ch : Fin 64) (s : State) : Out :=
  .next (if !s.working || !launchChain ch.val then s
    else match s.nextRec c.val ch.val with
      | none => s
      | some r =>
        let fresh := r.body.isEmpty
        let ws := s.recWords r.addr
        let b := if fresh then ws ++ s.pipeWords c.val (launchF ws) else r.body
        let f := launchF b
        let pp := s.recPipe f (b.drop 8)
        let read := s.modRec c.val ch.val r.seq fun x => { x with body := b }
        if fresh && (s.recBad r.addr || s.pipeBad c.val f) then read.finish c.val ch.val r.seq (statusOf 0x10 0x14) none
        else if fresh && (!s.launchLimits c.val f || pp.2) then read.finish c.val ch.val r.seq (statusOf 1 0) none
        else if f.deps.any (s.badDep c.val ch.val r.seq) then read.finish c.val ch.val r.seq (statusOf 2 0) none
        else
          let ready := if r.readyAt.isNone && f.deps.all (s.depMet c.val) then some s.cycle else r.readyAt
          s.modRec c.val ch.val r.seq fun x => { x with body := b, pipe := if fresh then pp.1 else x.pipe, readyAt := ready })

/-! The room on a core (R88) -/

/-- What a tray, or the groups of one that return, ask of a core: group slots, bytes of registers, tiles, KiB of scratchpad. -/
structure Need where
  slots : Nat
  regs  : Nat
  tiles : Nat
  kb    : Nat
deriving DecidableEq, Repr

/-- What a whole tray needs (R88). -/
def LaunchF.need (f : LaunchF) : Need := ⟨f.groups, f.groups * 128 * f.nregs, f.tiles, (f.spBytes + f.pmBytes) / 1024⟩

/-- Whether a group holds its slot and registers: neither exited nor evicted (log entry 20: DEDUCED). -/
def holdsCore (_ : Tray) (w : Warp) : Bool := !w.gone && !w.evicted

/-- The record fields of a tray's launch. -/
def State.trayF (s : State) (t : Tray) : LaunchF := ((s.launch? t.launch).map Launch.f).getD ⟨0, 0, 0, 0, 0, 0, 0⟩

/-- The trays that hold something of a core, each with the count of its groups that count as held; an exited tray keeps its scratchpad run, patch window and tiles while it is busy (R304, R390). -/
def State.onCore (s : State) (held : Tray → Warp → Bool) (core : Nat) : List (Tray × Nat) :=
  ((s.trays.filter fun t => t.core == core && !t.freed).map fun t => (t, (t.warps.filter (held t)).length)).filter fun p => p.2 != 0 || (p.1.ended && s.trayBusy p.1)

/-- The lowest start of a free run of n KiB among occupied runs (R88). -/
def lowestRun (runs : List (Nat × Nat)) (n : Nat) : Option Nat :=
  let starts := 0 :: runs.map fun r => r.1 + r.2
  let ok := starts.filter fun a => decide (a + n ≤ 384) && runs.all fun r => decide (a + n ≤ r.1) || decide (r.1 + r.2 ≤ a) || r.2 == 0 || n == 0
  ok.min?

/-- Whether a core has room for a need, groups counted by held: the start of its scratchpad run (R88). A core of a die in reset has none. -/
def State.coreRoom (s : State) (held : Tray → Warp → Bool) (core : Nat) (n : Need) : Option Nat :=
  let ts := s.onCore held core
  let slots := ts.foldl (fun m p => m + p.2) 0
  let regs := ts.foldl (fun m p => m + p.2 * 128 * (s.trayF p.1).nregs) 0
  let tiles := ts.foldl (fun m p => m + (s.trayF p.1).tiles) 0
  let runs := ts.map fun p => (p.1.spRun, (s.trayF p.1).need.kb)
  if slots + n.slots ≤ Config.coreSlots ∧ regs + n.regs ≤ Config.coreRegBytes ∧ tiles + n.tiles ≤ Config.coreTiles ∧
      (s.inReset.all fun q => q.1 != dieOfCore core) then lowestRun runs n.kb else none

/-- The tiles of a core that no tray there has, ascending (R417). A tray keeps the numbers of its tiles while it lives, evicted or slid (log entry 94: DESIGN CHOICE). -/
def State.freeTilesAt (s : State) (core : Nat) : List Nat :=
  let ts := s.onCore holdsCore core
  (List.range Config.coreTiles).filter fun n => !ts.any fun p => (p.1.tiles[n]?).any Tile.alloc

/-- The package core index of domain coordinates on this package (R14, R15). -/
def State.localCore (s : State) (x y : Nat) : Option Nat := if s.pkgAt x y = some s.pkg then some (Config.coreIndex (x % 28) (y % 24)) else none

/-- The trays of a deckle on this package: deckle index and core. -/
def State.localCells (s : State) (f : LaunchF) (ox oy : Nat) : List (Nat × Nat) :=
  (f.cells ox oy).zipIdx.filterMap fun p => (s.localCore p.1.1 p.1.2).map fun k => (p.2, k)

/-- A tray to be placed: deckle index, core, start of its scratchpad run in KiB. -/
structure Spot where
  idx  : Nat
  core : Nat
  run  : Nat
deriving DecidableEq, Repr

/-- Whether a core is owed to evicted groups or to a flushed tray of at least a priority: they return ahead of any placement of equal or lower priority there (R115, R118). -/
def State.owed (s : State) (core prio : Nat) : Bool :=
  s.trays.any fun t => t.core == core && (s.launch? t.launch).any fun l => decide (prio ≤ l.chain) && l.phase == .running && l.ending.isNone &&
    (l.replace.contains t.idx || t.warps.any fun w => w.evicted && !w.gone)

/-- Whether a flushed tray of a priority must still wait on its core: for evicted groups of at least that priority, which return ahead of its placement, and for a flushed tray of a higher one (R115, R118). -/
def State.owedBefore (s : State) (u : Tray) (prio : Nat) : Bool :=
  s.trays.any fun t => t.core == u.core && (s.launch? t.launch).any fun l => l.phase == .running && l.ending.isNone &&
    ((decide (prio ≤ l.chain) && t.warps.any fun w => w.evicted && !w.gone) || (decide (prio < l.chain) && l.replace.contains t.idx))

/-- The spots of a deckle's trays on this package at a priority, if every core there has room and is owed to no other (R88, R91, R115). -/
def State.spots (s : State) (held : Tray → Warp → Bool) (prio : Nat) (f : LaunchF) (ox oy : Nat) : Option (List Spot) :=
  (s.localCells f ox oy).mapM fun p => if s.owed p.2 prio then none else (s.coreRoom held p.2 f.need).map fun r => (⟨p.1, p.2, r⟩ : Spot)

/-- The origins a launch may take, in the order of R91, in domain coordinates. -/
def State.origins (s : State) (f : LaunchF) : List (Nat × Nat) :=
  if f.fixed then [(f.ox, f.oy)]
  else (List.range (Config.cols * Config.rows)).filterMap fun k =>
    let x := k % Config.cols
    let y := k / Config.cols
    if x + f.dw ≤ Config.cols ∧ y + f.dh ≤ Config.rows then some (s.pkg % s.domWidth * 28 + x, s.pkg / s.domWidth * 24 + y) else none

/-- Where a launch fits: the first origin, with the spots of its trays (R91). -/
def State.findPlace (s : State) (held : Tray → Warp → Bool) (prio : Nat) (f : LaunchF) : Option ((Nat × Nat) × List Spot) :=
  (s.origins f).findSome? fun o => (s.spots held prio f o.1 o.2).map fun x => (o, x)

/-- Free units of a context's lane-private pool, ascending (R55). -/
def State.lpFree (s : State) (c : Nat) : List Nat :=
  let used := ((s.trays.filter fun t => !t.freed && ((s.launch? t.launch).map Launch.ctx) == some c).map Tray.lpUnits).flatten
  (List.range (s.lpPool c)).filter fun u => !used.contains u

/-- The lowest run of n units among the free ones (R149). -/
def lowestUnits (free : List Nat) (n : Nat) : Option (List Nat) :=
  if n = 0 then some [] else (free.find? fun u => (List.range n).all fun j => free.contains (u + j)).map fun u => (List.range n).map fun j => u + j

/-- The runs of n units that k trays take one after another, each the lowest that is then free (R149). -/
def unitRuns (n : Nat) : Nat → List Nat → Option (List (List Nat))
  | 0, _ => some []
  | k + 1, free => (lowestUnits free n).bind fun us => (unitRuns n k (free.filter fun u => !us.contains u)).map fun r => us :: r

/-! Placement (R91, R92, R204, R284) -/

/-- The pipeline stage of a tray at start (R108). -/
def stageAt (p : Option Pipe) (idx : Nat) : Nat :=
  match p with
  | none => 0
  | some p => (List.range p.stages.length).countP fun k => decide (((p.stages.take (k + 1)).foldl (fun n x => n + x.trays) 0) ≤ idx)

/-- The address a tray's groups start at (R106, R108). -/
def startPc (f : LaunchF) (p : Option Pipe) (stage : Nat) : Pc :=
  match p with
  | none => BitVec.ofNat 56 f.entry
  | some p => ((p.stages[stage]?).map Stage.sentry).getD 0

/-- A newly placed tray, with the tiles it receives (R293, R88, R400, R417). -/
def freshTray (l : Nat) (f : LaunchF) (p : Option Pipe) (x : Spot) (units ns : List Nat) : Tray :=
  let st := stageAt p x.idx
  { launch := l
    idx := x.idx
    core := x.core
    stage := st
    warps := (List.range f.groups).map fun g => Warp.atEntry l x.idx g f.nregs (startPc f p st) f.param st
    sp := []
    pm := []
    lp := []
    lpDirty := []
    spRun := x.run
    lpUnits := units
    tiles := (List.range Config.coreTiles).map fun n => ⟨ns.contains n, none, 0, 0, none, if ns.contains n then List.replicate 1024 0 else [], none, false, none⟩
    hvec := 0
    lplim := f.lpWords
    published := false
    windows := []
    arrivals := []
    freed := false }

/-- The tag after one (R204). -/
def nextTag (t : Nat) : Nat := if t = 65535 then 1 else t + 1

/-- B of a PLACE or SLIDE record (R205). -/
def originWord (ox oy ch : Nat) : Nat := ox + oy * 2 ^ 9 + ch * 2 ^ 20

/-- A launch of a context takes a tag (R204): the log no longer names the releases of an earlier launch that had it. -/
def State.takeTag (s : State) (c t : Nat) : State :=
  { s.modCtx c (fun x => { x with ltag := t }) with
    rels := s.rels.map fun r => if r.ctx == some c && bits r.tag 36 16 == t && decide (bits r.tag 52 4 ≤ 1) then { r with ctx := none } else r }

/-- A placement as the order log sees it (R92, R204, R209): the launch tag it gives, or the state in which the distributor waits at it. -/
def State.logPlace (s : State) (f : LaunchF) (c ch seq ox oy : Nat) : Except State (Nat × State) :=
  let x := s.ctx c
  match f.mode with
  | 0 => .ok (0, s)
  | 1 =>
    let t := nextTag x.ltag
    let who : Who := ⟨c, 1, 3 * 2 ^ 52 + t * 2 ^ 36⟩
    (match s.gate who 0x10 0 with
      | .wait => .error (s.stalled who 0x10 0)
      | _ => .ok (t, (s.logPut who 0x10 0 seq (originWord ox oy ch)).takeTag c t))
  | _ =>
    let w0 := s.logWord c 0
    let who : Who := ⟨c, 2, 3 * 2 ^ 52 + nextTag x.ltag * 2 ^ 36⟩
    if x.logUsed = 0 then .error (s.stalled who 0x10 0)
    else if bits w0 52 12 = 0x103 ∧ bits w0 0 36 = 0 ∧ s.logWord c 2 = seq ∧ bits (s.logWord c 3) 18 46 = bits (originWord 0 0 ch) 18 46 then
      .ok (bits w0 36 16, (s.logTake c).takeTag c (bits w0 36 16))
    else .error (s.stalled who 0x10 0)

/-- Whether the log holds a placement (R92, R209). -/
def State.placeHeld (s : State) (f : LaunchF) (c ch seq : Nat) : Bool :=
  match s.logPlace f c ch seq 0 0 with
  | .error _ => true
  | .ok _ => false

/-- The releases that a launch's first acquire reads from (R67). -/
def State.startRels (s : State) (c : Nat) (f : LaunchF) (r : Option Rec) : List RelId :=
  let deps := f.deps.filterMap fun d => ((s.chain c d.1).recs.find? fun x => x.seq == d.2).bind Rec.done
  deps ++ (r.bind Rec.rel).toList

/-- Whether a word of fabric memory lies in an executable range of a context. -/
def Context.executable (x : Context) (fa : Nat) : Bool :=
  x.ranges.any fun r => r.valid && r.ex && decide (r.fbase ≤ fa) && decide (fa < r.fbase + r.bytes)

/-- One word of the code a launch fetches (R284): its newest version that the start view orders before the placement, or a newer one, which of them being left open; in a recorded or replayed run always that one, so
that both run the same code (R3, log entry 2). The words whose version is poison are listed. -/
def codeWord (a : Agent) (view : List RelId) (logs : Bool) (m : Memory × List Nat × State) (w : Nat) (vs : List Version) : Memory × List Nat × State :=
  let lo := pastPoison vs (newestVisible a view vs)
  let s := m.2.2
  let pk : Nat × State := if vs.length ≤ lo + 1 || logs then (lo, s) else (lo + Config.freeChoice s.free % (vs.length - lo), { s with free := s.free + 1 })
  let v := vs.getD pk.1 ⟨0, none, .init, false⟩
  (memWrite m.1 (4 * w) 4 (v.val.toNat % 2 ^ 32), if v.poison then m.2.1 ++ [w] else m.2.1, pk.2)

/-- The code a launch fetches, with its poisoned words (R284): memory as it stands, but for words that have been written. -/
def State.codeFor (s : State) (l : Launch) (a : Agent) (view : List RelId) : Memory × List Nat × State :=
  let x := s.ctx l.ctx
  s.vers.foldl (fun (m : Memory × List Nat × State) p => match p.1 with
    | .fab w => if x.executable (4 * w) then codeWord a view (l.f.mode != 0) m w p.2 else m
    | _ => m) (s.mem.filter fun q => x.executable q.1, [], s)

/-- The check word of a descriptor: the first 8 bytes of its digest (R99); the order of its fields is the model's (log entry 3: DESIGN CHOICE). -/
def descrCheck (d : Descr) : BitVec 64 :=
  (Config.sha3 (toBytes 1 d.ctx.toNat ++ toBytes 1 d.chain.toNat ++ toBytes 8 d.seq.toNat ++ toBytes 2 d.ox ++ toBytes 2 d.oy ++ toBytes 2 d.dw ++ toBytes 2 d.dh ++ toBytes 2 d.pw ++
    toBytes 2 d.ph ++ toBytes 8 d.members.toNat)).setWidth 64

/-- The descriptor of a launch at an origin (R99). -/
def State.descr (s : State) (c ch seq : Nat) (f : LaunchF) (ox oy : Nat) : Descr :=
  ⟨BitVec.ofNat 8 c, BitVec.ofNat 6 ch, BitVec.ofNat 64 seq, ox, oy, f.dw, f.dh, f.pw, f.ph,
    BitVec.ofNat 64 ((s.membersAt f ox oy).foldl (fun m p => m + 2 ^ p) 0)⟩

/-- A launch that has not been placed yet, as an object of its own: its record's, or a member's. -/
def State.newLaunch (s : State) (c ch seq addr : Nat) (f : LaunchF) (p : Option Pipe) (ox oy : Nat) (ph : Phase) (coord : Bool) (home ready : Nat) : Launch :=
  let d := s.descr c ch seq f ox oy
  { id := s.nextId, ctx := c, chain := ch, seq := seq, recAddr := addr, f := f, ox := ox, oy := oy, ltag := 0, phase := ph, placedAt := s.now, movedAt := s.now, code := [], badCode := [], view := [], pipe := p, gathers := 0,
    descr := d, check := descrCheck d, coord := coord, home := home, readyAt := ready, acked := [], reported := [], ending := none, replace := [], farBars := [], toldBars := [], barNos := [] }

/-- Trays allocated for a launch at its spots, with units of the lane-private pool (R55, R88). -/
def State.allocate (s : State) (l : Launch) (xs : List Spot) : State :=
  let us := (unitRuns l.f.lpNeed xs.length (s.lpFree l.ctx)).getD []
  { s with trays := s.trays ++ xs.zipIdx.map fun p => freshTray l.id l.f l.pipe p.1 (us.getD p.2 []) ((s.freeTilesAt p.1.core).take l.f.tiles) }

/-- A launch begins issue (R67, R91, R284): its groups acquire where ACQ is set, and its code is taken. -/
def State.begin (s : State) (l : Nat) (rels : List RelId) : State :=
  match s.launch? l with
  | none => s
  | some la =>
    let as := s.launchAgents l
    let s1 := as.foldl (fun (s : State) a => (s.setOrd a Ord.clear)) s
    let s2 := if la.f.acq then as.foldl (fun (s : State) a => s.acquire a (scopeAt la.f.scope) rels) s1 else s1
    let a0 := as.headD (.port 0)
    let view := (s2.ord a0).view
    let r := s2.codeFor la a0 view
    let s3 := r.2.2.modLaunch l fun x => { x with phase := .running, placedAt := s.now, movedAt := s.now, code := r.1, badCode := r.2.1, view := view }
    { s3 with regs := { s3.regs with distCnt := satInc s3.regs.distCnt 0 16 } }

/-- A launch added to the state. -/
def State.addLaunch (s : State) (l : Launch) : State := { s with launches := s.launches ++ [l], nextId := s.nextId + 1 }

/-- A single-package launch placed at an origin (R91): its record starts, its trays issue; or the log holds it, and the answer is false. -/
def State.placeRec (s : State) (c ch : Nat) (r : Rec) (o : Nat × Nat) (xs : List Spot) : State × Bool :=
  let f := launchF r.body
  match s.logPlace f c ch r.seq o.1 o.2 with
  | .error t => (t, false)
  | .ok (tag, s1) =>
    let l := { s1.newLaunch c ch r.seq r.addr f r.pipe o.1 o.2 .running true s1.pkg (r.readyAt.getD 0) with ltag := tag }
    let s2 := ((s1.startRec c ch r).addLaunch l).allocate l xs
    (s2.begin l.id (s.startRels c f (some r)), true)

/-! Wants: what the distributor decides about (R90) -/

/-- A launch that waits for cores: a ready record, or a prepared launch of several packages; with its priority and the order of R90. -/
structure Want where
  ctx    : Nat
  chain  : Nat
  ready  : Nat
  f      : LaunchF
  record : Option Rec
  launch : Option Nat
deriving DecidableEq, Repr

/-- The order of R90: higher priority, then earlier ready cycle, then lower context number, then lower chain number. -/
def Want.before (a b : Want) : Bool :=
  decide (b.chain < a.chain) || (a.chain == b.chain && (decide (a.ready < b.ready) || (a.ready == b.ready && decide (a.ctx ≤ b.ctx))))

/-- Every launch that waits for cores, in the order of R90. -/
def State.wants (s : State) : List Want :=
  let recs := (s.ctxs.map fun p => (List.range 8).filterMap fun ch => (s.nextRec p.1 ch).bind fun r => r.readyAt.map fun t =>
    (⟨p.1, ch, t, launchF r.body, some r, none⟩ : Want)).flatten
  let preps := (s.launches.filter fun l => l.phase == .prepared && l.ending.isNone && !(s.localCells l.f l.ox l.oy).isEmpty).map fun l =>
    (⟨l.ctx, l.chain, l.readyAt, l.f, none, some l.id⟩ : Want)
  (recs ++ preps).insertionSort fun a b => a.before b

/-- Whether another launch's mode keeps this one out (R201). -/
def State.modeBlocked (s : State) (c : Nat) (f : LaunchF) : Bool :=
  s.launches.any fun l => l.ctx == c && l.phase != .done && ((f.mode == 1 && l.f.mode == 2) || (f.mode == 2 && l.f.mode == 1))

/-- Whether a launch, by its fields, has trays on this package alone (R99). -/
def State.singleAt (s : State) (f : LaunchF) : Bool := !f.fixed || s.membersAt f f.ox f.oy == [s.pkg]

/-- A message to every other member of a launch. -/
def State.tell (s : State) (l : Launch) (f : Nat → Msg) : State := { s with sent := s.sent ++ (l.others s.pkg).map f }

/-- The member packages of a launch, ascending (R99). -/
def Launch.memberPkgs (l : Launch) : List Nat := (List.range 64).filter fun p => l.descr.members.getLsbD p

/-- Go (R100, R67): once every member has acknowledged, every member is told, with the releases that the launch's first acquires read from, and the coordinator's own trays begin. -/
def State.goIfAll (s : State) (l : Nat) : State :=
  match s.launch? l with
  | none => s
  | some la =>
    if la.coord && (la.phase == .prepared || la.phase == .reserved) && la.ending.isNone && la.memberPkgs.all (fun p => la.acked.contains p) then
      let rels := s.startRels la.ctx la.f (s.rec? la.ctx la.chain la.seq)
      let s1 := s.tell la fun p => .go p la.id rels
      if la.memberPkgs.contains s.pkg then s1.begin l rels
      else s1.modLaunch l fun x => { x with phase := .running }
    else s

/-- A prepared launch reserves its cores (R100): its trays are allocated, and it acknowledges; or the log holds it, and the answer is false. -/
def State.reserve (s : State) (l : Launch) (xs : List Spot) : State × Bool :=
  match s.logPlace l.f l.ctx l.chain l.seq l.ox l.oy with
  | .error t => (t, false)
  | .ok (tag, s1) =>
    let s2 := (s1.allocate l xs).modLaunch l.id fun x => { x with phase := .reserved, ltag := tag, acked := if x.coord then union x.acked [s.pkg] else x.acked }
    (if l.coord then s2.goIfAll l.id else { s2 with sent := s2.sent ++ [.ack l.ctx l.chain l.seq] }, true)

/-- A want given its cores at an origin; false where the log holds it. -/
def State.grant (s : State) (w : Want) (o : Nat × Nat) (xs : List Spot) : State × Bool :=
  match w.record, w.launch.bind s.launch? with
  | some r, _ => s.placeRec w.ctx w.chain r o xs
  | none, some l => s.reserve l xs
  | none, none => (s, false)

/-- The origin a want takes now, with its spots (R91); the lane-private pool must hold its trays' runs (R149). -/
def State.fitNow (s : State) (held : Tray → Warp → Bool) (w : Want) : Option ((Nat × Nat) × List Spot) :=
  (s.findPlace held w.chain w.f).bind fun p => (unitRuns w.f.lpNeed p.2.length (s.lpFree w.ctx)).map fun _ => p

/-! Slides (R93 to R97) -/

/-- Whether a running launch may be slid (R93, R145). -/
def State.slidable (s : State) (l : Launch) : Bool :=
  l.phase == .running && l.ending.isNone && !l.f.fixed && !s.ckptBusy && l.replace.isEmpty && decide (1000000 ≤ (s.now - l.movedAt).toNat) &&
  (s.trays.all fun t => t.launch != l.id || (!(t.warps.all Warp.gone) && t.warps.all fun w => !w.evicted && !w.halted)) &&
  (s.handlers.all fun h => h.launch != l.id) && (l.f.mode != 2)

/-- The launches that may be slid, by ascending core index of their origin (R94). -/
def State.slidables (s : State) : List Launch :=
  (s.launches.filter s.slidable).insertionSort fun a b => decide (a.oy % 24 * 28 + a.ox % 28 ≤ b.oy % 24 * 28 + b.ox % 28)

/-- Groups held, but for those of one launch. -/
def heldBut (l : Nat) (t : Tray) (w : Warp) : Bool := t.launch != l && holdsCore t w

/-- The old cores of a launch write back: the dirty lines that hold its context's words, and its trays' lane-private lines (R95, R152). -/
def State.slideBack (s : State) (l : Launch) : State :=
  let mine := s.trays.filter fun t => t.launch == l.id
  let s1 := mine.foldl (fun (s : State) t => s.lpWriteBack l.id t.idx) s
  let x := s1.ctx l.ctx
  let ws := (s1.regd ++ s1.unregd.map fun p => (p.1, p.2.1)).filter fun p => (mine.any fun t => t.core == p.2) && (x.fabRange (4 * p.1) 4).isSome
  (union [] (ws.map fun p => p.1 / 32)).foldl State.writeBack s1

/-- A launch's trays moved to new spots (R95): words registered to an old core pass to the tray's new one. -/
def State.moveTrays (s : State) (l : Launch) (xs : List Spot) : State :=
  let spotOf := fun (idx : Nat) => xs.find? fun x => x.idx == idx
  let x := s.ctx l.ctx
  let newCore := fun (core : Nat) => ((s.trays.find? fun t => t.launch == l.id && t.core == core).bind fun t => (spotOf t.idx).map Spot.core).getD core
  let mvTray := fun (t : Tray) => if t.launch == l.id then match spotOf t.idx with
    | some y => { t with core := y.core, spRun := y.run }
    | none => t else t
  let mvReg := fun (p : Nat × Nat) => if (x.fabRange (4 * p.1) 4).isSome then (p.1, newCore p.2) else p
  { s with trays := s.trays.map mvTray, regd := s.regd.map mvReg, unregd := s.unregd.map fun p => (p.1, (mvReg (p.1, p.2.1)).2, p.2.2) }

/-- A slide that lets a want be placed (R94): the launch slid and its new origin. -/
def State.findSlide (s : State) (w : Want) : Option (Launch × (Nat × Nat)) :=
  if w.f.fixed || !s.singleAt w.f then none
  else s.slidables.findSome? fun l => (s.origins l.f).findSome? fun o =>
    match s.spots (heldBut l.id) l.chain l.f o.1 o.2 with
    | none => none
    | some xs => if ((s.moveTrays l xs).fitNow holdsCore w).isSome then some (l, o) else none

/-- A slide begins (R95): the launch stops, and the slide is logged (R92); false where the log holds it. -/
def State.startSlide (s : State) (w : Want) (l : Launch) (o : Nat × Nat) : State × Bool :=
  let who := distWho l l.ltag
  let go := fun (s : State) => { (s.modLaunch l.id fun x => { x with phase := .sliding }) with slide := some ⟨l.id, o.1, o.2, w.ctx, w.chain⟩ }
  match s.gate who 0x11 0 with
  | .wait => (s.stalled who 0x11 0, false)
  | .record => (go (s.logPut who 0x11 0 0 (originWord o.1 o.2 l.chain)), true)
  | _ => (go s, true)

/-! Pre-emption (R113 to R118) -/

/-- Whether a group may be evicted for a priority (R113): of a running launch of lower priority; one that replays is evicted only as its log says. -/
def State.candidate (s : State) (p : Nat) (t : Tray) (w : Warp) : Bool :=
  holdsCore t w && ((s.launch? t.launch).map fun l => l.phase == .running && l.ending.isNone && decide (l.chain < p) && l.f.mode != 2).getD false

/-- Groups held, the candidates for a priority counted as free. -/
def State.heldAbove (s : State) (p : Nat) (t : Tray) (w : Warp) : Bool := holdsCore t w && !s.candidate p t w

/-- Whether the groups of a tray are evicted before those of another (R113): lower priority first, then the later placed launch. -/
def State.soonerOut (s : State) (a b : Tray) : Bool :=
  let pr := fun (t : Tray) => ((s.launch? t.launch).map Launch.chain).getD 0
  let at0 := fun (t : Tray) => ((s.launch? t.launch).map fun (l : Launch) => l.placedAt.toNat).getD 0
  decide (pr a < pr b) || (pr a == pr b && (decide (at0 b < at0 a) || (at0 a == at0 b && decide (b.launch ≤ a.launch))))

/-- The candidate groups on a core, in the order of R113: tray by tray, within a tray by descending group number. -/
def State.victims (s : State) (p core : Nat) : List Agent :=
  let ts := (s.trays.filter fun t => t.core == core && !t.freed).insertionSort fun a b => s.soonerOut a b
  (ts.map fun t => ((t.warps.filter (s.candidate p t)).map Warp.agent).insertionSort fun a b => decide (b.groupNo ≤ a.groupNo)).flatten

/-- The groups of the gangs that name one of some groups, with those groups. -/
def Tray.gangsOf (t : Tray) (gs : List Nat) : List Nat :=
  t.warps.foldl (fun (m : List Nat) w =>
    let named := (List.range 32).filter fun k => w.gang.getLsbD k
    if !w.gone && named.any fun k => m.contains k then union m named else m) gs

/-- The groups evicted with one (R113): a group named in another's gang goes with every group of that gang, and each of those so again. -/
def Tray.gangWith (t : Tray) (g : Nat) : List Nat := (List.range 32).foldl (fun (m : List Nat) _ => t.gangsOf m) [g]

/-- A handler group without the lanes that serve a tray (R118). -/
def Warp.without (w : Warp) (tray : Nat) : Warp :=
  { w with lanes := w.lanes.map fun l => if l.origin.any fun o => o.tray == tray then { l.killed with origin := none } else l }

/-- A tray discarded whole (R118): groups, the handler lanes that serve it, memories and units are gone; it is to be placed again. -/
def State.flushTray (s : State) (t : Tray) : State :=
  let mine := fun (a : Agent) => match a with
    | .group l i _ => l == t.launch && i == t.idx
    | _ => false
  let here := fun (loc : Loc) => match loc with
    | .sp l i _ => l == t.launch && i == t.idx
    | .pm l i _ => l == t.launch && i == t.idx
    | .ctl l i _ => l == t.launch && i == t.idx
    | .fab _ => false
  let c := ((s.launch? t.launch).map Launch.ctx).getD 0
  let s1 := { s with
    ords := s.ords.filter fun p => !mine p.1
    vers := s.vers.filter fun p => !here p.1
    gathers := s.gathers.map fun (g : Gathering) => if g.launch == t.launch then { g with lanes := g.lanes.filter fun o => o.tray != t.idx } else g
    handlers := (s.handlers.map fun (h : Handler) => if h.launch == t.launch then { h with warp := h.warp.without t.idx } else h).filter fun h => !h.warp.gone
    requests := s.requests.filter fun r => !mine r.agent }
  let s2 := s1.modCtx c fun x => { x with track := x.track.filter fun k => !mine k.agent }
  (s2.modTray t.launch t.idx fun x => { x with warps := [], lpUnits := [], sp := [], pm := [], lp := [], lpDirty := [], windows := [], arrivals := [], freed := true }).modLaunch t.launch
    fun x => { x with replace := union x.replace [t.idx] }

/-- A group's word 0 as the distributor logs its eviction (R203, R205): the victim's launch, tray and group. -/
def evictWho (l : Launch) (t g : Nat) : Who := ⟨l.ctx, l.f.mode, 3 * 2 ^ 52 + l.ltag * 2 ^ 36 + t * 2 ^ 12 + g * 2 ^ 5⟩

/-- One group evicted (R114), logged with the tag of the launch that pre-empts; true where the log holds it. -/
def State.evictOne (s : State) (tag : Nat) (a : Agent) : State × Bool :=
  match s.warp? a, s.launchOf a with
  | some w, some l =>
    if w.gone || w.evicted then (s, false)
    else
      let who := evictWho l a.trayNo a.groupNo
      match s.gate who 0x12 0 with
      | .wait => (s.stalled who 0x12 0, true)
      | .record => ((s.logPut who 0x12 0 tag 0).evictGroup a, false)
      | _ => (s.evictGroup a, false)
  | _, _ => (s, false)

/-- A chosen group evicted with its gang, or its tray flushed (R113, R117, R118); true where the log holds it. -/
def State.evict (s : State) (tag : Nat) (a : Agent) : State × Bool :=
  match s.trayOf a, s.launchOf a with
  | some t, some l =>
    if l.f.idem && !t.published && l.f.mode == 0 then (s.flushTray t, false)
    else (t.gangWith a.groupNo).foldl (fun (p : State × Bool) g => if p.2 then p else p.1.evictOne tag (.group t.launch t.idx g)) (s, false)
  | _, _ => (s, false)

/-- Groups on a core evicted one at a time until it has room (R113): the state, and whether the log stopped it. -/
def State.evictCore (s : State) (tag core : Nat) (n : Need) : List Agent → State × Bool
  | [] => (s, false)
  | a :: r =>
    if (s.coreRoom holdsCore core n).isSome then (s, false)
    else
      let p := s.evict tag a
      if p.2 then p else p.1.evictCore tag core n r

/-- The tag a want will have if it is recorded (R205, A of EVICT). -/
def State.wantTag (s : State) (w : Want) : Nat := if w.f.mode = 0 then 0 else nextTag (s.ctx w.ctx).ltag

/-- Pre-emption for a want (R113): at the first origin where it would fit with every candidate gone, groups are evicted until it fits, and it is placed; false where nothing can be done or the log holds
it. A launch for which the lane-private pool is still short then waits, and nothing is evicted for it (R91; log entry 69: DEDUCED). -/
def State.preempt (s : State) (w : Want) : State × Bool :=
  match s.findPlace (s.heldAbove w.chain) w.chain w.f with
  | none => (s, false)
  | some (_, xs) =>
    let r := xs.foldl (fun (p : State × Bool) x => if p.2 then p else p.1.evictCore (s.wantTag w) x.core w.f.need (p.1.victims w.chain x.core)) (s, false)
    if r.2 then (r.1, false)
    else match r.1.fitNow holdsCore w with
      | some (o, ys) => ((r.1.grant w o ys).1, true)
      | none => (s, false)

/-! The decision (R90) -/

/-- Prepare (R100): the record of a launch over several packages starts, and every member is asked to reserve. -/
def State.prepare (s : State) (c ch : Nat) (r : Rec) : State :=
  let f := launchF r.body
  let l := s.newLaunch c ch r.seq r.addr f r.pipe f.ox f.oy .prepared true s.pkg (r.readyAt.getD 0)
  ((s.startRec c ch r).addLaunch l).tell l fun p => .prepare p l.descr l.check r.body

/-- Whether a want is decided by this package alone: a record of a launch over several packages is prepared instead (R100). -/
def State.ownWant (s : State) (w : Want) : Bool := w.record.isNone || s.singleAt w.f

/-- A want placed, if it fits and the log lets it; a launch over several packages is prepared when it comes first in the order of R90. -/
def State.placeWant (s : State) (w : Want) (first : Bool) : State × Bool :=
  if s.modeBlocked w.ctx w.f then (s, false)
  else if s.ownWant w then (match s.fitNow holdsCore w with
    | some (o, xs) => s.grant w o xs
    | none => (s, false))
  else match w.record with
    | some r => if first then (s.prepare w.ctx w.chain r, true) else (s, false)
    | none => (s, false)

/-- Cores found for a want that nothing fits: a slide, else pre-emption (R90). -/
def State.makeRoom (s : State) (w : Want) (_ : Bool) : State × Bool :=
  if s.modeBlocked w.ctx w.f || !s.ownWant w || (s.fitNow holdsCore w).isSome then (s, false)
  else match s.findSlide w with
    | some (l, o) => s.startSlide w l o
    | none => s.preempt w

/-- The wants tried in order until something is done for one; those that the log holds stay as they are. -/
def State.tryWants (f : State → Want → Bool → State × Bool) : List Want → Bool → State → State × Bool
  | [], _, s => (s, false)
  | w :: r, first, s =>
    let p := f s w first
    if p.2 then p else tryWants f r false p.1

/-- One decision (R90): the first want that fits is placed; if none does, room is made for the first that can be given any (log entry 69). -/
def State.oneDecision (s : State) : State :=
  let p := State.tryWants State.placeWant s.wants true s
  if p.2 then p.1 else (State.tryWants State.makeRoom p.1.wants true p.1).1

/-- Whether an EVICT record may name a launch as the one that pre-empts (R113, R209): its tag is that of a want of a higher priority than the victim's launch; where no such want waits, the launch is another's, which
a replay does not have, and is not compared (log entry 80: DEDUCED). -/
def State.preempts (s : State) (l : Launch) (tag : Nat) : Bool :=
  let above := s.wants.filter fun w => decide (l.chain < w.chain)
  decide (tag < 2 ^ 16) && (above.isEmpty || above.any fun w => s.wantTag w == tag)

/-- A SLIDE or EVICT record at CONS of a replaying context is compared and carried out (R92, R113, R209): the slide to the launch's own origin, the eviction of the named group. Origins are not compared. -/
def State.replayDecision (s : State) (c : Nat) : Option State :=
  if s.ctxMode c ≠ 2 ∨ (s.ctx c).logUsed = 0 then none
  else
    let w0 := s.logWord c 0
    match s.launches.find? fun l => l.ctx == c && l.f.mode == 2 && l.ltag == bits w0 36 16 && l.phase == .running with
    | none => none
    | some l =>
      if bits w0 52 4 ≠ 3 then none
      else if bits w0 56 8 = 0x11 then
        if s.logWord c 2 = 0 ∧ bits w0 0 36 = 0 ∧ bits (s.logWord c 3) 18 46 = bits (originWord 0 0 l.chain) 18 46 then
          let s1 := s.logTake c
          some { s1 with regs := { s1.regs with distCnt := satInc s1.regs.distCnt 48 16 } }
        else some (s.divergeAll c)
      else if bits w0 56 8 = 0x12 then
        if s.logWord c 3 ≠ 0 ∨ !s.preempts l (s.logWord c 2) ∨ bits w0 0 5 ≠ 0 then some (s.divergeAll c)
        else
        let a : Agent := .group l.id (bits w0 12 24) (bits w0 5 7)
        some (if ((s.warp? a).map Warp.gone).getD true then s.logTake c else (s.logTake c).evictGroup a)
      else none

/-- PLACEMENT_DECISION (R90 to R97, R113): one decision of the distributor; none while a checkpoint or a slide is in progress. -/
def execPlacementDecision (s : State) : Out :=
  .next (if !s.working || s.ckptBusy || s.slide.isSome then s
    else
      let s0 := s.freeTrays
      match s0.ctxs.findSome? fun p => s0.replayDecision p.1 with
      | some t => t
      | none => s0.oneDecision)

/-- SLIDE_RESUME (R95): every slid tray resumes at its new core, and the waiting launch is placed. -/
def execSlideResume (s : State) : Out :=
  .next (match s.slide with
    | none => s
    | some x =>
      let s0 := { s with slide := none }
      match s.launch? x.launch with
      | none => s0
      | some l =>
        let s1 := match s0.spots (heldBut l.id) l.chain l.f x.nx x.ny with
          | none => s0.modLaunch l.id fun y => { y with phase := .running }
          | some xs =>
            let d := s0.descr l.ctx l.chain l.seq l.f x.nx x.ny
            let s2 := ((s0.slideBack l).moveTrays l xs).modLaunch l.id fun y =>
              { y with phase := .running, ox := x.nx, oy := x.ny, movedAt := s.now, descr := d, check := descrCheck d }
            { s2 with regs := { s2.regs with distCnt := satInc s2.regs.distCnt 48 16 } }
        match s1.wants.find? fun w => w.ctx == x.ctx && w.chain == x.chain with
        | none => s1
        | some w => match s1.fitNow holdsCore w with
          | some (o, xs) => (s1.grant w o xs).1
          | none => s1)

/-! Trays that come back (R115, R118) -/

/-- EVICTED_RETURN (R115): a tray's evicted groups return together once its core has room for all of them. -/
def execEvictedReturn (launch tray : Nat) (s : State) : Out :=
  .next (match s.launch? launch, s.tray? launch tray with
    | some l, some t =>
      let n := (t.warps.filter fun w => w.evicted && !w.gone).length
      let resident := t.warps.any (holdsCore t)
      let need : Need := if resident then ⟨n, n * 128 * l.f.nregs, 0, 0⟩ else ⟨n, n * 128 * l.f.nregs, l.f.tiles, l.f.need.kb⟩
      if n = 0 || s.ckptBusy || s.slide.isSome || l.phase != .running || !s.working then s
      else match s.coreRoom holdsCore t.core need with
        | none => s
        | some run =>
          let s1 := s.modTray launch tray fun x => { x with
            spRun := if resident then x.spRun else run
            warps := x.warps.map fun w => { w with evicted := false } }
          (t.warps.map Warp.agent).foldl (fun (s : State) a => s.comeBacks a) s1
    | _, _ => s)

/-- TRAY_REPLACE (R118): a flushed tray is placed again on its core and starts afresh. -/
def execTrayReplace (launch tray : Nat) (s : State) : Out :=
  .next (match s.launch? launch, s.tray? launch tray with
    | some l, some t =>
      if !l.replace.contains tray || s.owedBefore t l.chain || s.ckptBusy || s.slide.isSome || l.phase != .running || !s.working then s
      else match s.coreRoom holdsCore t.core l.f.need, lowestUnits (s.lpFree l.ctx) l.f.lpNeed with
        | none, _ => s
        | some _, none => s
        | some run, some units =>
          let t1 := freshTray l.id l.f l.pipe ⟨tray, t.core, run⟩ units ((s.freeTilesAt t.core).take l.f.tiles)
          let s1 := (s.modTray launch tray fun _ => t1).modLaunch launch fun x => { x with replace := x.replace.filter fun y => y != tray }
          t1.warps.foldl (fun (s : State) w => s.setOrd w.agent { Ord.clear with view := l.view }) s1
    | _, _ => s)

/-! Pipelines (R111) -/

/-- Trays of a stage that have no exited group, ascending. -/
def State.stageTrays (s : State) (l k : Nat) : List Nat :=
  ((s.trays.filter fun t => t.launch == l && t.stage == k && !t.freed && t.warps.all fun w => !w.gone).map Tray.idx).insertionSort fun a b => decide (a ≤ b)

/-- The mark a running pipeline takes at a tick: the tray and its new stage (R111). -/
def State.pipeMark (s : State) (l : Launch) : Option (Nat × Nat) :=
  match l.pipe with
  | none => none
  | some p =>
    if p.marked.isSome || l.f.mode = 2 || l.phase != .running then none
    else
      let n := p.stages.length
      let count := fun (k : Nat) => ((p.queues[k]?).map fun q => q.pushed - q.popped).getD 0
      let cap := fun (k : Nat) => 2 ^ ((p.stages[k]?).map Stage.qlog2).getD 0
      let recips := (List.range n).filter fun r => r != 0 && decide (3 * cap (r - 1) < 4 * count (r - 1))
      let donors := (List.range (n - 1)).filter fun d => count d == cap d && decide (((p.stages[d]?).map Stage.min).getD 0 < (s.stageTrays l.id d).length)
      match recips.head? with
      | none => none
      | some r => match donors.find? fun d => d != r with
        | none => none
        | some d => ((s.stageTrays l.id d).getLast?).map fun t => (t, r)

/-- PIPELINE_REBALANCE_TICK (R111): each running pipeline with no move pending is examined, at most one tray of it marked. -/
def execPipelineRebalanceTick (s : State) : Out :=
  let mark := fun (l : Launch) => match s.pipeMark l with
    | none => l
    | some m => { l with pipe := l.pipe.map fun p => { p with marked := some m } }
  .next { s with pipeAt := s.now, launches := s.launches.map mark }

end Sys2Proof.Machine
end

