-- ==== Sys2Proof/Machine/Secure.lean ====
section
/-!
DEFINITION. Security, start and power (R68 to R85): a start and its steps, firmware, attestation, debug requests, power states.
-/

namespace Sys2Proof.Machine

/-! A start (R85, R81 to R84) -/

/-- A word whose newest version was held only by a cache when the caches were lost: what its home keeps is one of its versions, and the manual does not say which (log entry 2: DESIGN CHOICE). -/
def State.loseWord (s : State) (w : Nat) : State :=
  match alGet s.vers (.fab w) with
  | none => s
  | some vs => match vs[Config.freeChoice s.free % vs.length]? with
    | none => s
    | some v => { s with
        free := s.free + 1
        mem := memWrite s.mem (4 * w) 4 (v.val.toNat % 2 ^ 32)
        vers := alSet s.vers (.fab w) [{ v with pub := .init }] }

/-- What the caches alone held is lost: words registered to cores, and dirty lines. -/
def State.loseCaches (s : State) : State :=
  let ws := union (union (s.regd.map Prod.fst) (s.unregd.map Prod.fst)) ((s.dirty.map fun l => (List.range 32).map fun j => 32 * l + j).flatten)
  ws.foldl State.loseWord s

/-- What stays of the version lists at a start: poison, which memory keeps. -/
def State.poisonOnly (s : State) : List (Loc × List Version) :=
  s.vers.filterMap fun p => match p.1, p.2.getLast? with
    | .fab w, some v => if v.poison then some (.fab w, [{ v with pub := .init }]) else none
    | _, _ => none

/-- The sheets that hold a reservation stored as they stand, no line being dirty any more (R37). -/
def State.storeReserved (s : State) : State :=
  { s.reserved.foldl (fun (s : State) p => { s with chunks := alSet s.chunks p.1 (s.sheetNeed p.1) }) s with reserved := [] }

/-- The pools counted anew from the chunks that sheets hold (R20, R35). -/
def State.retake (s : State) : State :=
  { s with taken := s.chunks.foldl (fun (t : List (Nat × Nat)) p => alSet t (s.poolOf p.1) ((alGet t (s.poolOf p.1)).getD 0 + p.2)) [] }

/-- A start begins at a step (R85): contexts, key slots, the transport key and the debug level do not survive, NOR and memory do. cold tells whether it begins at power-on. -/
def State.startOver (s : State) (cold : Bool) : State :=
  let s1 := s.loseCaches.storeReserved
  let erased := fun (r : StepRec) => if r.clr then (⟨false, 0, 0, false⟩ : StepRec) else r
  State.retake { State.reset with
    inputs := s1.inputs
    paceC := s1.paceC
    paceNs := s1.paceNs
    free := s1.free
    mem := s1.mem
    vers := s1.poisonOnly
    chunks := s1.chunks
    frames := s1.frames
    portUp := s1.portUp
    safeTier := s1.safeTier
    signals := s1.signals
    sent := s1.sent
    hostRead := s1.hostRead
    atomOld := s1.atomOld
    boot := { Boot.reset with rollback := s1.boot.rollback, owner := s1.boot.owner, helper := s1.boot.helper, steps := s1.boot.steps.map erased, cold := cold } }

/-- POWER_ON (R74, R85): of a part without power, or of one that the host has switched off (log entry 64: DEDUCED). -/
def execPowerOn (s : State) : Out := .next (if s.boot.off || s.power == 3 then s.startOver true else s)

/-- HOST_FUNDAMENTAL_RESET (R85): it begins a start while the other port's link is down. -/
def execHostFundamentalReset (p : Port) (s : State) : Out := .next (if !s.boot.off && !s.portIsUp (1 - p.val) then s.startOver false else s)

/-- FW_RESTART (R85). -/
def execFwRestart (p : Port) (s : State) : Out := guarded p s id fun s => s.startOver false

/-- POWER_LOSS (R85, R45): all that is not persistent is gone; memory on the module reads as memory that nothing has written (log entry 7: DESIGN CHOICE), that of hosts and CXL devices stands. -/
def execPowerLoss (s : State) : Out :=
  let outside := fun (a : Nat) => pkgOf a != s.pkg || (match regionOf (offOf a) with
    | .host _ => true
    | .cxl => true
    | _ => false)
  .next { State.reset with
    inputs := s.inputs
    paceC := s.paceC
    paceNs := s.paceNs
    free := s.free
    mem := s.loseCaches.mem.filter fun c => outside c.1
    portUp := s.portUp
    safeTier := s.safeTier.filter fun im => outside im.base
    signals := s.signals
    sent := s.sent
    boot := { Boot.reset with rollback := s.boot.rollback, owner := s.boot.owner, helper := s.boot.helper, steps := s.boot.steps, next := none, off := true } }

/-- The forms of a start step (R82). -/
inductive StepForm where
  | normal | fallback | skip
deriving DecidableEq, Repr

/-- Steps with a fallback form (R81). -/
def stepFallback (n : Nat) : Bool := n == 4 || (decide (5 ≤ n) && decide (n ≤ 20)) || n == 21

/-- Optional steps (R81). -/
def stepOptional (n : Nat) : Bool := decide (23 ≤ n)

/-- The form a step takes, and FB with it (R82). -/
def stepForm (n : Nat) (r : StepRec) : StepForm × Bool :=
  if r.fb then (.fallback, true)
  else if stepFallback n && r.prev == 2 && r.last == 2 then (.fallback, true)
  else if stepOptional n && r.last == 2 then (.skip, false)
  else (.normal, false)

/-- The outcome code of a form that ran (R82). -/
def stepOutcome (f : StepForm) (ok : Bool) : BitVec 4 :=
  match f with
  | .fallback => if ok then 4 else 5
  | .normal => if ok then 1 else 2
  | .skip => 3

/-- DBG_MAX by security state (R71). -/
def dbgMax (st : Nat) : Nat :=
  match st with
  | 0 => 3 | 1 => 2 | 2 => 1 | _ => 2

/-- Whether the configuration blob is signed as R69 asks, over its SHA3-512 digest: by the recorded owner key, or in Open by the key whose digest it carries as the new owner's. NOR and the blob hold SHA3-512 digests of keys, and the
key itself comes with the blob (log entry 3: DESIGN CHOICE). -/
def Boot.blobSigned (b : Boot) (i : StepIn) : Bool :=
  Config.mldsaVerifyBy i.blobKey (Config.sha3 i.blob) i.blobSig && Config.sha3 i.blobKey == b.owner.getD i.newOwner

/-- Whether a step's work passes: step 2 by its load, step 3 by the blob's signature and ratio, step 26 by the safe tier (R79, R69, R34). -/
def State.stepPass (s : State) (n : Nat) (i : StepIn) : Bool :=
  match n with
  | 2 => (s.boot.fw.map FwLoad.ok).getD false
  | 3 => i.pass && s.boot.blobSigned i && decide (128 ≤ i.ratio.toNat) && decide (i.ratio.toNat ≤ 256)
  | 26 => i.pass && (match s.safeTier with
    | some im => s.backed im.base
    | none => false)
  | _ => i.pass

/-- What does not survive a start (R85, R72) and could have come up since this one began: the granted level, the transport key and what waits for a level. -/
def State.dropLevel (s : State) : State :=
  { s with
    kemKey := none
    waking := s.waking.map fun w => (w.1, 0)
    regs := { s.regs with secStat := s.regs.secStat &&& ~~~ 4, dbgCtl := BitVec.ofNat 64 (setBits s.regs.dbgCtl.toNat 16 2 0) } }

/-- Step 3 passed (R68, R69, R34): the security state, the ownership record, DBG_MAX, the ratio; no level is granted yet, nor a transport key established (R70, R72). -/
def State.blobTaken (s : State) (i : StepIn) : State :=
  let st := i.state.toNat
  let s := s.dropLevel
  { s with
    keys := if st = 0 && s.boot.owner.isSome then [] else s.keys
    boot := { s.boot with owner := if st = 0 then none else some (s.boot.owner.getD i.newOwner), blobHash := Config.sha3 i.blob, restore := i.restore }
    regs := { s.regs with
      secStat := BitVec.ofNat 64 (setBits (setBits s.regs.secStat.toNat 0 2 st) 6 2 (dbgMax st))
      dbgCtl := BitVec.ofNat 64 (setBits s.regs.dbgCtl.toNat 18 2 (dbgMax st))
      cmpCfg := BitVec.ofNat 64 (setBits s.regs.cmpCfg.toNat 8 9 i.ratio.toNat) } }

/-- The channel of a substitute: the i-th of the spread over k healthy stacks, from the part's own beginning (R20). -/
def spread (healthy : List Nat) (i : Nat) : Nat :=
  let j := i + Config.substStart
  32 * healthy.getD (j % healthy.length) 0 + (j / healthy.length) % 32

/-- The channel substitution table (R20), in one order of the spread of which the manual says only that it is even (log entry 4: DESIGN CHOICE): the channels of mapped-out stacks spread over the healthy stacks of their die, or over those of the other dies. -/
def substTable (mapped : List Nat) : List (Nat × Nat) :=
  let healthy := (List.range 16).filter fun h => !mapped.contains h
  let lost := ((List.range 16).filter fun h => mapped.contains h).map fun h => (List.range 32).map fun j => 32 * h + j
  lost.flatten.zipIdx.map fun p =>
    let same := healthy.filter fun h => h / 4 == p.1 / 128
    (p.1, spread (if same.isEmpty then healthy else same) p.2)

/-- The restore of step 26 (R45, R85): memory, contexts and their saved launches as the checkpoint took them, with what their outboxes held; after a start at power-on, every LPDDR-6 page outside the safe tier is poisoned. -/
def State.restoreImage (s : State) (im : Image) : State :=
  let saved : State := { s with mem := im.mem, regs := { s.regs with mtRoot := im.mtRoot } }
  let ts := saved.allTables
  let kept := s.mem.filter fun c => !saved.ckptAddr ts c.1
  let clear := fun (p : Agent × Ord) => (p.1, { Ord.clear with outbox := p.2.outbox, nrel := p.2.nrel, region := p.2.region })
  let s1 := { saved with
    mem := im.mem.foldl (fun (m : Memory) (c : Host.Cell) => memPut m c.1 c.2) kept
    vers := s.vers.filter fun p => match p.1 with
      | .fab w => !saved.ckptAddr ts (4 * w)
      | _ => false
    ctxs := im.ctxs
    launches := im.launches
    trays := im.trays
    gathers := im.gathers
    handlers := im.handlers
    ords := im.ords.map clear
    nextId := im.nextId
    frames := im.frames
    reserved := []
    chunks := [] }
  let sheets := union [] ((im.mem.filter fun c => pkgOf c.1 == s.pkg && regionOf (s1.frameOff c.1) == .first).map fun c => sheetOf (s1.frameOff c.1))
  let s2 := State.retake { s1 with chunks := sheets.map fun sh => (sh, s1.sheetNeed sh) }
  if !s.boot.cold then s2
  else
    s2.leafTables.foldl (fun (s : State) t => (List.range 256).foldl (fun (s : State) j =>
      let e := s.tblEntry t j
      let fa := bits e 16 36 * 65536
      if bits e 0 2 = 1 && regionOf (offOf fa) == .second && !(decide (im.base ≤ fa) && decide (fa < im.base + im.size)) then s.devWrite (t + 8 * j) 8 (setBits e 0 2 3) else s) s) s2

/-- What a step that passed does (R81). Step 24 puts every link into training: the manual names no configuration that disables one, so that STATE 3 of a link does not come about (log entry 86: DESIGN CHOICE). -/
def State.stepWork (s : State) (n : Nat) (i : StepIn) : State :=
  match n with
  | 3 => s.blobTaken i
  | 23 => { s with boot := { s.boot with cxlEnds := i.cxlEnds.map BitVec.toNat } }
  | 24 => (List.range 16).foldl (fun (s : State) l => s.modAbl l fun w => BitVec.ofNat 64 (setBits w.toNat 0 2 1)) s
  | 25 => { s with now := i.time, regs := { s.regs with timeCfg := s.regs.timeCfg ||| 0x100 } }
  | 26 => match s.safeTier with
    | some im => s.restoreImage im
    | none => s
  | 27 => { s with regs := { s.regs with srvCtl := s.regs.srvCtl ||| 1 } }
  | _ => s

/-- The next step after n (R81, R80): after the last mandatory step the rollback counter takes the floor. -/
def State.stepNext (s : State) (n : Nat) : State :=
  let s1 := if n = 20 then State.retake { s with boot := { s.boot with subst := substTable s.boot.mapped } } else s
  let s2 := if n = 22 then { s1 with boot := { s1.boot with rollback := BitVec.ofNat 32 (Nat.max s1.boot.rollback.toNat s1.boot.floor.toNat) } } else s1
  { s2 with boot := { s2.boot with next := if n = 27 then none else some (n + 1) } }

/-- Limited mode (R84). -/
def State.limit (s : State) : State := { s with boot := { s.boot with next := none }, regs := { s.regs with secStat := s.regs.secStat ||| 8 } }

/-- The start record of a step (R82). -/
def State.stepRec (s : State) (n : Nat) : StepRec := s.boot.steps.getD n ⟨false, 0, 0, false⟩

/-- The load that step 2 has taken (R79): one that passed is committed. -/
def Boot.commit (b : Boot) : Boot :=
  match b.fw with
  | some f => if f.ok then { b with fw := none, floor := f.floor, fwHash := f.hash } else { b with fw := none }
  | none => b

/-- A step that ran, with its outcome (R81, R82, R84). A mandatory step that fails in its normal form, its fallback form being left to a later start, does not stop this one: the start goes on with the next step, and the
stack, the links or the memory stay in use (log entry 91: DEDUCED). -/
def State.stepRan (s : State) (n : Nat) (f : StepForm) (fb : Bool) (i : StepIn) : State :=
  let r := s.stepRec n
  let ok := s.stepPass n i
  let s1 := { s with boot := { s.boot with steps := s.boot.steps.set n { r with fb := fb, prev := r.last, last := stepOutcome f ok } } }
  let s2 := if n = 2 then { s1 with boot := s1.boot.commit } else s1
  let s3 := if ok then s2.stepWork n i else s2
  let stack := decide (5 ≤ n) && decide (n ≤ 20)
  let s4 := if stack && !ok && f == .fallback then { s3 with boot := { s3.boot with mapped := s3.boot.mapped ++ [n - 5] } } else s3
  let dead := if stack then n == 20 && s4.boot.mapped.length == 16
    else !ok && !stepOptional n && (!stepFallback n || f == .fallback)
  if dead then s4.limit else s4.stepNext n

/-- START_STEP (R81, R82, R84): the boot core runs the next step in the form the start record chooses; step 2 waits for a firmware load. -/
def execStartStep (n : Fin 32) (i : StepIn) (s : State) : Out :=
  let k := n.val
  .next (if s.boot.off || s.boot.next ≠ some k || (k = 2 && s.boot.fw.isNone) then s
    else
      let f := stepForm k (s.stepRec k)
      if f.1 = .skip then State.stepNext { s with regs := { s.regs with skipped := s.regs.skipped.set k true } } k
      else if k = 26 && !s.boot.restore then s.stepNext k
      else s.stepRan k f.1 f.2 i)

/-- START_STEP_CLEAR (R83): FB, LAST and PREV of a step are erased from the next start on. -/
def execStartStepClear (p : Port) (n : Fin 32) (s : State) : Out :=
  guarded p s id fun s => if n.val = 0 || decide (27 < n.val) then s
    else { s with boot := { s.boot with steps := s.boot.steps.modify n.val fun r => { r with clr := true } } }

/-! Firmware (R78, R79) -/

/-- The fields of a firmware image (R78): whether its header keeps every limit, its FLOOR, its size without the signature. -/
def State.fwHeader (s : State) (a : Nat) : Bool × Nat × Nat :=
  let f := fun (o n : Nat) => memRead s.mem (a + o) n
  let ok := f 0 4 == 1 && decide (s.boot.rollback.toNat ≤ f 4 4) && decide (f 8 4 ≤ f 4 4) && f 12 4 == 0 && decide (2 ^ 20 ≤ f 16 8) && decide (f 16 8 ≤ 2 ^ 26) && f 24 40 == 0
  (ok, f 8 4, 64 + f 16 8)

/-- What the boot core finds in an image that it reads through a port (R78, R79): its limits, its signature over header and body, and the digest of the whole. -/
def State.fwRead (s : State) (p a : Nat) : FwLoad :=
  let h := s.fwHeader a
  let whole := h.1 && regionOf (offOf a) == .host p && regionOf (offOf (a + h.2.2 + 4626)) == .host p && pkgOf a == s.pkg
  ⟨whole && Config.mldsaVerify (Config.sha3 (memBytes s.mem a h.2.2)) (memBytes s.mem (a + h.2.2) 4627), p, BitVec.ofNat 32 h.2.1, Config.sha3 (memBytes s.mem a (h.2.2 + 4627))⟩

/-- In limited mode a LOAD runs the start again from step 2 (R79): LIMITED, the outcomes of this start, the mapped-out stacks, the debug level, the key slots and the transport key are cleared at the write (R72, R85); the
security state and DBG_MAX stand until step 3 has run again, and the steps read LAST and PREV as their first pass at this start left them (log entry 91: DEDUCED). -/
def State.fromStep2 (s : State) : State :=
  let s := s.dropLevel
  { s with
    keys := []
    boot := { s.boot with next := some 2, mapped := [], subst := [] }
    regs := { s.regs with secStat := s.regs.secStat &&& ~~~ 8, skipped := List.replicate 28 false } }

/-- FW_LOAD (R79): the image is read and checked; step 2 takes the result, and commits an image that has passed. -/
def execFwLoad (p : Port) (s : State) : Out :=
  guarded p s id fun s =>
    if !s.limited && s.boot.next ≠ some 1 && s.boot.next ≠ some 2 then s
    else
      let s1 := if s.limited then s.fromStep2 else s
      let f := s.fwRead p.val (bits s.regs.fwBase.toNat 3 49 * 8)
      { s1 with boot := { s1.boot with fw := some f }, regs := if f.ok then s1.regs else { s1.regs with fwCtl := s1.regs.fwCtl ||| 2 } }

/-! Attestation (R76) -/

/-- A list cut or filled with zeros to n bytes. -/
def exactly (n : Nat) (l : List (BitVec 8)) : List (BitVec 8) := l.take n ++ List.replicate (n - l.length) 0

/-- A START_STEP register as a read returns it (R83). -/
def State.startReg (s : State) (n : Nat) : Nat :=
  let r := s.stepRec n
  (if s.regs.skipped.getD n false then 3 * 2 ^ 16 else 0) + r.fb.toNat * 2 ^ 15 + r.prev.toNat * 2 ^ 8 + r.last.toNat * 2 ^ 4

/-- The start record as bytes: its registers in order (log entry 3: DESIGN CHOICE). -/
def State.startBytes (s : State) : List (BitVec 8) := ((List.range 27).map fun j => toBytes 8 (s.startReg (j + 1))).flatten

/-- A context's range registers and key-slot numbers as bytes: the registers in order (log entry 3: DESIGN CHOICE). -/
def Context.rangeBytes (x : Context) : List (BitVec 8) :=
  (x.ranges.map fun r => toBytes 8 r.base.toNat ++ toBytes 8 r.size.toNat ++ toBytes 8 r.map.toNat ++ toBytes 8 r.key.toNat).flatten

/-- The identity public key, 2,592 bytes (R75). -/
def State.identityKey (s : State) : List (BitVec 8) := exactly 2592 (Config.mldsaPublic (s.boot.seed 1))

/-- The transport public key, 1,568 bytes (R75). -/
def State.transportKey (s : State) : List (BitVec 8) := exactly 1568 (Config.mlkemPublic (s.boot.seed 2))

/-- Bytes [415:0] of a report over a nonce (R76): of the package, or of a context. -/
def State.report (s : State) (c : Option Nat) (nonce : List (BitVec 8)) : List (BitVec 8) :=
  let st := bits s.regs.secStat.toNat 0 2
  let h := fun (bs : List (BitVec 8)) => toBytes 64 (Config.sha3 bs).toNat
  toBytes 4 1 ++ toBytes 4 (st + 4 * bits s.regs.secStat.toNat 6 2 + 16 * s.power) ++ toBytes 8 s.boot.rollback.toNat ++ toBytes 8 s.now.toNat ++ nonce ++
    toBytes 64 s.boot.fwHash.toNat ++ toBytes 64 s.boot.blobHash.toNat ++ h s.identityKey ++ h s.startBytes ++
    (match c with
      | some c => toBytes 8 c ++ h (s.ctx c).rangeBytes
      | none => toBytes 8 (2 ^ 64 - 1) ++ List.replicate 64 0)

/-- Whether step 1 has passed at this start, so that the boot core has its keys (R75, R84). -/
def State.identified (s : State) : Bool := s.boot.next != some 1 && (s.stepRec 1).last == 1

/-- ATT_GO (R76, R84): a report or a key is written to ATT_BUF, or ERR is set. ERR answers too a KIND that limited mode does not serve, and any before step 1 has passed: the manual names no answer there (log entry 86:
DESIGN CHOICE). -/
def execAttGo (p : Port) (kind : BitVec 2) (c : Fin 256) (s : State) : Out :=
  hostWrite p s fun s =>
    let k := kind.toNat
    let s1 := { s with regs := { s.regs with attCtl := BitVec.ofNat 64 (setBits (setBits s.regs.attCtl.toNat 0 2 k) 8 8 c.val) } }
    let a := bits s.regs.attBuf.toNat 3 49 * 8
    let n := match k with
      | 2 => 2592
      | 3 => 1568
      | _ => 5043
    let bad := !s.identified || !s.windowOk a n || (k == 1 && (s.ctx c.val).st == 0) || (s.limited && k != 0 && k != 2)
    let done := fun (s : State) (b : Word) => { s with regs := { s.regs with attCtl := s.regs.attCtl ||| b } }
    if bad then done s1 0x40000
    else match k with
      | 2 => done (s1.devBytes a s.identityKey) 0x20000
      | 3 => done (s1.devBytes a s.transportKey) 0x20000
      | _ =>
        let head := s.report (if k = 1 then some c.val else none) (memBytes s.mem (a + 24) 64)
        let sig := exactly 4627 (Config.mldsaSign (s.boot.seed 1) (Config.sha3 head))
        done ((s1.devBytes a (head.take 24)).devBytes (a + 88) (head.drop 88 ++ sig)) 0x20000

/-! Debug requests (R71, R72) -/

/-- LEVEL and RESULT of DBG_CTL. -/
def State.dbgSet (s : State) (level result : Nat) : State :=
  { s with regs := { s.regs with dbgCtl := BitVec.ofNat 64 (setBits (setBits s.regs.dbgCtl.toNat 16 2 level) 8 3 result) } }

/-- RESULT alone. -/
def State.dbgResult (s : State) (result : Nat) : State := s.dbgSet s.dbgLevel result

/-- A debug request (R71, R72): every one is refused in Off; a lower level is taken at once, else the state's DBG_MAX and then the power state decide. One that an earlier request is still waking for is granted when the wake
completes, whatever later requests were answered meanwhile (log entry 86: DESIGN CHOICE). -/
def State.dbgRequest (s : State) (lv : Nat) : State :=
  if s.power = 3 then s.dbgResult 2
  else if lv < s.dbgLevel then s.dbgSet lv 0
  else if bits s.regs.secStat.toNat 6 2 < lv then s.dbgResult 1
  else if s.power = 1 && lv = 3 then (s.dbgResult 3).wakeTo 0 3
  else if s.power = 2 && lv = 3 then (s.dbgResult 3).wakeTo 0 3
  else if s.power = 2 && lv = 2 then (s.dbgResult 3).wakeTo 1 2
  else s.dbgSet lv 0

/-- DBG_REQ (R71, R72): the power state answers as its table says, so that the write by itself wakes nothing. -/
def execDbgReq (p : Port) (level : BitVec 2) (s : State) : Out :=
  .next (if s.boot.off || !s.portIsUp p.val then s
    else
      let s1 := { s with active := s.now }
      if s1.holder = some p.val then s1.dbgRequest level.toNat else s1.denied p.val)

/-! Power (R74) -/

/-- STATE of PWR_CTL. -/
def State.setPower (s : State) (st : Nat) : State :=
  { s with regs := { s.regs with pwrCtl := BitVec.ofNat 64 (setBits s.regs.pwrCtl.toNat 4 2 st) } }

/-- REFUSED of PWR_CTL. -/
def State.pwrRefused (s : State) : State := { s with regs := s.regs.refuse 0x720 }

/-- PWR_TARGET_ACTIVE (R74): Retention ends; an entry to it that is still under way goes on (log entry 86: DESIGN CHOICE). -/
def execPwrTargetActive (p : Port) (s : State) : Out :=
  guarded p s State.pwrRefused fun s => if s.power = 2 then s.wakeTo 0 0 else s

/-- PWR_TARGET_RETENTION (R74): entry to Retention begins, unless a record is active, a checkpoint is busy or the debug level is 3. -/
def execPwrTargetRetention (p : Port) (s : State) : Out :=
  guarded p s State.pwrRefused fun s =>
    if (s.ctxs.any fun q => q.2.started != 0) || s.ckptBusy || s.dbgLevel == 3 then s.pwrRefused
    else if 2 ≤ s.power then s
    else { s with retaining := true, waking := s.waking.filter fun w => w.2 != 0 }

/-- PWR_TARGET_OFF (R74, R72): entering Off, unless a context is not free or the debug level is 3. -/
def execPwrTargetOff (p : Port) (s : State) : Out :=
  guarded p s State.pwrRefused fun s =>
    if (s.ctxs.any fun q => q.2.st != 0) || s.dbgLevel == 3 then s.pwrRefused else { s.setPower 3 with retaining := false, waking := none }

/-- RETENTION_ENTERED (R74, R72): an entry that no append aborted completes; with debug level 3 granted meanwhile the device stays Active. -/
def execRetentionEntered (s : State) : Out :=
  .next (if !s.retaining then s else if s.dbgLevel = 3 then { s with retaining := false } else { s.setPower 2 with retaining := false })

/-- IDLE_TIMEOUT (R74, R72): after 1 ms without work or management write. -/
def execIdleTimeout (s : State) : Out :=
  .next (if !s.boot.off && s.boot.next.isNone && s.power = 0 && !s.retaining && s.waking.isNone && s.dbgLevel ≠ 3 && !s.busy && decide (1000000 ≤ (s.now - s.active).toNat) then s.setPower 1 else s)

/-- WAKE_COMPLETE (R74, R71): the power state changes, and a debug request that was waking is granted. -/
def execWakeComplete (s : State) : Out :=
  .next (match s.waking with
    | none => s
    | some (t, lv) =>
      let s1 := { s.setPower (Nat.min t s.power) with waking := none, active := s.now }
      if lv = 0 then s1 else s1.dbgSet lv 0)

end Sys2Proof.Machine
end

