-- ==== Sys2Proof/Machine/Debug.lean ====
section
/-!
DEFINITION. Halts and dumps (R219 to R221), the host's side of the order log (R201, R202, R210), and the time base's sources (R211, R212).
-/

namespace Sys2Proof.Machine

/-! Halts and dumps (R219 to R221) -/

/-- CTX_HALT (R219, R72): no halt takes effect below debug level 2. -/
def execCtxHalt (p : Port) (c : Fin 256) (s : State) : Out :=
  ctxWrite p c.val s fun s => if s.dbgLevel < 2 then s else s.halt c.val 0 0

/-- CTX_RESUME (R220, R221): every halted agent resumes, and HALTED clears. -/
def execCtxResume (p : Port) (c : Fin 256) (s : State) : Out :=
  ctxWrite p c.val s fun s => (s.memberPkgs c.val).foldl (fun (s : State) p => s.sendTo p 1 [.resume s.pkg s.free c.val]) (s.resumeHere c.val)

/-- A pending register write undone, so that the register shows the value it held at the freeze (R221). -/
def Warp.undo (w : Warp) (p : Pend) : Warp :=
  match p.cls with
  | 0 => { w with lanes := w.lanes.zipIdx.map fun q => q.1.vset p.reg ((p.old.getD q.2 0).setWidth 32) }
  | 1 => w.sset p.reg ((p.old.getD 0 0).setWidth 64)
  | _ => w

/-- A dump entry of a pending write (R221). -/
def Pend.bytes (p : Pend) : List (BitVec 8) := toBytes 8 (p.cls * 2 ^ 61 + p.reg * 2 ^ 53 + p.pc.toNat / 8)

/-- The 32-lane mask of a predicate (R267). -/
def Warp.predMask (w : Warp) (n : Nat) : Nat := (maskOf ((List.range w.lanes.length).filter fun k => (w.lane k).pred (BitVec.ofNat 3 n))).toNat

/-- The scalar that a group at freeze or thaw is to receive; a halt finds its front past the instruction (R363). -/
def Warp.frzDest (w : Warp) : Option (BitVec 6) :=
  match w.wait with
  | some (.freeze d) => some d
  | some (.thaw d) => some d
  | _ => none

/-- The scalars that a group has still to receive from its outbox and from freeze or thaw, as pending writes (R221, R363, R389). -/
def State.latePend (s : State) (w : Warp) : List Pend :=
  ((s.ord w.agent).outbox.filterMap fun e => match e.kind with
    | .command _ _ _ d pc _ => some (⟨1, d.toNat, pc, []⟩ : Pend)
    | _ => none) ++ (w.frzDest.map fun d => (⟨1, d.toNat, w.frontPc, []⟩ : Pend)).toList

/-- The dump of one halted group (R221): its header, its pending writes, those still to come from its outbox last, its registers and lane states. The order of the fields is the rule's, their widths are the model's choice (log entry 19: DESIGN CHOICE). -/
def Warp.dump (w : Warp) (idx : Nat) (late : List Pend) : List (BitVec 8) :=
  let v := w.pend.reverse.foldl Warp.undo (if w.frzDest.isSome then w.advance w.front else w)
  let head := toBytes 8 idx ++ toBytes 8 w.agent.groupNo ++ toBytes 8 w.issues ++ toBytes 8 (w.pend ++ late).length ++ List.replicate 32 0
  head ++ ((w.pend ++ late).map Pend.bytes).flatten ++
    (v.lanes.map fun l => toBytes 8 (if l.st == .vacant then 0 else l.pc.toNat)).flatten ++ (v.lanes.map fun l => toBytes 4 l.ident.toNat).flatten ++
    toBytes 4 v.gang.toNat ++ toBytes 4 v.fstat.toNat ++ (v.sreg.map fun x => toBytes 8 x.toNat).flatten ++
    ((List.range 8).map fun n => toBytes 4 (v.predMask n)).flatten ++ (v.mreg.map fun x => toBytes 8 x.toNat).flatten ++
    ((List.range v.nregs).map fun n => (v.lanes.map fun l => toBytes 4 (l.vget n).toNat).flatten).flatten ++
    (v.lanes.map fun l => toBytes 1 l.st.code).flatten

/-- The trays of a context in ascending deckle index. -/
def State.traysIn (s : State) (c : Nat) : List Tray :=
  (s.trays.filter fun t => s.launchIn c t.launch).insertionSort fun a b => a.idx ≤ b.idx

/-- The dump of a context: its halted groups in ascending deckle index and group number (R221). -/
def State.dumpBytes (s : State) (c : Nat) : List (BitVec 8) :=
  ((s.traysIn c).map fun t => (((t.warps.filter fun w => w.halted && !w.gone).insertionSort fun a b => a.agent.groupNo ≤ b.agent.groupNo).map fun w =>
    w.dump t.idx (s.latePend w)).flatten).flatten

/-- CTX_DUMP (R221, R73): while HALTED is set, at debug level 2 or more, the dump goes to CTX_DMP, sealed in Confidential; a context without a key yields none and RESULT reads 1. A buffer
that is not backed gets none, and RESULT then stays, whether there is a key or not (log entry 82: DESIGN CHOICE). -/
def execCtxDump (p : Port) (c : Fin 256) (s : State) : Out :=
  ctxWrite p c.val s fun s =>
    let x := s.ctx c.val
    let a := bits x.dmp.toNat 6 46 * 64
    if !x.halted || s.dbgLevel < 2 || !s.backed a then s
    else
      let bs := s.dumpBytes c.val
      let done := fun (s : State) => s.modCtx c.val fun x => { x with dumped := true }
      if s.confidential then
        match s.sealKey c.val with
        | none => s.dbgResult 1
        | some k => let iv := s.takeIv; done (iv.2.devBytes a (sealed k iv.1 (bs.length + 28) bs))
      else done (s.devBytes a bs)

/-! The host's side of the order log (R201, R202, R210) -/

/-- CTX_LOGP written (R200, R201): refused with E_BUSY where it changes the field the device advances, or would leave more records than the ring holds. -/
def execCtxLogpWrite (p : Port) (c : Fin 256) (v : Word) (s : State) : Out :=
  ctxWrite p c.val s fun s =>
    let x := s.ctx c.val
    let prod := bits v.toNat 32 28
    let cons := bits v.toNat 0 28
    let m := s.ctxMode c.val
    if (m = 1 ∧ prod ≠ x.prod) ∨ (m = 2 ∧ cons ≠ x.cons) ∨ x.logCap < (prod + 2 ^ 28 - cons) % 2 ^ 28 then s.ctxErr c.val 3
    else
      let clr := fun (x : Context) => { x with
        prod := prod
        cons := cons
        late := x.late && !bit v.toNat 30
        diverged := x.diverged && !bit v.toNat 29 }
      (s.modCtx c.val clr).flushAll c.val

/-- LATE set, and the owning port interrupted (R202). -/
def State.late (s : State) (c : Nat) : State :=
  if (s.ctx c).late then s
  else
    let s1 := s.modCtx c fun x => { x with late := true }
    { s1 with signals := s1.signals ++ [.msix (s.irqPort c) c] }

/-- LOG_WAIT_TIMEOUT (R202): one wait of a context on its log has lasted 100 µs. -/
def execLogWaitTimeout (c : Fin 256) (s : State) : Out :=
  .next (if (s.ctx c.val).waits.any fun p => decide (100000 ≤ (s.now - p.2).toNat) && s.stillWaits c.val p.1 then s.late c.val else s)

/-- Whether a group's outbox waits on the log (R178, R197, R202): its oldest entry is a command, a freeze or a thaw that the log holds, and no write stands behind it. -/
def State.boxOnLog (s : State) (a : Agent) : Bool :=
  let box := (s.ord a).outbox
  let who := s.who a
  (match box.head?.map OutEntry.kind with
    | some (.command _ _ _ _ _ _) => s.gate who 5 0 == .wait
    | some (.freeze _ _ _ _) => s.gate who 6 0 == .wait
    | some (.thaw _ _) => s.gate who 6 0 == .wait
    | _ => false) && box.all fun e => match e.kind with
      | .write _ => false
      | _ => true

/-- Whether trying a waiting instruction again would leave its group waiting as before. -/
def State.triedInVain (s : State) (w : Warp) : Bool :=
  let again := fun (o : Out) => match o with
    | .next t => ((t.warp? w.agent).map fun v => v.wait == w.wait).getD false
    | .fault _ => true
    | .refused _ => true
  let s1 := { s with turn := some w.agent }
  match s.frontInstr w.agent with
  | some (.swait g d m) => again (execSwait g d m s1)
  | some (.qpush g d x) => again (execQpush g d x s1)
  | some (.qpop g d x c) => again (execQpop g d x c s1)
  | some (.waitseq g sc a b) => again (execWaitseq g sc a b s1)
  | some (.tilebarWait g d a b) => again (execTilebarWait g d a b s1)
  | some (.bar g pt sc) => again (execBar g pt sc s1)
  | _ => false

/-- Whether a group's waitseq looks at a completion word of its own context's chains (R210). -/
def State.ownWord (s : State) (w : Warp) : Bool :=
  match s.frontInstr w.agent with
  | some (.waitseq g _ a _) =>
    (match s.check w ((w.passing g).headD 0) .g .load false false (rdS w a).toNat 8 w.frontMask with
      | .ok (t, _) => ((s.ctx (s.ctxOf w.agent)).chains.any fun h => bits h.cmpl.toNat 3 49 != 0 && t.fab == some (bits h.cmpl.toNat 3 49 * 8))
      | .error _ => false)
  | _ => false

/-- Whether a group that waits in a compaction window waits on the log, or on other groups (R210): looking at the window again would change nothing but the note of the wait. -/
def State.stuckWindow (s : State) (l : Launch) (t : Tray) (h : Pc) : Bool :=
  match t.windows.find? fun (x : Window) => x.h == h && x.closed with
  | some x =>
    let ws := t.warps.filter fun w => x.groups.contains w.agent.groupNo
    (!regroups ws || ws.all fun w => (s.ord w.agent).outbox.isEmpty) && (match s.windowLog t x (regroups ws) with
      | .ok none => true
      | _ => false)
  | none => (t.windows.find? fun (x : Window) => x.h == h).any fun x => (s.closing l t x).isNone

/-- Whether a group, with its front Ready, waits in one of the two ways of R210. -/
def State.stuckWait (s : State) (w : Warp) : Bool :=
  let who := s.who w.agent
  match w.wait with
  | some (.log ty vl) => s.gate who ty vl == .wait
  | some (.window h) => (match s.launchOf w.agent, w.agent.launchId.bind fun l => s.tray? l w.agent.trayNo with
    | some l, some t => s.stuckWindow l t h
    | _, _ => false)
  | some (.latch _) => true
  | some .swait => s.triedInVain w
  | some .qpush => s.triedInVain w
  | some .qpop => s.triedInVain w
  | some .waitseq => s.ownWord w && s.triedInVain w
  | some (.bar _ _) => s.triedInVain w
  | some .pending => s.boxOnLog w.agent
  | some (.freeze _) => s.boxOnLog w.agent
  | some (.thaw _) => s.boxOnLog w.agent
  | some .drain => s.boxOnLog w.agent
  | some .move => s.gate (s.who (.group (w.agent.launchId.getD 0) w.agent.trayNo 0)) 0x15 0 == .wait
  | _ => false

/-- Whether nothing but a gathering or a return of its lanes can move a group (R141, R208): no lane Ready, held at its issue count, or its front waits at rbar. -/
def State.blocked (s : State) (w : Warp) : Bool := w.ready.isEmpty || s.readyHold w || (w.wait == some .rbar && w.held? && w.waitF == maskOf w.front)

/-- Whether the record at CONS is a GATHER or READY of a group that is carried out, or diverges, as the group stands (R143, R208). -/
def State.logMoves (s : State) (w : Warp) : Bool :=
  let who := s.who w.agent
  (match s.gate who 0x16 0 with
    | .replay _ rb => (List.range 32).all (fun k => !bit rb k || (w.lane k).gatherable) || (List.range 32).any fun k => bit rb k && ((w.lane k).st == .exited || (w.lane k).st == .vacant)
    | _ => false) ||
  (match s.gate who 0x18 0 with
    | .replay ra rb => decide (ra < w.issues) || (ra == w.issues && (List.range 32).all fun k => !bit rb k || (w.backs (bit rb 32)).contains k)
    | _ => false)

/-- Whether a group of a replaying launch waits in one of the ways of R210: its outbox is empty, no lane waits for a page, and its front, its returning lanes or its trapped lanes wait on the log. -/
def State.stuckWarp (s : State) (w : Warp) : Bool :=
  w.gone || (!w.evicted && !w.halted && ((s.ord w.agent).outbox.isEmpty || s.boxOnLog w.agent) && (w.lanes.all fun l => l.st != .parked || l.back.isSome) && w.attns.all (fun r => !r.runs || r.hold) &&
    (if s.blocked w then !s.logMoves w else s.stuckWait w))

/-- The groups and handler groups of a context's replaying launches. -/
def State.replayers (s : State) (c : Nat) : List Warp :=
  s.allWarps.filter fun w => ((s.launchOf w.agent).map fun l => l.ctx == c && l.f.mode == 2).getD false

/-- Whether a started engine command of a context waits on the log (R202): between its accesses, or with its completion. -/
def State.engOnLog (s : State) (c ch : Nat) (r : Rec) : Bool :=
  let who := s.who (.engine c ch r.seq)
  r.st == 1 && (if r.ending.isSome then s.gate who 0x17 0 == .wait else r.hold == some .log && s.gate who 2 0 == .wait)

/-- Whether every started engine command of a context waits on the log (R210). -/
def State.enginesStuck (s : State) (c : Nat) : Bool :=
  (List.range 64).all fun ch => launchChain ch || (s.chain c ch).recs.all fun r => r.st != 1 || s.engOnLog c ch r

/-- Whether the agent that the record at CONS names has ended without reaching that event (R210). -/
def State.namedEnded (s : State) (c : Nat) : Bool :=
  let w0 := s.logWord c 0
  let la := s.launches.find? fun l => l.ctx == c && l.f.mode == 2 && l.ltag == bits w0 36 16
  match bits w0 52 4 with
  | 0 => (match la with
    | none => true
    | some l => match s.warp? (.group l.id (bits w0 12 24) (bits w0 5 7)) with
      | some w => w.gone && (s.ord w.agent).outbox.isEmpty && !(l.replace.contains (bits w0 12 24))
      | none => !(l.replace.contains (bits w0 12 24)))
  | 1 => (match la with
    | none => true
    | some l => decide (bits w0 12 24 ≤ l.gathers) && (s.handlers.all fun h => h.launch != l.id || h.n != bits w0 12 24) &&
        (s.gathers.all fun g => g.launch != l.id || g.n != bits w0 12 24))
  | _ => false

/-- Whether the record at CONS is a host port's, or the PLACE of a launch record that has not started: the replay waits for the host, or for room (R210; log entry 44: DEDUCED). -/
def State.consOutside (s : State) (c : Nat) : Bool :=
  let w0 := s.logWord c 0
  let ch := bits (s.logWord c 3) 20 6
  let h := s.chain c ch
  bits w0 52 4 == 4 ||
  (bits w0 52 12 == 0x103 && bits w0 0 36 == 0 && bits (s.logWord c 3) 18 46 == bits (originWord 0 0 ch) 18 46 && (decide (h.seq < (s.logWord c 2)) || h.recs.any fun r => r.st == 0 && r.seq == s.logWord c 2))

/-- Whether a closed gathering of a context's launches goes on without the log: it has a slot, or one that another context's lanes hold (R143, R210). -/
def State.gatherGoes (s : State) (c : Nat) : Bool :=
  s.gathers.any fun g => g.closed && (match s.launch? g.launch with
    | some l => l.ctx == c && l.f.mode == 2 && ((s.startSlot l g).isSome || s.handlers.any fun h => h.core == g.core && ((s.launch? h.launch).map Launch.ctx) != some c)
    | none => false)

/-- Whether replay of a context is stuck, or can never reach the record at CONS (R210). -/
def State.stuck (s : State) (c : Nat) : Bool :=
  s.ctxMode c == 2 && (s.ctx c).logUsed != 0 &&
    (s.namedEnded c || (s.arriving.isEmpty && s.slide.isNone && !s.consOutside c && !s.gatherGoes c && (s.replayers c).any (fun w => !w.gone) && (s.replayers c).all s.stuckWarp && s.enginesStuck c))

/-- The launches of a context, in replay mode, that fit now and wait at the log for their placement, none of them named at CONS. -/
def State.placeWaits (s : State) (c : Nat) : List Want :=
  s.wants.filter fun w => w.ctx == c && w.f.mode == 2 && (s.fitNow holdsCore w).isSome && (match w.record.map Rec.seq, (w.launch.bind s.launch?).map Launch.seq with
    | some q, _ => s.placeHeld w.f c w.chain q
    | none, some q => s.placeHeld w.f c w.chain q
    | none, none => false)

/-- Whether nothing of a context but placements in replay mode is pending, each of which fits and waits at the log for a record that names none of them (R210): no launch of it runs, none of its commands has
started, and the record at CONS is neither a host port's nor the PLACE of a launch still to come. -/
def State.placeStuck (s : State) (c : Nat) : Bool :=
  let ws := s.wants.filter fun w => w.ctx == c && w.f.mode == 2
  s.working && !s.ckptBusy && s.slide.isNone && (s.ctx c).logUsed != 0 && !s.consOutside c && !ws.isEmpty && ws.length == (s.placeWaits c).length &&
    (s.launches.all fun l => l.ctx != c || l.phase == .done || ws.any fun w => w.launch == some l.id) &&
    (List.range 64).all fun ch => launchChain ch || (s.chain c ch).recs.all fun r => r.st != 1

/-- Placements that can never meet their records diverge (R210): each launch's record completes with replay divergence, and every replaying launch of the context ends so. -/
def State.placeDiverge (s : State) (c : Nat) : State :=
  ((s.placeWaits c).foldl (fun (s : State) w => match w.record with
    | some r => s.finish c w.chain r.seq (statusOf 0x10 0x38) none
    | none => s) s).divergeAll c

/-- The commands of a context that wait on the log complete with a cause (R210), and one with REL performs its release (R65). -/
def State.enginesEnd (s : State) (c cause : Nat) : State :=
  let bad := statusOf 0x10 cause
  (List.range 64).foldl (fun (s : State) ch => if launchChain ch then s
    else ((s.chain c ch).recs.filter (s.engOnLog c ch)).foldl (fun (s : State) r =>
      let a : Agent := .engine c ch r.seq
      let rl : Option RelId × State := if r.relFlag then let x := s.releaseNow a (scopeAt r.scope); (some x.1, x.2) else (none, s)
      (((rl.2.closeRegion a (rl.2.ord a).region).traceRecord c ch r bad).finish c ch r.seq bad rl.1).sweepDone) s) s

/-- The type of the event that a stuck group has reached (R210). -/
def Warp.logTypeAt (w : Warp) : Nat :=
  match w.wait with
  | some (.log ty _) => ty
  | some .swait => 3
  | some .qpush => 4
  | some .qpop => 4
  | some (.window _) => 0x13
  | some .move => 0x15
  | some (.freeze _) => 6
  | some (.thaw _) => 6
  | some .pending => 5
  | _ => 0

/-- The groups of a stuck context that wait on the log trap with replay divergence at their instructions (R210). -/
def State.frontsDiverge (s : State) (c : Nat) : State :=
  (s.replayers c).foldl (fun (s : State) w => if w.gone || w.logTypeAt = 0 then s else s.trapFront w (s.divergence c w.logTypeAt)) s

/-- A launch in replay of which nothing is to come but what a trap that the log leaves out (R3) keeps back: no lane is Ready or Parked, no write is pending, no handler runs or gathers. -/
def State.stranded (s : State) (l : Launch) : Bool :=
  l.f.mode == 2 && l.ran && l.ending.isNone && ((s.launchGroups l.id).any fun w => w.lanes.any fun x => x.ownCause.isSome) &&
    (s.launchGroups l.id).all (fun w => w.lanes.all (fun x => x.st != .ready && x.st != .parked) && (s.ord w.agent).outbox.isEmpty) && (s.gathers.all fun g => g.launch != l.id) && s.handlers.all fun h => h.launch != l.id

/-- A stranded launch waits for a record of its gathering, and, with none in the ring after 100 µs, ends with the cause of the trap (R3; log entry 87: DEDUCED). -/
def State.endStranded (s : State) (l : Launch) : State :=
  let who : Who := ⟨l.ctx, l.f.mode, l.ltag * 2 ^ 36⟩
  if (s.ctx l.ctx).waits.any fun p => p.1 == who.word0 0x16 0 && decide (100000 ≤ (s.now - p.2).toNat) then s.endLaunch l.id (s.divergedStatus l.id) else s.stalled who 0x16 0

/-- A poisoned record at CONS ends the replay of a context with its own cause (R3, R199; log entry 87: DEDUCED). -/
def State.logLost (s : State) (c : Nat) : State :=
  { s.enginesEnd c 0x14 with launches := s.launches.map fun (l : Launch) => if l.ctx == c && l.f.mode == 2 then { l with ending := some (l.ending.getD (statusOf 0x10 0x14)) } else l }

/-- REPLAY_STUCK (R210): every replaying launch of the context ends, its fronts that wait on the log trapped, and every command that waits on it; or, where none runs, the launches whose placements can
never meet the record at CONS; or the log itself is poisoned, or nothing follows a trap that it leaves out (R3). -/
def execReplayStuck (c : Fin 256) (s : State) : Out :=
  .next (if s.ctxMode c.val == 2 && (s.ctx c.val).logUsed != 0 && s.logBad c.val then s.logLost c.val
    else if s.stuck c.val then ((s.enginesEnd c.val 0x38).frontsDiverge c.val).divergeAll c.val
    else if s.placeStuck c.val then s.placeDiverge c.val
    else if (s.ctx c.val).logUsed = 0 then (s.launches.filter fun l => l.ctx == c.val && s.stranded l).foldl State.endStranded s
    else s)

/-! Time (R211, R212) -/

/-- TIME_CFG written (R211, R212): SRC 3 on a port that is not up is ignored. -/
def execTimeCfgWrite (p : Port) (v : Word) (s : State) : Out :=
  guarded p s id fun s =>
    if bits v.toNat 0 2 = 3 && s.linkState (bits v.toNat 12 4) ≠ 2 then s
    else { s with regs := { s.regs with timeCfg := regWrite s.regs.timeCfg v 0xF007 0x200 } }

/-- TIME_SOURCE_LOST (R211): LOST is set, LOCKED clears, and the count runs on. -/
def execTimeSourceLost (s : State) : Out :=
  .next { s with regs := { s.regs with timeCfg := (s.regs.timeCfg ||| 0x200) &&& ~~~ 0x100 } }

/-- PTP_SYNC_TICK (R212): a master sends Sync, and Follow_Up with the time it left, on every up Abior port but the one it is slave on. -/
def execPtpSyncTick (s : State) : Out :=
  .next (if bit s.regs.timeCfg.toNat 2 then
    ((List.range 16).filter s.masterOn).foldl (fun (s : State) l => (s.sendFlit l 5 [.sync]).sendFlit l 5 [.followUp s.now]) { s with syncAt := s.now }
  else s)

/-- PTM_MEASUREMENT (R211, R212): the offset of the time base from the host's time is kept. -/
def execPtmMeasurement (p : Port) (hostTime : BitVec 64) (s : State) : Out :=
  .next (if bits s.regs.timeCfg.toNat 0 2 ≠ p.val + 1 || !s.portIsUp p.val || s.boot.off then s
    else s.measured ((s.now.toNat : Int) - hostTime.toNat))

end Sys2Proof.Machine
end

