-- ==== Sys2Proof/Machine/Engines.lean ====
section
/-!
DEFINITION. The engines (R63, R64, R178, R388 to R396, R398): how a command starts, its accesses (R390) and their faults, the sync field (R391), and copy, stream, gather, select, coll and migrate
commands. A command runs as far as it can in one step, its writes drained at once (log entry 22: DESIGN CHOICE); what it waits for stands in its record.
-/

namespace Sys2Proof.Machine

/-! Accesses (R390) -/

/-- A running engine command: context, chain, number, the tray whose scratchpad it reaches (R390), its scope, its sync field's offset (R391), and whether it goes unchecked and unlogged, as an early
demotion does (R38). -/
structure Eng where
  c     : Nat
  ch    : Nat
  seq   : Nat
  tray  : Option (Nat × Nat)
  scope : Nat
  sync  : Option Nat
  quiet : Bool
deriving DecidableEq, Repr

/-- The command as an agent. -/
def Eng.agent (e : Eng) : Agent := .engine e.c e.ch e.seq

/-- The tray of the group that appended a record (R390): that of its first lane for a handler group. -/
def Rec.tray (r : Rec) : Option (Nat × Nat) := r.insts.findSome? fun i => match i with
  | .tray l t => some (l, t)
  | _ => none

/-- Why a command stops: it ends with a STATUS, in the state its accesses left, or it waits. -/
inductive EStop where
  | ends (st : Word32) (s : State)
  | hold (h : EHold)

/-- A fault of an access: CODE 0x0010 with its cause (R390). -/
def fault {α : Type} (cause : Nat) (s : State) : Except EStop α := .error (.ends (statusOf 0x10 cause) s)

/-- A record that breaks a limit (R64). -/
def badRecord {α : Type} (s : State) : Except EStop α := .error (.ends (statusOf 1 0) s)

/-- Where an access falls: how its words are named, its first byte, its fabric address, and how R148, R195 and R206 treat it. -/
structure EAt where
  name   : Nat → Loc
  off    : Nat
  fab    : Option Nat
  racy   : Bool
  nolog  : Bool
  frozen : Bool

/-- Whether a space code names a space that a record may use (R390). -/
def Eng.spaceOk (e : Eng) (sp : Nat) : Bool := sp == 3 || sp == 4 || (sp == 1 && e.tray.isSome)

/-- An access through a range: its permissions, frozen words, the queue bytes of a pipeline (R162, R195, R108). -/
def rangeAt (s : State) (r : Range) (fa n : Nat) (rd wr : Bool) : Except EStop EAt :=
  let fz := s.frozenAny fa n
  if (rd && !r.rd) || (wr && !r.wr) then fault 0x11 s
  else if wr && fz then fault 0x12 s
  else if s.inQueue fa n then fault 0x23 s
  else .ok ⟨Loc.fab, fa, some fa, r.racy, r.nolog, fz⟩

/-- Where n bytes at an address of a space fall, or the fault (R390). -/
def engAt (s : State) (e : Eng) (sp a n : Nat) (rd wr : Bool) : Except EStop EAt :=
  if sp = 1 then match e.tray with
    | none => badRecord s
    | some (l, t) => match s.launch? l, s.tray? l t with
      | some la, some tr =>
        if la.f.spBytes < a + n then fault 0x20 s
        else if la.phase == .sliding || (!tr.resident && tr.warps.any fun w => w.evicted && !w.gone) then .error (.hold (.tray l t))
        else .ok ⟨Loc.sp l t, a, none, la.f.racy, la.f.racy, false⟩
      | _, _ => fault 0x20 s
  else if sp = 3 then
    let fa := s.pkg * 2 ^ 46 + shelfBase + a
    if shelfSize < a + n then fault 0x23 s
    else match (s.ctx e.c).fabRange fa n with
      | none => fault 0x23 s
      | some r => rangeAt s r fa n rd wr
  else
    if 2 ^ 56 ≤ a then fault 0x10 s
    else match (s.ctx e.c).range a n with
      | none => fault 0x10 s
      | some r => rangeAt s r (r.fabric a) n rd wr

/-- The words that n bytes from an offset touch, with the bytes of each. -/
def byteMasks (mk : Nat → Loc) (off n : Nat) : List (Loc × BitVec 4) :=
  (List.range ((off + n + 3) / 4 - off / 4)).map fun j =>
    let w := off / 4 + j
    (mk w, BitVec.ofNat 4 (2 ^ (Nat.min (off + n) (4 * w + 4) - 4 * w) - 2 ^ (off - 4 * w)))

/-- The pieces of a write of n bytes of a value at an offset (R171). -/
def bytePieces (mk : Nat → Loc) (off n v : Nat) : List Piece :=
  (byteMasks mk off n).zipIdx.map fun p => ⟨p.1.1, p.1.2, BitVec.ofNat 32 (bits (bits v 0 (8 * n) * 2 ^ (8 * (off % 4))) (32 * p.2) 32)⟩

/-- The checks of R181 for the words of an access, made as one region of the command (R179, R390). -/
def Eng.tracked (e : Eng) (s : State) (x : EAt) (n : Nat) (wr plain : Bool) : Except EStop State :=
  if e.quiet || x.racy || x.frozen then .ok s
  else match s.track e.agent ((byteMasks x.name x.off n).map fun p => ⟨p.1, p.2, wr, plain, e.agent, (s.ord e.agent).region, 0, 0, 0, none⟩) x.off with
    | .ok s1 => .ok s1
    | .error t => fault t.cause s

/-- What the memory side says to a read or an atomic with a result (R167, R390): an unbacked address has a status of its own. -/
def sideOk (s : State) (fa : Option Nat) : Except EStop Unit :=
  match fa with
  | none => .ok ()
  | some fa =>
    if !s.backed fa then .error (.ends (statusOf 3 0) s)
    else match s.side fa with
      | .served => .ok ()
      | .fails c => fault c (s.walkFor fa)
      | .absent _ => .error (.hold (.page fa))
      | .hold _ => .error (.hold (.page fa))

/-- A read of words by the command: the value of all of them, and whether one was poison (R174, R199). -/
def readMasks (a : Agent) (plain frozen racy : Bool) : List (Loc × BitVec 4) → State → Nat × Bool × State
  | [], s => (0, false, s)
  | p :: ps, s =>
    let x := s.readWord a p.1 p.2 plain frozen racy
    let y := readMasks a plain frozen racy ps x.2
    (x.1.val.toNat % 2 ^ 32 + 2 ^ 32 * y.1, x.1.ver.poison || y.2.1, y.2.2)

/-- The pieces of n bytes at an address that cross no 4 KiB boundary: address and length (R391). -/
def cuts (a n : Nat) : List (Nat × Nat) :=
  (List.range ((a + n + 4095) / 4096 - a / 4096)).map fun j =>
    let lo := Nat.max a ((a / 4096 + j) * 4096)
    (lo, Nat.min (a + n) ((a / 4096 + j + 1) * 4096) - lo)

/-- The walks of the lines of n bytes at their homes (R165). -/
def State.walkRun (s : State) (fab : Option Nat) (n : Nat) : State :=
  match fab with
  | none => s
  | some fa => if s.translated fa then (List.range ((fa + n + 127) / 128 - fa / 128)).foldl (fun (s : State) j => s.walkFor ((fa / 128 + j) * 128)) s else s

/-- A plain read within 4 KiB (R178). -/
def engRead1 (e : Eng) (sp a n : Nat) (s : State) : Except EStop (Nat × State) := do
  let x ← engAt s e sp a n true false
  let s1 ← e.tracked s x n false true
  sideOk s1 x.fab
  let r := readMasks e.agent true x.frozen x.racy (byteMasks x.name x.off n) (s1.walkRun x.fab n)
  if r.2.1 then fault 0x14 r.2.2 else .ok (bits r.1 (8 * (x.off % 4)) (8 * n), r.2.2)

/-- A plain read of n bytes, piece by piece. -/
def engRead (e : Eng) (sp a n : Nat) (s : State) : Except EStop (Nat × State) :=
  (cuts a n).foldlM (fun (r : Nat × State) p => do
    let x ← engRead1 e sp p.1 p.2 r.2
    .ok (r.1 + x.1 * 2 ^ (8 * (p.1 - a)), x.2)) (0, s)

/-- A write made the newest version of its words, or what it meets (R167, R195, R390, R38): an unbacked address has a status of its own, and a frozen word refuses the write. -/
def engDrain (e : Eng) (w : WriteOp) (pub : Pub) (s : State) : Except EStop State :=
  let far := w.pieces.any fun p => match p.loc with
    | .fab x => !s.backed (4 * x)
    | _ => false
  let frozen := w.pieces.any fun p => match p.loc with
    | .fab x => s.frozenAny (4 * x) 4
    | _ => false
  if frozen then fault 0x12 s
  else match s.writeSide w with
  | .waits p => .error (.hold (.page (w.addrOn p)))
  | .fails c => if far then .error (.ends (statusOf 3 0) s) else fault c (s.walkLines w)
  | .noRoom => let x := s.lackFor w; .error (.hold (.room x.1 x.2.1 x.2.2))
  | .ready s1 => .ok ((s1.crossWrite w).applyAt e.agent w pub none)

/-- The checks of the arrival of a write at the sync word, which writes all 16 bytes for race detection (R155, R156). -/
def engArrive (e : Eng) (s : State) : Except EStop State :=
  match e.sync with
  | some y => do
    let z ← engAt s e 1 y 16 false false
    e.tracked s z 16 true false
  | none => .ok s

/-- A write of n bytes, and its arrival at the sync word where it lands in the scratchpad (R155, R391). -/
def engWrite (e : Eng) (sp a n v : Nat) (s : State) : Except EStop State := do
  let x ← engAt s e sp a n false true
  let s0 ← engArrive e s
  let s1 ← e.tracked s0 x n true true
  let s2 ← engDrain e ⟨bytePieces x.name x.off n v, 0, 0, 0, BitVec.ofNat 64 a⟩ .none s1
  match e.sync, e.tray with
  | some y, some (l, t) =>
    let r := s2.releaseNow e.agent (scopeAt e.scope)
    .ok { r.2 with arriving := r.2.arriving ++ [⟨l, t, y, n, r.1⟩] }
  | _, _ => .ok s2

/-! A command as a run of writes -/

/-- A run under way: the state, the writes passed, and why it stopped. -/
structure ERun where
  s    : State
  n    : Nat
  stop : Option EStop

/-- The next write of a run, which is skipped if it stands already: the first p do. -/
def ERun.next (p : Nat) (r : ERun) (f : State → Except EStop State) : ERun :=
  match r.stop with
  | some _ => r
  | none =>
    if r.n < p then { r with n := r.n + 1 }
    else match f r.s with
      | .ok t => ⟨t, r.n + 1, none⟩
      | .error (.ends st t) => ⟨t, r.n, some (.ends st t)⟩
      | .error (.hold h) => { r with stop := some (.hold h) }

/-- The record of a command changed by f. -/
def State.modCmd (s : State) (e : Eng) (f : Rec → Rec) : State := s.modRec e.c e.ch e.seq f

/-- What a command has read once, kept. -/
def State.keep (s : State) (e : Eng) (o : Option Once) : State := s.modCmd e fun x => { x with once := o }

/-- What a command keeps of what it read once. -/
def State.kept (s : State) (e : Eng) : Option Once := (s.rec? e.c e.ch e.seq).bind Rec.once

/-- The wait of a command for the chunks of a sheet recorded once (R38), or over. -/
def State.cmdRoom (s : State) (e : Eng) (h : Option EHold) : State :=
  let old := s.roomWaits.find? fun r => r.agent == e.agent && r.op.isNone
  let rest := s.roomWaits.filter fun r => !(r.agent == e.agent && r.op.isNone)
  match h with
  | some (.room c sh need) => { s with roomWaits := rest ++ [⟨c, sh, need, ((old.filter fun r => r.sheet == sh).map RoomWait.since).getD s.now, e.agent, none⟩] }
  | _ => { s with roomWaits := rest }

/-- A run over: the command has ended, with what status, or waits (R63, R390). -/
def ERun.over (e : Eng) (r : ERun) : State :=
  match r.stop with
  | none => ((r.s.modCmd e fun x => { x with prog := r.n, hold := none }).cmdRoom e none).endCommand e.c e.ch e.seq (statusOf 0 0)
  | some (.ends st _) => ((r.s.modCmd e fun x => { x with prog := r.n, hold := none }).cmdRoom e none).endCommand e.c e.ch e.seq st
  | some (.hold .log) => ((r.s.modCmd e fun x => { x with prog := r.n, hold := some .log }).cmdRoom e none).stalled (r.s.who e.agent) 2 0
  | some (.hold (.page fa)) => ((r.s.touch fa).modCmd e fun x => { x with prog := r.n, hold := some (.page fa) }).cmdRoom e none
  | some (.hold h) => (r.s.modCmd e fun x => { x with prog := r.n, hold := some h }).cmdRoom e (some h)

/-! Starting (R63, R64, R178, R388) -/

/-- The engine that runs a KIND (R388). -/
def engineOf (kind : Nat) : Nat := if kind = 2 ∨ kind = 3 then 1 else if 4 ≤ kind ∧ kind ≤ 8 then kind - 2 else 0

/-- Whether what a command waits for has come about. -/
def State.holdOver (s : State) (e : Eng) (h : EHold) : Bool :=
  match h with
  | .page fa => !s.held fa && s.pageState fa != .absent
  | .room c _ need => decide (need ≤ s.freeChunks c)
  | .tray l t => !((s.launch? l).any fun x => x.phase == .sliding) && (s.tray? l t).any fun t => t.resident || t.warps.all Warp.gone
  | .list fa => !s.listFull fa
  | .log => s.gate (s.who e.agent) 2 0 != .wait

/-- The command of a record. -/
def Rec.eng (r : Rec) (c ch : Nat) (sync : Bool) : Eng :=
  ⟨c, ch, r.seq, r.tray, r.scope, if sync && bit (r.word 6) 32 then some (bits (r.word 6) 0 32) else none, false⟩

/-- The header limits of an engine record (R59, R64, R178). -/
def Rec.headerOk (r : Rec) : Bool :=
  bits (r.word 0) 14 18 == 0 && decide (r.scope ≤ 5) && (4 ≤ r.scope || (match r.appender with
    | some (.port _) => false
    | some _ => true
    | none => false))

/-- The limits of a sync field, by the destination's space (R391, R155). -/
def syncOk (w dsp : Nat) : Bool := bits w 33 31 == 0 && (!bit w 32 || (dsp == 1 && w % 16 == 0))

/-- A command starts (R63, R178): STATUS, its mode in the order log (R438), and its start view: the append's release where ACQ is set. -/
def State.startCmd (s : State) (c ch : Nat) (r : Rec) : State :=
  let a : Agent := .engine c ch r.seq
  let view := match r.acq, r.rel.bind s.rel? with
    | true, some x => union [x.id] x.view
    | _, _ => []
  ((s.modRec c ch r.seq fun x => { x with body := r.body, mode := s.startMode c r }).startRec c ch r).setOrd a { Ord.clear with view := view }

/-- An engine's step for a KIND on a chain: a waiting command goes on once it can, whatever engine the chain now names (R61; a waiting member of a collective goes on with its collective), or the oldest
unstarted record of a chain of its engine starts and runs; first says that the step also ends the records of a KIND that the engine does not run. A record with a poisoned word fails with CAUSE 0x14 (R199). -/
def engineStep (s : State) (c ch kind : Nat) (first sync : Bool) (ok : Eng → Rec → Bool) (run : Eng → Rec → State → State) : State :=
  let h := s.chain c ch
  if !s.working || launchChain ch then s
  else match h.recs.find? fun r => kind != 6 && r.st == 1 && r.ending.isNone && r.kind == kind && (r.hold.map (s.holdOver (r.eng c ch sync))).getD false with
    | some r => run (r.eng c ch sync) r s
    | none => match if h.engine = engineOf kind then s.nextRec c ch else none with
      | none => s
      | some r0 =>
        let r := { r0 with body := s.recWords r0.addr }
        let e := r.eng c ch sync
        let read := s.modRec c ch r.seq fun x => { x with body := r.body, mode := s.startMode c r }
        if s.recBad r.addr then read.engineDone c ch r (statusOf 0x10 0x14) false
        else if r.kind = kind then
          (if r.headerOk && ok e r then run e r (s.startCmd c ch r)
           else read.engineDone c ch r (statusOf 1 0) false)
        else if first && engineOf r.kind != engineOf kind then read.engineDone c ch r (statusOf 1 0) false
        else s

/-! copy (R392) -/

/-- A word as an address. -/
def addr64 (z : Int) : Nat := wrap 64 z

/-- Row r from an address with a signed stride. -/
def rowAddr (a stride r : Nat) : Nat := addr64 ((a : Int) + signed 32 stride * r)

/-- The fabric or scratchpad bytes that n bytes at an address of a space stand for, range by range: the space, first byte, length. -/
def spans (s : State) (e : Eng) (sp a n : Nat) : List (Nat × Nat × Nat) :=
  (cuts a n).filterMap fun p => match engAt s e sp p.1 p.2 false false with
    | .ok x => some (if sp = 1 then 1 else 4, x.off, p.2)
    | .error _ => none

/-- Whether two spans share a byte. -/
def spansMeet (x y : Nat × Nat × Nat) : Bool := x.1 == y.1 && decide (x.2.1 < y.2.1 + y.2.2) && decide (y.2.1 < x.2.1 + x.2.2)

/-- The rows of a copy: source and destination addresses. -/
def Rec.rows (r : Rec) : List (Nat × Nat) :=
  (List.range (bits (r.word 3) 32 32)).map fun k => (rowAddr (r.word 1) (bits (r.word 4) 0 32) k, rowAddr (r.word 2) (bits (r.word 4) 32 32) k)

/-- Whether a copy's source and destination bytes overlap after translation. -/
def copyOverlaps (s : State) (e : Eng) (r : Rec) : Bool :=
  let n := bits (r.word 3) 0 32
  let src := (r.rows.map fun p => spans s e (bits (r.word 5) 0 4) p.1 n).flatten
  let dst := (r.rows.map fun p => spans s e (bits (r.word 5) 4 4) p.2 n).flatten
  src.any fun x => dst.any fun y => spansMeet x y

/-- The limits of a copy record. -/
def copyOk (e : Eng) (r : Rec) : Bool :=
  bits (r.word 3) 0 32 != 0 && bits (r.word 3) 32 32 != 0 && bits (r.word 5) 8 56 == 0 && e.spaceOk (bits (r.word 5) 0 4) && e.spaceOk (bits (r.word 5) 4 4) &&
    syncOk (r.word 6) (bits (r.word 5) 4 4)

/-- A copy runs: row after row, in writes of at most 4 KiB (R391). -/
def copyRun (e : Eng) (r : Rec) (s : State) : State :=
  if r.prog = 0 && copyOverlaps s e r then s.endCommand e.c e.ch e.seq (statusOf 1 0)
  else
    ((r.rows.foldl (fun (x : ERun) p => (cuts p.2 (bits (r.word 3) 0 32)).foldl (fun (x : ERun) q => x.next r.prog fun s => do
      let v ← engRead e (bits (r.word 5) 0 4) (addr64 ((p.1 : Int) + (q.1 - p.2 : Nat))) q.2 s
      engWrite e (bits (r.word 5) 4 4) q.1 q.2 v.1 v.2) x) (⟨s, 0, none⟩ : ERun))).over e

/-- COPY_RECORD (R392). -/
def execCopyRecord (c : Fin 256) (ch : Fin 64) (s : State) : Out := .next (engineStep s c.val ch.val 2 true true copyOk copyRun)

/-! stream (R393) -/

/-- The operations of a stream command: the entries before the first END, at most eight. -/
def streamOps (v : Nat) : List Nat := ((List.range 8).map fun j => bits v (64 * j) 64).takeWhile fun x => bits x 0 8 != 0

/-- Whether an operation list holds no reserved operation or bit, up to its END, and names SRC2 only for ADD2. -/
def streamOpsOk (v src2 : Nat) : Bool :=
  let ops := streamOps v
  let ends := if ops.length < 8 then [bits v (64 * ops.length) 64] else []
  ((ops ++ ends).all fun x => decide (bits x 0 8 ≤ 10) && bits x 8 24 == 0) && (src2 == 0 || ops.any fun x => bits x 0 8 == 10)

/-- One operation on x, with the second source's element y2. -/
def streamOp (op : Nat) (y2 x : Nat) : Nat :=
  let y := bits op 32 32
  match bits op 0 8 with
  | 1 => (FFmt.f32.add .rne x y).1
  | 2 => (FFmt.f32.mul .rne x y).1
  | 3 => (FFmt.f32.minmax false false x y).1
  | 4 => (FFmt.f32.minmax true false x y).1
  | 5 => (SFun.exp2.eval .rne x).1
  | 6 => (SFun.rcp.eval .rne x).1
  | 7 => (SFun.tanh.eval .rne x).1
  | 8 => (SFun.sigmoid.eval .rne x).1
  | 9 => (SFun.sqrt.eval .rne x).1
  | 10 => (FFmt.f32.add .rne x y2).1
  | _ => x

/-- One element through the chain: widened, the operations, converted to OTYPE. -/
def streamElem (it ot : FFmt) (ops : List Nat) (x y : Nat) : Nat :=
  (cvtFF .f32 ot false .rne (ops.foldl (fun x op => streamOp op (cvtFF it .f32 false .rne y).1 x) (cvtFF it .f32 false .rne x).1)).1

/-- Bytes of an element of a format. -/
def FFmt.bytes (f : FFmt) : Nat := (f.eb + f.fb + 1) / 8

/-- The input format of a stream command: f16, bf16 or f32. -/
def streamIn (code : Nat) : Option FFmt := if code = 8 then some .f16 else if code = 9 then some .bf16 else if code = 10 then some .f32 else none
/-- The output format: those, or e4m3. -/
def streamOut (code : Nat) : Option FFmt := if code = 12 then some .e4m3 else streamIn code

/-- The limits of a stream record; those of its list are checked at its start. -/
def streamOk (e : Eng) (r : Rec) : Bool :=
  bits (r.word 3) 0 32 != 0 && (streamIn (bits (r.word 3) 32 5)).isSome && (streamOut (bits (r.word 3) 37 5)).isSome && bits (r.word 3) 50 14 == 0 &&
    e.spaceOk (bits (r.word 3) 42 4) && e.spaceOk (bits (r.word 3) 46 4) && r.word 4 % 64 == 0 && syncOk (r.word 6) (bits (r.word 3) 46 4)

/-- The output bytes lo to lo + n of a stream command: the elements they belong to, read and worked. -/
def streamBytes (e : Eng) (r : Rec) (it ot : FFmt) (ops : List Nat) (lo n : Nat) (s : State) : Except EStop (Nat × State) := do
  let k := lo / FFmt.bytes ot
  let m := (lo + n + FFmt.bytes ot - 1) / FFmt.bytes ot - k
  let iw := FFmt.bytes it
  let x ← engRead e (bits (r.word 3) 42 4) (addr64 (r.word 1 + iw * k : Nat)) (iw * m) s
  let y ← if ops.any fun o => bits o 0 8 == 10 then engRead e (bits (r.word 3) 42 4) (addr64 (r.word 5 + iw * k : Nat)) (iw * m) x.2 else .ok (0, x.2)
  let v := (List.range m).foldl (fun v j => v + streamElem it ot ops (bits x.1 (8 * iw * j) (8 * iw)) (bits y.1 (8 * iw * j) (8 * iw)) * 2 ^ (8 * FFmt.bytes ot * j)) 0
  .ok (bits v (8 * (lo - FFmt.bytes ot * k)) (8 * n), y.2)

/-- The operation list of a stream: read once, at its start, and kept (R393). -/
def streamList (e : Eng) (r : Rec) (s : State) : Except EStop (Nat × State) := match r.once with
  | some (.ops v) => .ok (v, s)
  | _ => do
    let x ← engRead e 4 (r.word 4) 64 s
    .ok (x.1, x.2.keep e (some (.ops x.1)))

/-- A stream runs: its list is read at its start, then the elements, in writes of at most 4 KiB. -/
def streamRun (e : Eng) (r : Rec) (s : State) : State :=
  match streamIn (bits (r.word 3) 32 5), streamOut (bits (r.word 3) 37 5) with
  | some it, some ot =>
    (match streamList e r s with
    | .error x => ERun.over e ⟨s, r.prog, some x⟩
    | .ok (v, s1) =>
      if !streamOpsOk v (r.word 5) then s1.endCommand e.c e.ch e.seq (statusOf 1 0)
      else ((cuts (r.word 2) (bits (r.word 3) 0 32 * FFmt.bytes ot)).foldl (fun (x : ERun) q => x.next r.prog fun s => do
        let y ← streamBytes e r it ot (streamOps v) (q.1 - r.word 2) q.2 s
        engWrite e (bits (r.word 3) 46 4) q.1 q.2 y.1 y.2) (⟨s1, 0, none⟩ : ERun)).over e)
  | _, _ => s

/-- STREAM_RECORD (R393). -/
def execStreamRecord (c : Fin 256) (ch : Fin 64) (s : State) : Out := .next (engineStep s c.val ch.val 3 false true streamOk streamRun)

/-! gather (R394) -/

/-- The limits of a gather record. -/
def gatherOk (e : Eng) (r : Rec) : Bool :=
  r.word 3 % 4 == 0 && bits (r.word 4) 0 32 != 0 && decide (bits (r.word 4) 0 32 ≤ 65536) && bits (r.word 4) 32 32 != 0 && decide (bits (r.word 4) 32 32 ≤ 2 ^ 20) &&
    bits (r.word 5) 44 20 == 0 && e.spaceOk (bits (r.word 5) 32 4) && e.spaceOk (bits (r.word 5) 36 4) && e.spaceOk (bits (r.word 5) 40 4) &&
    syncOk (r.word 6) (bits (r.word 5) 36 4)

/-- The index of row i of a gather, read once and kept for the whole row (R394). -/
def gatherIndex (e : Eng) (r : Rec) (i : Nat) (s : State) : Except EStop State := do
  let k ← engRead e (bits (r.word 5) 40 4) (addr64 (r.word 3 + 4 * i : Nat)) 4 s
  .ok (k.2.keep e (some (.row k.1)))

/-- The bytes from o on of a row, n of them at d: those of the row that the index kept names, or zeros for the index of all ones (R394). -/
def gatherPiece (e : Eng) (r : Rec) (d o n : Nat) (s : State) : Except EStop State := match s.kept e with
  | some (.row k) => do
    let v ← if k = 0xFFFFFFFF then .ok (0, s) else engRead e (bits (r.word 5) 32 4) (addr64 (r.word 1 + k * bits (r.word 5) 0 32 + o : Nat)) n s
    engWrite e (bits (r.word 5) 36 4) d n v.1 v.2
  | _ => .ok s

/-- A gather runs: for each row its index, then its bytes, in writes of at most 4 KiB. -/
def gatherRun (e : Eng) (r : Rec) (s : State) : State :=
  let n := bits (r.word 4) 0 32
  ((List.range (bits (r.word 4) 32 32)).foldl (fun (x : ERun) i =>
    let d := r.word 2 + n * i
    (cuts d n).foldl (fun (x : ERun) q => x.next r.prog (gatherPiece e r (addr64 q.1) (q.1 - d) q.2)) (x.next r.prog (gatherIndex e r i))) (⟨s, 0, none⟩ : ERun)).over e

/-- GATHER_RECORD (R394). -/
def execGatherRecord (c : Fin 256) (ch : Fin 64) (s : State) : Out := .next (engineStep s c.val ch.val 4 true true gatherOk gatherRun)

/-! select (R250, R251, R395) -/

/-- D of a command (R395, R397). -/
def dimOf (f : Nat) : Nat := 32 * (f + 1)

/-- The limits of a select record. -/
def selectOk (e : Eng) (r : Rec) : Bool :=
  r.word 1 % 4 == 0 && r.word 2 % 32 == 0 && r.word 3 % 4 == 0 && decide (1 ≤ bits (r.word 4) 48 5) && decide (bits (r.word 4) 48 5 ≤ 16) && bits (r.word 4) 53 3 != 0 &&
    bits (r.word 4) 60 4 == 0 && r.word 5 % 64 == 0 && e.spaceOk (bits (r.word 4) 56 4) && syncOk (r.word 6) (bits (r.word 4) 56 4)

/-- Whether a product of two values has no exact value: a NaN operand, or zero times infinity. -/
def noProduct (a b : FV) : Bool := a.isNan || b.isNan || zeroTimesInf a b

/-- Whether a product is below another, exactly, infinities included. -/
def prodLt (a b c d : FV) : Bool :=
  let inf := fun (x y : FV) => if infProd x y then (if xor x.neg y.neg then (-1 : Int) else 1) else 0
  if inf a b = inf c d then (if inf a b = 0 then (a.dy.mul b.dy).lt (c.dy.mul d.dy) else false) else decide (inf a b < inf c d)

/-- The larger of q × hi and q × lo, as the pair of its operands; one without an exact value is kept (R250). -/
def maxProduct (q hi lo : FV) : FV × FV :=
  if noProduct q hi then (q, hi) else if noProduct q lo then (q, lo) else if prodLt q hi q lo then (q, lo) else (q, hi)

/-- The score of a page from the query and its summary: blocks of 16 channels from +0 (R250). -/
def pageScore (dim q summ : Nat) : Nat :=
  let el := fun (v i : Nat) => FFmt.bf16.dec (bits v (16 * i) 16)
  let blocks := (List.range (dim / 16)).map fun b =>
    (⟨(List.range 16).map fun j => let i := 16 * b + j; maxProduct (el q i) (el summ i) (el summ (dim + i)), some Dy.one, some Dy.one⟩ : MBlock)
  ((FFmt.f32.accBlocks 0 (some 0) blocks).1).getD 0

/-- Whether a descriptor's page may be listed, its score aside (R250). -/
def descListed (d : Nat) : Bool := descKT d != 0 && descSurv d != 0 && !bit d 232 && !bit d 235

/-- A page inserted among those listed: pinned ones first by index, then by descending score, then by index (R251); entries (pinned, score, index), the pages coming in ascending index. -/
def rankInsert (p : Bool × Nat × Nat) : List (Bool × Nat × Nat) → List (Bool × Nat × Nat)
  | [] => [p]
  | q :: r =>
    let before := if p.1 then !q.1 else !q.1 && FV.lt false (FFmt.f32.dec q.2.1) (FFmt.f32.dec p.2.1)
    if before then p :: q :: r else q :: rankInsert p r

/-- The 128 bytes of a selection: indices, then scores (R251). -/
def selectOut (k : Nat) (l : List (Bool × Nat × Nat)) : Nat :=
  (List.range 16).foldl (fun v i =>
    let e : Nat × Nat := match (l.take k)[i]? with
      | some p => (p.2.2 % 2 ^ 32, if p.1 then 0xFF800000 else p.2.1)
      | none => (0xFFFFFFFF, 0)
    v + e.1 * 2 ^ (32 * i) + e.2 * 2 ^ (512 + 32 * i)) 0

/-- One page looked at: its descriptor, and its summary unless it is pinned. -/
def selectPage (e : Eng) (r : Rec) (dim q j : Nat) (l : List (Bool × Nat × Nat)) (s : State) : Except EStop (List (Bool × Nat × Nat) × State) := do
  let d ← engRead e 4 (addr64 (r.word 2 + 32 * j : Nat)) 32 s
  if !descWf d.1 then fault 0x48 d.2
  else if !descListed d.1 then .ok (l, d.2)
  else if bit d.1 233 then .ok (rankInsert (true, 0, j) l, d.2)
  else
    let v ← engRead e 4 (addr64 (r.word 3 + 4 * dim * j : Nat)) (4 * dim) d.2
    let x := pageScore dim q v.1
    .ok (if (FFmt.f32.dec x).isNan then l else rankInsert (false, x, j) l, v.2)

/-- The selection of a command (R250, R251). -/
def selectList (e : Eng) (r : Rec) (s : State) : Except EStop (List (Bool × Nat × Nat) × State) := do
  let dim := dimOf (bits (r.word 4) 53 3)
  let q ← engRead e 4 (r.word 1) (2 * dim) s
  (List.range (bits (r.word 4) 32 16 + 1)).foldlM (fun (x : List (Bool × Nat × Nat) × State) i => selectPage e r dim q.1 (bits (r.word 4) 0 32 + i) x.1 x.2) ([], q.2)

/-- A select runs, and its result lands as one write. -/
def selectRun (e : Eng) (r : Rec) (s : State) : State :=
  (ERun.next 0 ⟨s, 0, none⟩ fun s => do
    let l ← selectList e r s
    engWrite e (bits (r.word 4) 56 4) (r.word 5) 128 (selectOut (bits (r.word 4) 48 5) l.1) l.2).over e

/-- SELECT_RECORD (R395). -/
def execSelectRecord (c : Fin 256) (ch : Fin 64) (s : State) : Out := .next (engineStep s c.val ch.val 5 true true selectOk selectRun)

/-! coll (R396) -/

/-- The types of a collective: i32, i64, n32, n64, bf16, f32, f64. -/
def collTy (code : Nat) : Option Ty :=
  if code = 2 ∨ code = 3 ∨ code = 6 ∨ code = 7 ∨ code = 9 ∨ code = 10 ∨ code = 11 then some (Ty.ofCode code) else none

/-- The limits of a coll record. -/
def collOk (e : Eng) (r : Rec) : Bool :=
  bits (r.word 3) 0 32 != 0 && (collTy (bits (r.word 3) 32 5)).isSome && decide (bits (r.word 3) 37 3 ≤ 3) && e.spaceOk (bits (r.word 3) 40 4) && e.spaceOk (bits (r.word 3) 44 4) &&
    decide (bits (r.word 3) 48 8 ≤ bits (r.word 3) 56 8) && bits (r.word 4) 32 32 == 0 && r.word 5 == 0 && syncOk (r.word 6) (bits (r.word 3) 44 4)

/-- A member starts: it joins and the other packages hear of it, or it ends alone with bad record. -/
def collStart (e : Eng) (r : Rec) (s : State) : State :=
  let id := bits (r.word 4) 0 32
  let rank := bits (r.word 3) 48 8
  let ms := s.collective e.c id
  let m : CollMember := ⟨e.c, e.ch, e.seq, id, rank, r.body, s.now.toNat, none⟩
  if (ms.any fun x => x.shape != m.shape || x.rank == rank) || (s.farMembers e.c id).any fun x => !x.used && (x.shape != m.shape || x.rank == rank) then s.endCommand e.c e.ch e.seq (statusOf 1 0)
  else { s with colls := s.colls ++ [m] }.tellColl m (.joins m.shape)

/-- COLL_RECORD (R396). -/
def execCollRecord (c : Fin 256) (ch : Fin 64) (s : State) : Out := .next (engineStep s c.val ch.val 6 true true collOk collStart)

/-- One step of a fold (R396). -/
def collFold (t : Ty) (op x y : Nat) : Nat :=
  match t.ffmt with
  | some f => if op = 0 then (f.add .rne x y).1 else (f.minmax (op == 2) false x y).1
  | none =>
    if op = 0 then (x + y) % 2 ^ t.iw
    else if op = 1 then (if t.ival y < t.ival x then y else x)
    else (if t.ival x < t.ival y then y else x)

/-- What every member's DST receives: the elementwise fold in ascending rank, or the members' elements in rank order. -/
def collResult (t : Ty) (op count : Nat) (xs : List Nat) : Nat :=
  let w := t.iw
  if op = 3 then xs.zipIdx.foldl (fun v p => v + p.1 * 2 ^ (w * count * p.2)) 0
  else (List.range count).foldl (fun v j =>
    let els := xs.map fun x => bits x (w * j) w
    v + (els.tail.foldl (collFold t op) (els.headD 0)) * 2 ^ (w * j)) 0

/-- A member's command. -/
def CollMember.cmd (m : CollMember) (s : State) : Option (Eng × Rec) := (s.rec? m.ctx m.chain m.seq).map fun r => (r.eng m.ctx m.chain true, r)

/-- The members' elements read, in rank order, each with its member's view (R178, R396). -/
def collRead (n : Nat) : List (Eng × Rec) → State → Except (Eng × EStop) (List Nat × State)
  | [], s => .ok ([], s)
  | (e, r) :: ms, s => match engRead e (bits (r.word 3) 40 4) (r.word 1) n s with
    | .error x => .error (e, x)
    | .ok (v, s1) => match collRead n ms s1 with
      | .error x => .error x
      | .ok (vs, s2) => .ok (v :: vs, s2)

/-- A member's DST written, in writes of at most 4 KiB. -/
def collWrite (e : Eng) (r : Rec) (n v : Nat) (s : State) : ERun :=
  (cuts (r.word 2) n).foldl (fun (x : ERun) q => x.next 0 fun s => engWrite e (bits (r.word 3) 44 4) q.1 q.2 (bits v (8 * (q.1 - r.word 2)) (8 * q.2)) s) ⟨s, 0, none⟩

/-- The members' DSTs written, each member ending once its own is; if one must wait, none is written yet and the member keeps what it waits for. -/
def collWriteAll (n v : Nat) (s0 : State) : List (Eng × Rec) → State → State
  | [], s => s
  | (e, r) :: ms, s =>
    let x := collWrite e r n v s
    match x.stop with
    | some (.hold h) => (⟨s0, 0, some (.hold h)⟩ : ERun).over e
    | _ => collWriteAll n v s0 ms (x.over e)

/-- Members of a collective that ended without it are taken out, and the other packages hear of it. -/
def State.collPrune (s : State) (c id : Nat) : State :=
  let live := s.collective c id
  let out := s.colls.filter fun m => m.ctx == c && m.id == id && !live.contains m
  out.foldl (fun (s : State) m => s.tellColl m .leaves) { s with colls := s.colls.filter fun m => !out.contains m }

/-- The elements of members of this package go to the other packages of a collective, which has assembled. -/
def State.collSend (s : State) (c id : Nat) (ms : List (CollMember × Nat)) : State :=
  let s1 := { s with
    farColls := s.farColls.map fun (x : FarMember) => if x.ctx == c && x.id == id && !x.used then { x with used := true } else x
    colls := s.colls.map fun (m : CollMember) => match ms.find? fun p => p.1 == m with
      | some p => { m with data := some p.2 }
      | none => m }
  ms.foldl (fun (s : State) p => s.tellColl p.1 (.brings p.2)) s1

/-- A collective whose members' elements are all here runs: what each DST receives is written to those of this package, whose members end. -/
def collRun (c id : Nat) (t : Ty) (w3 : Nat) (cmds : List (Eng × Rec)) (xs : List Nat) (s0 s : State) : State :=
  let count := bits w3 0 32
  let op := bits w3 37 3
  let n := count * t.iw / 8
  let r := collWriteAll (if op = 3 then n * (bits w3 56 8 + 1) else n) (collResult t op count xs) s0 cmds s
  let isOver := fun (m : CollMember) => m.ctx == c && m.id == id && !(r.rec? m.ctx m.chain m.seq).any fun x => x.ending.isNone
  if (r.colls.any isOver) then { r with colls := r.colls.filter (fun m => !isOver m), farColls := r.farColls.filter fun x => !(x.ctx == c && x.id == id && x.used) } else r

/-- COLLECTIVE_RUN (R396): once commands of every rank have started, the fold or the gathering goes to every member. A member whose SRC faults ends with the fault, and the others wait on. Where members are on other
packages, the elements of this package's go to those first, and theirs are awaited. -/
def execCollectiveRun (c : Fin 256) (id : BitVec 32) (s : State) : Out :=
  let s := s.collPrune c.val id.toNat
  let ms := s.collective c.val id.toNat
  .next (match ms with
    | [] => s
    | m :: _ =>
      let w3 := (m.body.getD 3 0).toNat
      let ranks := List.range (bits w3 56 8 + 1)
      let sent := ms.any fun x => x.data.isSome
      let own := ms.filter fun x => x.data.isSome == sent
      let far := (s.farMembers c.val id.toNat).filter fun x => x.used == sent
      match collTy (bits w3 32 5) with
      | none => s
      | some t =>
        let ranked := ranks.filterMap fun k => own.find? fun x => x.rank == k
        let cmds := ranked.filterMap fun m => m.cmd s
        if !s.working || !(ranks.all fun k => (own.any fun x => x.rank == k) || far.any fun x => x.rank == k) || !(cmds.all fun x => (x.2.hold.map (s.holdOver x.1)).getD true) then s
        else if sent then
          (if far.all fun x => x.data.isSome then
            collRun c.val id.toNat t w3 cmds (ranks.map fun k => match own.find? fun x => x.rank == k with
              | some m => m.data.getD 0
              | none => ((far.find? fun x => x.rank == k).bind FarMember.data).getD 0) s s
          else s)
        else match collRead (bits w3 0 32 * t.iw / 8) cmds s with
          | .error (e, x) => ERun.over e ⟨s, 0, some x⟩
          | .ok (xs, s1) => if far.isEmpty then collRun c.val id.toNat t w3 cmds xs s s1 else s1.collSend c.val id.toNat (ranked.zip xs))

/-! migrate (R398) -/

/-- The limits of a migrate record. -/
def migrateOk (_ : Eng) (r : Rec) : Bool :=
  r.word 1 % 65536 == 0 && bits (r.word 2) 17 47 == 0 && r.word 3 == 0 && r.word 4 == 0 && r.word 5 == 0 && r.word 6 == 0

/-- A migrate command runs (R398): every page in one range that grants write; then its pages, one migration at a time. -/
def migrateRun (e : Eng) (r : Rec) (s : State) : State :=
  let n := bits (r.word 2) 0 16 + 1
  if 2 ^ 56 ≤ r.word 1 then s.endCommand e.c e.ch e.seq (statusOf 0x10 0x10)
  else match (s.ctx e.c).range (r.word 1) (n * 65536) with
    | none => s.endCommand e.c e.ch e.seq (statusOf 0x10 0x10)
    | some g =>
      if !g.wr then s.endCommand e.c e.ch e.seq (statusOf 0x10 0x11)
      else if !(s.backed (g.fabric (r.word 1)) && s.backed (g.fabric (r.word 1) + n * 65536 - 1)) then s.endCommand e.c e.ch e.seq (statusOf 3 0)
      else s.migPages (e.c, e.ch, e.seq) (g.fabric (r.word 1) / 65536) (bit (r.word 2) 16) 0 n

/-- MIGRATE_RECORD (R398). -/
def execMigrateRecord (c : Fin 256) (ch : Fin 64) (s : State) : Out := .next (engineStep s c.val ch.val 8 true false migrateOk migrateRun)

end Sys2Proof.Machine
end

