-- ==== Sys2Proof/Machine/Demote.lean ====
section
/-!
DEFINITION. Ageing (R258 to R263, R397, R418): the staling pass, its demotion steps and cold moves by copy then swap, the early demotion of R38, and the ballooning engine's run (R38).
-/

namespace Sys2Proof.Machine

/-! Atomics of an engine (R190, R206, R258, R261) -/

/-- A logged event of a command: it waits for the log, or diverges (R202, R209, R210). -/
def engLog (e : Eng) (fa b : Nat) (s : State) : Except EStop State :=
  let who := s.who e.agent
  match s.gate who 2 0 with
  | .wait => .error (.hold .log)
  | _ => match s.logEvent who 2 0 fa b with
    | .ok s1 => .ok s1
    | .error _ => fault 0x38 (s.modCtx e.c fun x => { x with diverged := true })

/-- A single-step atomic on n bytes at a `.g` address: the old value; f gives the new one, if one is written, and b the B field of its log record, if it is logged. -/
def engAtom (e : Eng) (va n : Nat) (f : Nat → Option Nat) (b : Option (Nat → Nat)) (pub : Pub) (s : State) : Except EStop (Nat × State) := do
  let x ← engAt s e 4 va n true true
  let s1 ← e.tracked s x n true false
  sideOk s1 x.fab
  let r := readMasks e.agent false x.frozen x.racy (byteMasks x.name x.off n) s1
  if r.2.1 then fault 0x14 r.2.2
  else
    let s2 ← match b with
      | some g => if e.quiet || x.racy || x.nolog then .ok r.2.2 else engLog e (x.off % 2 ^ 52) (g r.1) r.2.2
      | none => .ok r.2.2
    match f r.1 with
    | none => .ok (r.1, s2)
    | some v =>
      let ps := (bytePieces x.name x.off n v).filter fun p => (bytePieces x.name x.off n r.1).all fun q => q != p
      let s3 ← engDrain e ⟨ps, 0, 0, 0, BitVec.ofNat 64 va⟩ pub s2
      .ok (r.1, s3)

/-- B of a descriptor atomic's record: bits [255:192] of the descriptor it read (R261). -/
def descB (d : Nat) : Nat := bits d 192 64

/-! Frame lists (R263) -/

/-- The lists of a pass: the fabric addresses of the control blocks of pg8, mx6b, mx4, second tier, and the retire ring. -/
structure Lists where
  va  : List Nat
  fab : List Nat
deriving DecidableEq, Repr

/-- A list's control block, at a 64-byte boundary, with LOG2 from 4 to 24, in one range with its entries; a LOG2 out of range or a misplaced block is a bad record (R263, R397). -/
def listAt (e : Eng) (va : Nat) (s : State) : Except EStop (Nat × State) := do
  if va % 64 ≠ 0 then badRecord s
  else
    let x ← engRead e 4 (addr64 (va + 16 : Nat)) 8 s
    if x.1 < 4 || 24 < x.1 then badRecord x.2
    else
      let y ← engAt x.2 e 4 va (64 + 8 * 2 ^ x.1) true true
      .ok (y.off, x.2)

/-- The five lists that the words at LISTS name. -/
def passLists (e : Eng) (va : Nat) (s : State) : Except EStop (Lists × State) := do
  let x ← engRead e 4 va 40 s
  let vas := (List.range 5).map fun j => bits x.1 (64 * j) 64
  let y ← vas.foldlM (fun (r : List Nat × State) v => do
    let z ← listAt e v r.2
    .ok (r.1 ++ [z.1], z.2)) ([], x.2)
  .ok (⟨vas, y.1⟩, y.2)

/-- The frame address in a list entry. -/
def entryFrame (x : Nat) : Nat := bits x 8 44 * 256

/-- Whether HEAD, TAIL or LOG2 of a list is poisoned: an engine that looks at it fails with CAUSE 0x14 (R199). -/
def State.listBad (s : State) (fa : Nat) : Bool := (List.range 6).any fun j => s.badWord (fa / 4 + j)

/-- An entry taken at HEAD of list k by atomic add, if the list is not empty (R263). -/
def listTake (e : Eng) (l : Lists) (k : Nat) (s : State) : Except EStop (Option Nat × State) :=
  let fa := l.fab.getD k 0
  if s.listBad fa then fault 0x14 s
  else if s.listHead fa = s.listTail fa then .ok (none, s)
  else do
    let h ← engAtom e (l.va.getD k 0) 8 (fun h => some ((h + 1) % 2 ^ 64)) (some id) .none s
    let x ← engRead e 4 (addr64 (l.va.getD k 0 + 64 + 8 * (h.1 % 2 ^ s.listLog fa) : Nat)) 8 h.2
    .ok (some x.1, x.2)

/-- An entry given back to list k at TAIL by atomic add; a full list makes the engine wait (R263). -/
def listGive (e : Eng) (l : Lists) (k x : Nat) (s : State) : Except EStop State :=
  let fa := l.fab.getD k 0
  if s.listBad fa then fault 0x14 s
  else if s.listFull fa then .error (.hold (.list fa))
  else do
    let t ← engAtom e (addr64 (l.va.getD k 0 + 8 : Nat)) 8 (fun t => some ((t + 1) % 2 ^ 64)) (some id) .none s
    engWrite { e with sync := none } 4 (addr64 (l.va.getD k 0 + 64 + 8 * (t.1 % 2 ^ s.listLog fa) : Nat)) 8 x t.2

/-! Demotion rounding (R259, R260) -/

/-- The format, scale divisor and element width of a frame after a step from a tag (R259): e4m3 over 448, e2m3 over 7.5, e2m1 over 6. -/
def stepFmt (tag : Nat) : FFmt × Nat × Nat :=
  match tag with
  | 1 => (.e4m3, 448, 1)
  | 2 => (.e2m3, 15, 2)
  | _ => (.e2m1, 6, 1)

/-- The packed slot of storage element x of a frame (R246). -/
def elemSlot (isV : Bool) (dim x : Nat) : Nat := if isV then x % 64 else x / dim

/-- The exact value of storage element x: element times scale, its sign kept; none for a NaN or an infinity (R259, R260). -/
def frameVal (tag dim img x : Nat) : Option FV :=
  match frameScale tag dim img x, frameElem tag img x with
  | some sc, .fin n m ex => let d := (FV.fin false m ex).dy.mul sc; some (.fin n d.m.natAbs d.e)
  | _, _ => none

/-- The values of a frame's storage elements, those of unfilled slots +0; none when a kept one has no finite value (R259, R260). -/
def frameVals (isV : Bool) (tag dim kept img : Nat) : Option (List FV) :=
  ((List.range (64 * dim)).foldr (fun x (o : Option (List FV)) => match o with
    | none => none
    | some l => if elemSlot isV dim x < kept then (frameVal tag dim img x).map fun v => v :: l else some (.fin false 0 0 :: l)) (some []))

/-- The largest magnitude of a list of values. -/
def amaxOf (vs : List FV) : Dy := vs.foldl (fun (m : Dy) v => let d : Dy := ⟨v.dy.m.natAbs, v.dy.e⟩; if m.lt d then d else m) Dy.zero

/-- The scale of a unit (R259). -/
def unitScale (tag : Nat) (vs : List FV) : Nat :=
  let a := (amaxOf vs).frac
  (sc20Ceil (a.1 * (stepFmt tag).2.2) (a.2 * (stepFmt tag).2.1)).1

/-- One element against its scale, rounded once and saturated; a zero scale leaves a zero of its sign (R259). -/
def demoteElem (tag : Nat) (md : RM) (scale : Nat) (v : FV) : Nat :=
  let f := (stepFmt tag).1
  match FFmt.sc20.dec scale with
  | .fin _ sm se =>
    let s : Nat × Nat := Dy.frac ⟨sm, se⟩
    let x := v.dy.frac
    let p := x.1 * s.2
    if sm = 0 || p = 0 then f.withSign v.neg 0 else f.withSign v.neg (Nat.min (f.rnd md v.neg p (x.2 * s.1)).1 f.maxCode)
  | _ => 0

/-- The rounding of element x of a frame: rne, or stochastic with the new GEN as the key (R259, R242). -/
def stepMode (stoch isV : Bool) (gen x : Nat) : RM := if stoch then .rsto (leaven gen (x + if isV then 2 ^ 24 else 0)) else .rne

/-- The image of a frame after a step (R259, R245): elements, then the trailer. -/
def demoteFrame (tag dim : Nat) (isV stoch : Bool) (gen : Nat) (vs : List FV) : Nat :=
  let unit := if tag = 1 then 64 * dim else 32
  let w := (tagFmt (tag + 1)).2.1
  let us := (chunks unit (64 * dim) vs).map fun u => (unitScale tag u, u)
  let els := (us.map fun u => u.2.map fun v => (u.1, v)).flatten
  let body := els.zipIdx.foldl (fun a p => a + demoteElem tag (stepMode stoch isV gen p.2) p.1.1 p.1.2 * 2 ^ (w * p.2)) 0
  let trail := us.zipIdx.foldl (fun a p => a + p.1.1 * 2 ^ (32 * p.2)) 0
  body + trail * 2 ^ (8 * frameElems (tag + 1) dim)

/-! Copy then swap (R261, R262) -/

/-- One frame that a step moves: V or K, its tag and address, the new tag, the list of the new frame. -/
structure Job where
  isV   : Bool
  tag   : Nat
  frame : Nat
  new   : Nat
  list  : Nat
deriving DecidableEq, Repr

/-- The frames that a step rewrites, K first: for a cold move both, unchanged; for a demotion those of tags 1 to 3 (R258, R262). -/
def jobsOf (d : Nat) (cold : Bool) : List Job :=
  ([(false, descKT d, descKF d), (true, descVT d, descVF d)] : List (Bool × Nat × Nat)).filterMap fun p =>
    if cold then some ⟨p.1, p.2.1, p.2.2, p.2.1, 3⟩ else if p.2.1 ≤ 3 then some ⟨p.1, p.2.1, p.2.2, p.2.1 + 1, p.2.1 - 1⟩ else none

/-- A frame's bytes served by the memory side (R167, R390). -/
def frameSide (fa n : Nat) (s : State) : Except EStop Unit :=
  if !s.runBacked fa n then .error (.ends (statusOf 3 0) s)
  else match s.runSide fa n with
    | .served => .ok ()
    | .fails c => fault c s
    | .absent p => .error (.hold (.page (Nat.max fa (p * 65536))))
    | .hold p => .error (.hold (.page (Nat.max fa (p * 65536))))

/-- What a step writes for a job, from the frame as read: none where the page is to be marked poisoned (R260). -/
def jobImage (dim kept gen : Nat) (cold stoch : Bool) (j : Job) (img pm : Nat) : Option Nat :=
  let es := (List.range (64 * dim)).filter fun x => elemSlot j.isV dim x < kept
  if cold then (if pm = 0 then some img else none)
  else if poisonMet j.tag dim pm es then none
  else (frameVals j.isV j.tag dim kept img).map fun vs => demoteFrame j.tag dim j.isV stoch gen vs

/-- The jobs of a step with what each writes, the old frames having been read by fabric address; none when the page is to be marked poisoned. -/
def stepImages (e : Eng) (dim kept gen : Nat) (cold stoch : Bool) : List Job → State → Except EStop (Option (List (Job × Nat)) × State)
  | [], s => .ok (some [], s)
  | j :: js, s => do
    frameSide j.frame (frameBytes j.tag dim) s
    let r := s.readFrame e.agent j.frame (frameBytes j.tag dim)
    match jobImage dim kept gen cold stoch j r.1 r.2.1 with
    | none => .ok (none, r.2.2)
    | some v =>
      let x ← stepImages e dim kept gen cold stoch js r.2.2
      .ok (x.1.map fun l => (j, v) :: l, x.2)

/-- Frames taken for the jobs, in order; or the lists and entries to give back, the last of which may lie in the wrong tier (R261, R397). -/
def takeFrames (e : Eng) (l : Lists) (dim : Nat) : List Job → List (Nat × Nat) → State → Except EStop (Bool × List (Nat × Nat) × State)
  | [], got, s => .ok (true, got, s)
  | j :: js, got, s => do
    let x ← listTake e l j.list s
    match x.1 with
    | none => .ok (false, got, x.2)
    | some v =>
      let f := entryFrame v
      if regionOf (offOf f) == (if j.list = 3 then .second else .first) && x.2.runBacked f (frameBytes j.new dim) then takeFrames e l dim js (got ++ [(j.list, v)]) x.2
      else .ok (false, got ++ [(j.list, v)], x.2)

/-- Entries given back to their lists. -/
def giveFrames (e : Eng) (l : Lists) (got : List (Nat × Nat)) (s : State) : Except EStop State := got.foldlM (fun s p => listGive e l p.1 p.2 s) s

/-- New frames written, in writes of at most 4 KiB, by fabric address (R261). -/
def writeFrames (e : Eng) (dim : Nat) (l : List ((Job × Nat) × (Nat × Nat))) (s : State) : Except EStop State :=
  l.foldlM (fun s p => (cuts (entryFrame p.2.2) (frameBytes p.1.1.new dim)).foldlM (fun s q =>
    engDrain e ⟨bytePieces .fab q.1 q.2 (bits p.1.2 (8 * (q.1 - entryFrame p.2.2)) (8 * q.2)), 0, 0, 0, BitVec.ofNat 64 q.1⟩ .none s) s) s

/-- The descriptor after the swap (R261): the new frames and tags, MIGRATING clear, GEN counted, COLD for a cold move; MASS as it stands. -/
def swapped (d : Nat) (cold : Bool) (l : List ((Job × Nat) × (Nat × Nat))) : Nat :=
  let v := l.foldl (fun v p => let i := p.1.1.isV.toNat; setBits (setBits v (64 * i) 64 (entryFrame p.2.2)) (224 + 4 * i) 4 p.1.1.new) d
  let v := setBits (setBits v 236 1 0) 240 16 (descGen d + 1)
  if cold then setBits v 234 1 1 else v

/-- The fields of a descriptor that a conditional exchange compares: all but MASS. -/
def descFields (d : Nat) : Nat := setBits d 192 32 0

/-- The page counted as skipped (R216). -/
def State.skipPage (s : State) (e : Eng) : State := if e.quiet then s else s.modCmd e fun x => { x with skipped := x.skipped + 1 }

/-- Whether the frames of a step hold a NaN, an infinity or a poisoned word, as far as the memory side serves them: such a page is marked before anything else is written for it (R260, log entry 29: DEDUCED). -/
def frameBad (e : Eng) (dim kept : Nat) (cold : Bool) : List Job → State → Bool × State
  | [], s => (false, s)
  | j :: js, s => match frameSide j.frame (frameBytes j.tag dim) s with
    | .error _ => frameBad e dim kept cold js s
    | .ok _ =>
      let r := s.readFrame e.agent j.frame (frameBytes j.tag dim)
      if (jobImage dim kept 0 cold false j r.1 r.2.1).isNone then (true, r.2.2) else frameBad e dim kept cold js r.2.2

/-- MIGRATING set by an atomic or; the descriptor as it stood (R261). -/
def markPage (e : Eng) (va : Nat) (s : State) : Except EStop (Nat × State) := engAtom e va 32 (fun v => some (setBits v 236 1 1)) (some descB) .none s

/-- MIGRATING cleared by an atomic and-not (R261). -/
def unmarkPage (e : Eng) (va : Nat) (s : State) : Except EStop State := do
  let x ← engAtom e va 32 (fun v => some (setBits v 236 1 0)) (some descB) .none s
  .ok x.2

/-- POISONED set by an atomic or (R260). -/
def poisonPage (e : Eng) (va : Nat) (s : State) : Except EStop State := do
  let x ← engAtom e va 32 (fun v => some (setBits v 235 1 1)) none .none s
  .ok x.2

/-- The slots of a page that a step keeps. -/
def keptOf (d : Nat) : Nat := slotOf (descSurv d) 64

/-- Steps 1 and 2 of a page, from the descriptor d that its MASS exchange read (R261): MIGRATING set and the frames taken, K first, with the descriptor that the or read; or none, when the page takes no step. -/
def stepTake (e : Eng) (l : Lists) (va d dim : Nat) (cold : Bool) (s : State) : Except EStop (Option (Nat × List (Nat × Nat)) × State) := do
  let jobs := jobsOf d cold
  let look := if bit d 236 then (false, s) else frameBad e dim (keptOf d) cold jobs s
  if look.1 then
    let s1 ← poisonPage e va look.2
    return (none, s1)
  let m ← markPage e va look.2
  if bit m.1 236 then return (none, m.2)
  if descFields m.1 ≠ descFields d then
    let s1 ← unmarkPage e va m.2
    return (none, s1)
  let t ← takeFrames e l dim jobs [] m.2
  if t.1 then return (some (m.1, t.2.1), t.2.2)
  let s1 ← giveFrames e l t.2.1 t.2.2
  let s2 ← unmarkPage e va (s1.skipPage e)
  return (none, s2)

/-- A step given up: MIGRATING cleared, the frames taken returned to their lists (R261). -/
def stepDrop (e : Eng) (l : Lists) (va : Nat) (got : List (Nat × Nat)) (s : State) : Except EStop (Bool × State) := do
  let s1 ← giveFrames e l got s
  let s2 ← unmarkPage e va s1
  .ok (false, s2)

/-- The old frames of a step that the engine is to retire (R263). -/
def oldFrames (e : Eng) (ring : Nat) (jobs : List Job) : List Retire :=
  jobs.map fun p => ⟨ring, BitVec.ofNat 64 (p.tag * 2 ^ 60 + bits p.frame 8 44 * 256), e.c, e.ch, e.seq⟩

/-- Steps 3 to 5 of a page whose frames are taken, from the descriptor d that its MIGRATING or read (R261): copy, then swap, or give up; whether its frames were swapped. -/
def stepSwap (e : Eng) (l : Lists) (va d dim : Nat) (cold stoch : Bool) (got : List (Nat × Nat)) (s : State) : Except EStop (Bool × State) := do
  let jobs := jobsOf d cold
  let im ← stepImages e dim (keptOf d) ((descGen d + 1) % 2 ^ 16) cold stoch jobs s
  match im.1 with
  | none =>
    let s1 ← poisonPage e va im.2
    stepDrop e l va got s1
  | some imgs =>
    let new := imgs.zip got
    let s1 ← writeFrames e dim new im.2
    let rl := s1.releaseNow e.agent .device
    let d0 := descFields (setBits d 236 1 1)
    let x ← engAtom e va 32 (fun v => if descFields v = d0 then some (swapped v cold new) else none) (some descB) (.rel rl.1) rl.2
    if descFields x.1 ≠ d0 then stepDrop e l va got x.2
    else
      let s2 := x.2
      .ok (true, ({ s2 with retires := s2.retires ++ oldFrames e (l.fab.getD 4 0) jobs }).retireReady)

/-- A whole step of a page, from the descriptor d (R259 to R263): whether its frames were swapped. -/
def pageStep (e : Eng) (l : Lists) (va d dim : Nat) (cold stoch : Bool) (s : State) : Except EStop (Bool × State) := do
  let x ← stepTake e l va d dim cold s
  match x.1 with
  | none => .ok (false, x.2)
  | some t => stepSwap e l va t.1 dim cold stoch t.2 x.2

/-! The pass (R258, R397) -/

/-- The threshold of a tag, and TCOLD for 4. -/
def Rec.threshold (r : Rec) (t : Nat) : Nat := if t = 1 then bits (r.word 4) 0 32 else if t = 2 then bits (r.word 4) 32 32 else if t = 3 then bits (r.word 5) 0 32 else bits (r.word 5) 32 32

/-- F of a pass. -/
def Rec.passF (r : Rec) : Nat := bits (r.word 2) 0 32
/-- The address of the i-th descriptor of a pass. -/
def Rec.descAt (r : Rec) (i : Nat) : Nat := addr64 (r.word 1 + 32 * (r.passF + i) : Nat)
/-- The address of the i-th heat word. -/
def Rec.heatAt (r : Rec) (i : Nat) : Nat := addr64 (r.word 3 + 4 * i : Nat)
/-- D of a pass. -/
def Rec.passDim (r : Rec) : Nat := dimOf (bits (r.word 2) 53 3)
/-- STOCH. -/
def Rec.stoch (r : Rec) : Bool := bit (r.word 2) 52
/-- N. -/
def Rec.passN (r : Rec) : Nat := bits (r.word 2) 32 16 + 1

/-- Whether a page takes no step whatever its heat (R258). -/
def descStays (d : Nat) : Bool := descKT d == 0 || bit d 232 || bit d 233 || bit d 235

/-- The step that a page's tag and heat call for: none, a demotion (false) or a cold move (true) (R258). -/
def stepDue (r : Rec) (d heat : Nat) : Option Bool :=
  if descStays d then none
  else if descKT d ≤ 3 then (if heat < r.threshold (descKT d) then some false else none)
  else if !bit d 234 && heat < r.threshold 4 then some true else none

/-- Whether a pass is the latest over a record's block table. -/
def Pass.isOf (p : Pass) (e : Eng) (r : Rec) : Bool := p.ctx == e.c && (p.body.getD 1 0).toNat == r.word 1

/-- The heat of a page after a pass has looked at it (R258). -/
def newHeat (k heat mass : Nat) : Nat := Nat.min (heat - heat / 2 ^ k + mass) 0xFFFFFFFF

/-- The pass visits its i-th descriptor (R258): MASS exchanged, heat updated, then the first half of the step that it calls for, unless that was taken early (R38); what the second half needs is kept. -/
def passLook (e : Eng) (r : Rec) (l : Lists) (i : Nat) (s : State) : Except EStop State := do
  let va := r.descAt i
  let x ← engAtom e va 32 (fun d => if descWf d then some (setBits d 192 32 0) else none) (some descB) .none s
  if !descWf x.1 then fault 0x48 x.2
  else
    let h ← engRead e 4 (r.heatAt i) 4 x.2
    let heat := newHeat (bits (r.word 2) 48 4 + 1) h.1 (descMass x.1)
    let s2 ← engWrite { e with sync := none } 4 (r.heatAt i) 4 heat h.2
    let early := s2.passes.any fun p => p.isOf e r && p.early.contains (r.passF + i)
    let s3 := { s2 with passes := s2.passes.map fun (p : Pass) => if p.isOf e r then { p with early := p.early.filter (· != r.passF + i) } else p }
    match if early then none else stepDue r x.1 heat with
    | none => .ok (s3.keep e none)
    | some cold =>
      let y ← stepTake e l va x.1 r.passDim cold s3
      .ok (y.2.keep e (y.1.map fun t => .page t.1 cold t.2))

/-- The second half of the step of the i-th descriptor, if it is taking one (R261). -/
def passSwap (e : Eng) (r : Rec) (l : Lists) (i : Nat) (s : State) : Except EStop State := match s.kept e with
  | some (.page d cold got) => do
    let y ← stepSwap e l (r.descAt i) d r.passDim cold r.stoch got s
    .ok (y.2.keep e none)
  | _ => .ok s

/-- The retire ring is full and an old frame of this command that no reader holds waits for it: the engine waits before its next access (R263). What a completed command left to retire holds nothing. -/
def State.ringBlocked (s : State) (e : Eng) (ring : Nat) : Bool :=
  s.listFull ring && s.retires.any fun x => x.ring == ring && x.ctx == e.c && x.chain == e.ch && x.seq == e.seq && !s.retireHeld x

/-- The limits of a demote record. -/
def demoteOk (_ : Eng) (r : Rec) : Bool :=
  r.word 1 % 32 == 0 && bits (r.word 2) 53 3 != 0 && bits (r.word 2) 56 8 == 0 && r.word 3 % 4 == 0 && r.word 6 % 64 == 0

/-- The parameters of a pass kept as the latest over its block table, of at most 64 tables (R258). -/
def State.keepPass (s : State) (e : Eng) (r : Rec) : State :=
  let old := (s.passes.find? fun p => p.isOf e r).map Pass.early
  let rest := s.passes.filter fun p => !p.isOf e r
  { s with passes := (if rest.length < 64 then rest else rest.drop 1) ++ [⟨e.c, e.ch, e.seq, r.body, old.getD []⟩] }

/-- A pass runs: its lists are looked at, then its descriptors are visited in ascending order; it is over with its last descriptor, whatever is still to be retired (R258, R397, R418, log entry 29: DEDUCED). -/
def demoteRun (e : Eng) (r : Rec) (s : State) : State :=
  match passLists e (r.word 6) s with
  | .error x => ERun.over e ⟨s, r.prog, some x⟩
  | .ok (l, s1) =>
    let ring := l.fab.getD 4 0
    let look := fun (i : Nat) (s : State) => if s.ringBlocked e ring then Except.error (EStop.hold (.list ring)) else passLook e r l i s
    ((List.range r.passN).foldl (fun (x : ERun) i => (x.next r.prog (look i)).next r.prog (passSwap e r l i)) (⟨s1.keepPass e r, 0, none⟩ : ERun)).over e

/-- DEMOTE_RECORD (R397). -/
def execDemoteRecord (c : Fin 256) (ch : Fin 64) (s : State) : Out := .next (engineStep s c.val ch.val 7 true false demoteOk demoteRun)

/-- LIST_ROOM_RESUME (R263): firmware has advanced HEAD of a full list or ring: the retirements that waited for it go on, and so does the command that did. -/
def execListRoomResume (c : Fin 256) (ch : Fin 64) (seq : Word) (s : State) : Out :=
  let s1 := s.retireReady
  .next (match s1.rec? c.val ch.val seq.toNat with
    | some r => (match r.hold with
      | some (.list _) => if r.st == 1 && r.ending.isNone && r.kind == 7 && s1.working then demoteRun (r.eng c.val ch.val false) r s1 else s1
      | _ => s1)
    | none => s1)

/-! Ballooning (R38) -/

/-- The sheets for which a reservation waits on a die, each with its channel (R38). -/
def State.waitingRoom (s : State) (die : Nat) : List (Nat × Nat) :=
  let all := (s.roomWaits.map fun r => (r.channel, r.sheet)) ++ s.warpAgents.filterMap fun a => match (s.warp? a).bind Warp.wait with
    | some (.room c sh _ _) => some (c, sh)
    | _ => none
  union [] (all.filter fun p => dieOfChan p.1 == die)

/-- The chunks that a reservation for a sheet takes as it stands: none where the sheet holds one (R37). -/
def State.sheetLack (s : State) (sh : Nat) : Nat := if ((alGet s.reserved sh).getD 0) != 0 then 0 else 8 - s.sheetChunks sh

/-- Whether every waiting reservation of a die can be met: those of one channel together (R38). -/
def State.roomMet (s : State) (die : Nat) : Bool :=
  let ws := s.waitingRoom die
  ws.all fun p => decide ((ws.filter fun q => q.1 == p.1).foldl (fun n q => n + s.sheetLack q.2) 0 ≤ s.freeChunks p.1)

/-- The early demotion of the i-th page of a pass: at current heat, no mass added (R38, R258); its heat word and MASS stay. A page that is not demoted is left as it was. -/
def earlyPage (p : Pass) (e : Eng) (r : Rec) (l : Lists) (i : Nat) (s : State) : Except EStop State := do
  let d ← engRead e 4 (r.descAt i) 32 s
  let h ← engRead e 4 (r.heatAt i) 4 d.2
  if p.early.contains (r.passF + i) || !descWf d.1 then .ok s
  else match stepDue r d.1 h.1 with
    | some false =>
      let s1 ← pageStep e l (r.descAt i) d.1 r.passDim false r.stoch h.2
      .ok (if s1.1 then { s1.2 with passes := s1.2.passes.map fun (q : Pass) => if q.isOf e r then { q with early := q.early ++ [r.passF + i] } else q } else s)
    | _ => .ok s

/-- The early demotions of a pass, in its order, until every reservation can be met. -/
def State.earlyPass (s : State) (die : Nat) (p : Pass) : State :=
  let r : Rec := ⟨p.seq, 0, 1, none, [], none, none, none, [], 0, none, 0, p.body, 0, none, 0, none, none⟩
  let e : Eng := { r.eng p.ctx p.chain false with quiet := true }
  match passLists e (r.word 6) s with
  | .error _ => s
  | .ok (l, _) => (List.range r.passN).foldl (fun (s : State) i => if s.roomMet die then s else match earlyPage p e r l i s with
    | .ok t => t
    | .error _ => s) s

/-- The pages that a frame of n bytes lies on. -/
def framePages (f n : Nat) : List Nat := (List.range ((f + n - 1) / 65536 - f / 65536 + 1)).map fun i => f / 65536 + i

/-- The pages on which frames lie that descriptors with the cold flag name, over the passes that are kept (R38). -/
def State.coldNamed (s : State) : List Nat :=
  (s.passes.map fun p =>
    let r : Rec := ⟨p.seq, 0, 1, none, [], none, none, none, [], 0, none, 0, p.body, 0, none, 0, none, none⟩
    ((List.range r.passN).map fun i => match (s.ctx p.ctx).range (r.descAt i) 32 with
      | some g =>
        let fa := g.fabric (r.descAt i)
        let d := memRead s.mem fa 32
        if ((List.range 8).any fun j => s.badWord (fa / 4 + j)) || !bit d 234 || descKT d == 0 then []
        else framePages (descKF d) (frameBytes (descKT d) r.passDim) ++ framePages (descVF d) (frameBytes (descVT d) r.passDim)
      | none => []).flatten).flatten

/-- The first-tier pages that the memory-side tables map and that no migration holds, with their sweeps and whether a frame on them is named by a descriptor with the cold flag (R38, R164). -/
def State.coldPages (s : State) : List (Nat × Nat × Bool) :=
  let named := s.coldNamed
  s.mappedPages.filterMap fun p => match pageOut p.2 with
    | .present _ => if frameFirst (s.frameOf p.1) && !s.migs.any fun m => m.page == p.1 then some (p.1, bits p.2 8 8, named.contains p.1) else none
    | .absent => none
    | .unmapped => none
    | .poisoned => none

/-- The page that the ballooning engine migrates next: one with the cold flag, else the one with the most sweeps, the lowest address first (R38). -/
def State.coldest (s : State) : Option Nat :=
  (s.coldPages.foldl (fun (o : Option (Nat × Nat × Bool)) p => match o with
    | none => some p
    | some q => if (p.2.2 && !q.2.2) || (p.2.2 == q.2.2 && decide (q.2.1 < p.2.1)) then some p else o) none).map Prod.fst

/-- A run counted in BAL_RUNS (R36). -/
def State.countRun (s : State) (die : Nat) : State :=
  { s with regs := { s.regs with cmpPool := s.regs.cmpPool.modify die fun w => satInc w 0 16 } }

/-- BALLOON_RUN (R36, R38, R46): a run starts for the reservations that wait on a die, counted once, but not while a checkpoint is in progress; it takes the balloon list, then early demotion, then the migration of
cold pages, one at a time, and is over when every waiting reservation can be met. -/
def State.balloonRun (s : State) (die : Nat) : State :=
  if !s.working then s
  else if s.roomMet die then { s with runs := s.runs.filter (· != die) }
  else if s.ckptBusy && !s.runs.contains die then s
  else
    let s0 := if s.runs.contains die then s else { s.countRun die with runs := s.runs ++ [die] }
    let s1 := s0.balloonList (2 ^ 21)
    let s2 := s1.passes.foldl (fun (s : State) p => if s.roomMet die then s else s.earlyPass die p) s1
    if s2.roomMet die then { s2 with runs := s2.runs.filter (· != die) }
    else if s2.migs.any fun m => m.cmd.isNone then s2
    else match s2.coldest with
      | none => s2
      | some page => match s2.startMig page false none with
        | .started s3 => s3
        | .passed => s2
        | .noSpace => s2
        | .busy => s2

/-- BALLOON_RUN (R38). -/
def execBalloonRun (die : Fin 4) (s : State) : Out := .next (s.balloonRun die.val)

end Sys2Proof.Machine
end

