-- ==== Sys2Proof/Machine/EngineInstr.lean ====
section
/-!
DEFINITION. The engine commands that programs issue (R276, R388, R389): each builds its record and joins the outbox; the append takes effect when the command drains (R178).
-/

namespace Sys2Proof

namespace Machine

/-- Word 0 of the record a format-E instruction builds (R389). -/
def recWord0 (f : EFlags) (kflags kind : Nat) : Nat :=
  kflags * 2 ^ 16 + f.irq.toNat * 2 ^ 13 + f.scope.code * 2 ^ 10 + f.rel.toNat * 2 ^ 9 + f.acq.toNat * 2 ^ 8 + kind

/-- The record's write: 16 words at its target (R389). -/
def recordWrite (w : Warp) (t : Target) (v : Nat) : WriteOp := writeOp (w.lane (w.front.headD 0)) (w.front.headD 0) t v

/-- A format-E instruction (R389): the checks in the table's order, its halting watchpoints (R218), the record's write and the command in the outbox, and D pending; whether that write can be made is seen at its drain, as with any store. -/
def engineInstr (i : Instr) (s : State) (g : Guard) (f : EFlags) (kflags kind : Nat) (d : BitVec 6) (a : SSrc) (chain : BitVec 6) : Out :=
  word i s fun w => match s.launchOf w.agent, s.groupTray w with
    | some la, some t =>
      let off := (rdS w a).toNat % 2 ^ 32
      if (w.passing g).isEmpty then s.setWarp w.done
      else if off % 64 ≠ 0 then s.trapFront w (.at 0x17 off)
      else if la.f.spBytes < off + 64 then s.trapFront w (accessTrap w.frontMask 0x20 off off)
      else if s.spPoison la.id t.idx off 64 then s.trapFront w (.at 0x14 off)
      else match s.trackSp w la t.idx [(off, 64)] off with
        | .error e => s.trapFront w e
        | .ok s1 =>
          let r := s1.readSp w.agent la t.idx off 64
          let va := bits r.1 0 64
          if bits r.1 448 64 ≠ 0 then r.2.trapFront w (.of 0x02)
          else if va % 64 ≠ 0 then r.2.trapFront w (.at 0x17 va)
          else match r.2.hitHalt w .g .store 64 [va], r.2.check w (w.front.headD 0) .g .store false true va 64 w.frontMask with
            | some n, _ => r.2.haltHit w 0x51 n
            | none, .error e => r.2.trapFront w e
            | none, .ok (tg, s2) =>
              let op := recordWrite w tg (recWord0 f kflags kind + 2 ^ 64 * bits r.1 64 384)
              let s3 := ((s2.publish w.agent).sampled w (w.front.headD 0) tg 2 (s2.servedBy w.agent tg)).push w.agent (.write op) false
              let s4 := s3.push w.agent (.command f.scope chain.toNat (tg.fab.getD 0) d w.frontPc false) true
              s4.setWarp { w with pendS := w.pendS ++ [d] }.done
    | _, _ => s

/-- `append`: a launch record (R388, R389). -/
def execAppend (g : Guard) (f : EFlags) (kflags : BitVec 16) (d : BitVec 6) (a : SSrc) (chain : BitVec 6) (s : State) : Out :=
  engineInstr (.append g f kflags d a chain) s g f kflags.toNat 1 d a chain

/-- `copy`: a copy command (R388, R389). -/
def execCopy (g : Guard) (f : EFlags) (d : BitVec 6) (a : SSrc) (chain : BitVec 6) (s : State) : Out :=
  engineInstr (.copy g f d a chain) s g f 0 2 d a chain

/-- `stream`: a stream command (R388, R389). -/
def execStream (g : Guard) (f : EFlags) (d : BitVec 6) (a : SSrc) (chain : BitVec 6) (s : State) : Out :=
  engineInstr (.stream g f d a chain) s g f 0 3 d a chain

/-- `gather`: a gather command (R388, R389). -/
def execGather (g : Guard) (f : EFlags) (d : BitVec 6) (a : SSrc) (chain : BitVec 6) (s : State) : Out :=
  engineInstr (.gather g f d a chain) s g f 0 4 d a chain

/-- `select`: a select command (R388, R389). -/
def execSelect (g : Guard) (f : EFlags) (d : BitVec 6) (a : SSrc) (chain : BitVec 6) (s : State) : Out :=
  engineInstr (.select g f d a chain) s g f 0 5 d a chain

/-- `coll`: a collective command (R388, R389). -/
def execColl (g : Guard) (f : EFlags) (d : BitVec 6) (a : SSrc) (chain : BitVec 6) (s : State) : Out :=
  engineInstr (.coll g f d a chain) s g f 0 6 d a chain

/-- `demote`: a demote command (R388, R389). -/
def execDemote (g : Guard) (f : EFlags) (d : BitVec 6) (a : SSrc) (chain : BitVec 6) (s : State) : Out :=
  engineInstr (.demote g f d a chain) s g f 0 7 d a chain

/-- `migrate`: a migrate command (R388, R389). -/
def execMigrate (g : Guard) (f : EFlags) (d : BitVec 6) (a : SSrc) (chain : BitVec 6) (s : State) : Out :=
  engineInstr (.migrate g f d a chain) s g f 0 8 d a chain

end Machine

end Sys2Proof
end

