-- ==== Sys2Proof/Machine/Fleet.lean ====
section
/-!
DEFINITION. Launches over several packages (R100 to R104) and the serving controller (R119 to R123).
-/

namespace Sys2Proof.Machine

/-! A member (R100 to R103) -/

/-- A member's launch of a record (R99, R100). -/
def State.memberLaunch? (s : State) (c ch seq : Nat) : Option Launch := s.launches.find? fun l => !l.coord && l.ctx == c && l.chain == ch && l.seq == seq && l.phase != .done

/-- PREPARE_RECEIVE (R100): a member whose checks pass, those of the record's pipeline among them, holds the launch until its cores are reserved; else it refuses. The message carries the record's words and those of its declaration (log entry 21: DESIGN CHOICE). -/
def execPrepareReceive (src : BitVec 6) (d : Descr) (check : BitVec 64) (body : List Word) (s : State) : Out :=
  let f := launchF body
  let c := d.ctx.toNat
  let whole := f.dw == d.dw && f.dh == d.dh && f.pw == d.pw && f.ph == d.ph
  .next (if !s.working then s
    else if (s.ctx c).st = 1 && !(s.localCells f d.ox d.oy).isEmpty && check == descrCheck d && whole && !(s.recPipe f (body.drop 8)).2 then
      let l := { s.newLaunch c d.chain.toNat d.seq.toNat 0 f (s.recPipe f (body.drop 8)).1 d.ox d.oy .prepared false src.toNat s.cycle with descr := d, check := check }
      s.addLaunch l
    else { s with sent := s.sent ++ [.refuse c d.chain.toNat d.seq.toNat] })

/-- GO_RECEIVE (R100, R67): a member's trays begin issue, with ACQ by acquires that read from the releases that the message names, by agent and number. -/
def execGoReceive (c : BitVec 8) (chain : BitVec 6) (go : GoMsg) (s : State) : Out :=
  .next (match s.memberLaunch? c.toNat chain.toNat go.seq.toNat with
    | some l => if l.phase == .reserved then s.begin l.id (go.rels.map fun r => ⟨r.1, r.2⟩) else s
    | none => s)

/-- A member's launch that has not begun gives its reservation back (R101). -/
def State.unreserve (s : State) (l : Launch) : State := if l.phase == .prepared || l.phase == .reserved then s.dropLaunch l.id else s

/-- ABORT_RECEIVE (R101). -/
def execAbortReceive (c : BitVec 8) (chain : BitVec 6) (seq : BitVec 64) (s : State) : Out :=
  .next (match s.memberLaunch? c.toNat chain.toNat seq.toNat with
    | some l => s.unreserve l
    | none => s)

/-- STOP_RECEIVE (R102): a member's trays stop at instruction boundaries. -/
def execStopReceive (c : BitVec 8) (chain : BitVec 6) (seq : BitVec 64) (s : State) : Out :=
  .next (match s.memberLaunch? c.toNat chain.toNat seq.toNat with
    | some l => s.endLaunch l.id (statusOf 9 0)
    | none => s)

/-- COORDINATOR_LOST (R103): members stop the trays of launches whose coordinator has no path, or release what they had reserved. -/
def execCoordinatorLost (pkg : BitVec 6) (s : State) : Out :=
  .next ((s.launches.filter fun l => !l.coord && l.home == pkg.toNat && l.phase != .done).foldl (fun (s : State) l =>
    if l.phase == .prepared || l.phase == .reserved then s.unreserve l else s.endLaunch l.id (statusOf 9 0)) s)

/-! The coordinator (R100 to R104) -/

/-- Whether a launch waits for acknowledgements. -/
def Launch.preparing (l : Launch) : Bool := l.coord && (l.phase == .prepared || l.phase == .reserved) && l.ending.isNone

/-- ACKNOWLEDGE_RECEIVE (R100, R101): a member's acknowledgement; with the last one, go. -/
def execAcknowledgeReceive (launch : Nat) (pkg : BitVec 6) (s : State) : Out :=
  .next (match s.launch? launch with
    | some l => if l.preparing then (s.modLaunch launch fun x => { x with acked := union x.acked [pkg.toNat] }).goIfAll launch else s
    | none => s)

/-- Abort (R101): the members are told, and the record completes with launch aborted. -/
def State.abort (s : State) (l : Launch) : State :=
  let s1 := s.endLaunch l.id (statusOf 0xB 0)
  match s1.launch? l.id with
  | some x => s1.tellEnd x
  | none => s1

/-- REFUSAL_RECEIVE (R101). -/
def execRefusalReceive (launch : Nat) (pkg : BitVec 6) (s : State) : Out :=
  .next (match s.launch? launch with
    | some l => if l.preparing && l.memberPkgs.contains pkg.toNat then s.abort l else s
    | none => s)

/-- PREPARE_TIMEOUT (R101): 2 ms after prepare without every acknowledgement. -/
def execPrepareTimeout (launch : Nat) (s : State) : Out :=
  .next (match s.launch? launch with
    | some l => if l.preparing && !(l.others s.pkg).isEmpty && decide (2000000 ≤ (s.now - l.placedAt).toNat) then s.abort l else s
    | none => s)

/-- MEMBER_LOST (R102): unless every member had reported its exit, the survivors are told to stop and the launch ends with member lost; of a launch that is ending already the lost member is no longer waited for. -/
def execMemberLost (launch : Nat) (pkg : BitVec 6) (s : State) : Out :=
  .next (match s.launch? launch with
    | some l =>
      let p := pkg.toNat
      let lost := s.modLaunch launch fun x => { x with reported := union x.reported [p] }
      if !l.coord || !l.ran || !(l.others s.pkg).contains p then s
      else if l.ending.isSome then lost
      else if (s.launchExited l) && (l.others s.pkg).all fun q => l.reported.contains q then s
      else
        let s1 := lost.endLaunch launch (statusOf 9 0)
        { s1 with
          sent := s1.sent ++ ((l.others s.pkg).filter fun q => q != p).map fun q => Msg.stop q l.id
          regs := { s1.regs with distCnt := satInc s1.regs.distCnt 16 16 } }
    | none => s)

/-- The coordinator has a member's report (R102, R104): that its last tray has exited, and, where it ended for a cause of its own, with which STATUS, by which the launch then ends unless it is ending already. -/
def State.reportTaken (s : State) (l : Launch) (p : Nat) (status : Word32) : State :=
  let s1 := s.modLaunch l.id fun x => { x with reported := union x.reported [p] }
  if status = 0 || l.ending.isSome then s1 else (s1.endLaunch l.id status).tell l fun q => .stop q l.id

/-- EXIT_REPORT (R104): the coordinator hears from a member; or this package, as a member, reports its own exit with the STATUS it ended with, its writes released where REL is set, and gives the launch up. -/
def execExitReport (launch : Nat) (report : Report) (s : State) : Out :=
  .next (match s.launch? launch with
    | none => s
    | some l =>
      if l.coord then (if (l.others s.pkg).contains report.pkg.toNat then s.reportTaken l report.pkg.toNat report.status else s)
      else if report.pkg.toNat ≠ s.pkg || l.phase == .done || !s.launchDrained launch then s
      else if l.ending.isSome || (l.ran && s.launchExited l) then
        let s1 := if l.f.rel then (s.launchRelease l).2 else s
        { (s1.dropLaunch launch) with sent := s1.sent ++ [.exitReport l.ctx l.chain l.seq (l.ending.getD 0)] }
      else s)

/-! The serving controller (R119 to R123) -/

/-- SRV_CTL written, by the semaphore's holder or by the controller (R119): LEN_EN is not set over a base that is no backed first-tier offset. -/
def execSrvCtlWrite (p : Option Port) (v : Word) (s : State) : Out :=
  guardedOr p s id fun s =>
    let base := bits v.toNat 16 36 * 65536
    if bit v.toNat 1 && !(s.backed base && regionOf (offOf base) == .first) then s
    else { s with regs := { s.regs with srvCtl := regWrite s.regs.srvCtl v 0xFFFFFFFFF0002 4 } }

/-- Whether a context is delegated to the controller (R122). -/
def State.delegated (s : State) (c : Nat) : Bool := bit (s.regs.srvDeleg.getD (c / 64) 0).toNat (c % 64)

/-- SRV_LIST written by the controller, SRV_LTGT just before it where that is written too (R122, R123): the records of the list that SRV_LTGT describes are appended in order, with no other append to the chain between them, or LIST_ERR is set. -/
def execSrvList (ltgt : Option Word) (v : Word) (s : State) : Out :=
  .next (if s.boot.off || !bit s.regs.srvCtl.toNat 0 then s
    else
      let s1 := { s with active := s.now, regs := (ltgt.map fun x => s.regs.fwWrite 0x908 x).getD s.regs }
      let w := s1.regs.srvLtgt.toNat
      let c := bits w 8 8
      let as := (List.range (bits w 16 4 + 1)).map fun i => bits v.toNat 6 46 * 64 + 64 * i
      if (s1.ctx c).st ≠ 1 || !s1.delegated c || !as.all s1.backed then { s1 with regs := { s1.regs with srvCtl := s1.regs.srvCtl ||| 4 } }
      else as.zipIdx.foldl (fun (s : State) p => s.hostAppend c 2 (bits w 0 6) p.1 (p.2 != 0)) s1)

end Sys2Proof.Machine
end

