-- ==== Sys2Proof/Machine/Dispatch.lean ====
section
/-!
DEFINITION. The dispatch: one arm per instruction, each one call of its meaning.
-/

namespace Sys2Proof.Machine

/-- The meaning of an instruction or of a step of the device or its hosts. -/
def exec (i : Instr) (s : State) : Host.Outcome State Fault Refusal :=
  match i with
  | .nop g => Sys2Proof.Machine.execNop g s
  | .bra g off => Sys2Proof.Machine.execBra g off s
  | .brx g a => Sys2Proof.Machine.execBrx g a s
  | .call g off => Sys2Proof.Machine.execCall g off s
  | .callx g d a => Sys2Proof.Machine.execCallx g d a s
  | .ret g a => Sys2Proof.Machine.execRet g a s
  | .exit g => Sys2Proof.Machine.execExit g s
  | .rbar g => Sys2Proof.Machine.execRbar g s
  | .yield g => Sys2Proof.Machine.execYield g s
  | .sleepuntil g a => Sys2Proof.Machine.execSleepuntil g a s
  | .trap g code => Sys2Proof.Machine.execTrap g code s
  | .loop g a off => Sys2Proof.Machine.execLoop g a off s
  | .mov g t d a => Sys2Proof.Machine.execMov g t d a s
  | .movi g t d imm => Sys2Proof.Machine.execMovi g t d imm s
  | .movih g d imm => Sys2Proof.Machine.execMovih g d imm s
  | .add g t d a b => Sys2Proof.Machine.execAdd g t d a b s
  | .sub g t d a b => Sys2Proof.Machine.execSub g t d a b s
  | .addi g t d a imm => Sys2Proof.Machine.execAddi g t d a imm s
  | .mul g t d a b => Sys2Proof.Machine.execMul g t d a b s
  | .mulhi g t d a b => Sys2Proof.Machine.execMulhi g t d a b s
  | .mad g t d a b c => Sys2Proof.Machine.execMad g t d a b c s
  | .div g t d a b => Sys2Proof.Machine.execDiv g t d a b s
  | .rem g t d a b => Sys2Proof.Machine.execRem g t d a b s
  | .min g t d a b => Sys2Proof.Machine.execMin g t d a b s
  | .max g t d a b => Sys2Proof.Machine.execMax g t d a b s
  | .abs g t d a => Sys2Proof.Machine.execAbs g t d a s
  | .neg g t d a => Sys2Proof.Machine.execNeg g t d a s
  | .addsat g t d a b => Sys2Proof.Machine.execAddsat g t d a b s
  | .and g t d a b => Sys2Proof.Machine.execAnd g t d a b s
  | .or g t d a b => Sys2Proof.Machine.execOr g t d a b s
  | .xor g t d a b => Sys2Proof.Machine.execXor g t d a b s
  | .not g t d a => Sys2Proof.Machine.execNot g t d a s
  | .andn g t d a b => Sys2Proof.Machine.execAndn g t d a b s
  | .andi g t d a imm => Sys2Proof.Machine.execAndi g t d a imm s
  | .ori g t d a imm => Sys2Proof.Machine.execOri g t d a imm s
  | .xori g t d a imm => Sys2Proof.Machine.execXori g t d a imm s
  | .shl g t d a b => Sys2Proof.Machine.execShl g t d a b s
  | .shr g t d a b => Sys2Proof.Machine.execShr g t d a b s
  | .sar g t d a b => Sys2Proof.Machine.execSar g t d a b s
  | .rot g t d a b => Sys2Proof.Machine.execRot g t d a b s
  | .shli g t d a imm => Sys2Proof.Machine.execShli g t d a imm s
  | .shri g t d a imm => Sys2Proof.Machine.execShri g t d a imm s
  | .sari g t d a imm => Sys2Proof.Machine.execSari g t d a imm s
  | .clamp g t d a b c => Sys2Proof.Machine.execClamp g t d a b c s
  | .setp g c k t d a b => Sys2Proof.Machine.execSetp g c k t d a b s
  | .setpi g c d a imm => Sys2Proof.Machine.execSetpi g c d a imm s
  | .sel g t d a b c => Sys2Proof.Machine.execSel g t d a b c s
  | .bfe g t d a b c => Sys2Proof.Machine.execBfe g t d a b c s
  | .bfi g t d a b c => Sys2Proof.Machine.execBfi g t d a b c s
  | .popc g t d a => Sys2Proof.Machine.execPopc g t d a s
  | .clz g t d a => Sys2Proof.Machine.execClz g t d a s
  | .ctz g t d a => Sys2Proof.Machine.execCtz g t d a s
  | .brev g t d a => Sys2Proof.Machine.execBrev g t d a s
  | .cvti g dt sty sat d a => Sys2Proof.Machine.execCvti g dt sty sat d a s
  | .lea g k d a b => Sys2Proof.Machine.execLea g k d a b s
  | .pset g o d a b => Sys2Proof.Machine.execPset g o d a b s
  | .smov g t d a lane => Sys2Proof.Machine.execSmov g t d a lane s
  | .bswap g t d a => Sys2Proof.Machine.execBswap g t d a s
  | .fadd g t r d a b => Sys2Proof.Machine.execFadd g t r d a b s
  | .fsub g t r d a b => Sys2Proof.Machine.execFsub g t r d a b s
  | .fmul g t r d a b => Sys2Proof.Machine.execFmul g t r d a b s
  | .fma g t r d a b c => Sys2Proof.Machine.execFma g t r d a b c s
  | .fdiv g t r d a b => Sys2Proof.Machine.execFdiv g t r d a b s
  | .fmin g t nan d a b => Sys2Proof.Machine.execFmin g t nan d a b s
  | .fmax g t nan d a b => Sys2Proof.Machine.execFmax g t nan d a b s
  | .fabs g t d a => Sys2Proof.Machine.execFabs g t d a s
  | .fneg g t d a => Sys2Proof.Machine.execFneg g t d a s
  | .fsetp g c k t d a b => Sys2Proof.Machine.execFsetp g c k t d a b s
  | .fclass g t d a => Sys2Proof.Machine.execFclass g t d a s
  | .fmovi g t d imm => Sys2Proof.Machine.execFmovi g t d imm s
  | .frnd g t r x d a => Sys2Proof.Machine.execFrnd g t r x d a s
  | .fscale g t r d a b => Sys2Proof.Machine.execFscale g t r d a b s
  | .fdot2 g bf r d a b c => Sys2Proof.Machine.execFdot2 g bf r d a b c s
  | .cvt g dt sty alt r d a => Sys2Proof.Machine.execCvt g dt sty alt r d a s
  | .cvtblk g e sty r d a b => Sys2Proof.Machine.execCvtblk g e sty r d a b s
  | .cvtsc g e sty d a => Sys2Proof.Machine.execCvtsc g e sty d a s
  | .pack g t d a => Sys2Proof.Machine.execPack g t d a s
  | .unpack g t d a => Sys2Proof.Machine.execUnpack g t d a s
  | .exp2 g r d a => Sys2Proof.Machine.execExp2 g r d a s
  | .log2 g r d a => Sys2Proof.Machine.execLog2 g r d a s
  | .rcp g r d a => Sys2Proof.Machine.execRcp g r d a s
  | .rsqrt g r d a => Sys2Proof.Machine.execRsqrt g r d a s
  | .sqrt g r d a => Sys2Proof.Machine.execSqrt g r d a s
  | .tanh g r d a => Sys2Proof.Machine.execTanh g r d a s
  | .sigmoid g r d a => Sys2Proof.Machine.execSigmoid g r d a s
  | .sinpi g r d a => Sys2Proof.Machine.execSinpi g r d a s
  | .cospi g r d a => Sys2Proof.Machine.execCospi g r d a s
  | .shfl g t m d a b c => Sys2Proof.Machine.execShfl g t m d a b c s
  | .vote g o d a => Sys2Proof.Machine.execVote g o d a s
  | .ballot g d a => Sys2Proof.Machine.execBallot g d a s
  | .reduce g o t r d a => Sys2Proof.Machine.execReduce g o t r d a s
  | .scan g o excl t r d a => Sys2Proof.Machine.execScan g o excl t r d a s
  | .sample g d a b c => Sys2Proof.Machine.execSample g d a b c s
  | .leaven g flt d a b => Sys2Proof.Machine.execLeaven g flt d a b s
  | .matchLanes g all t d a => Sys2Proof.Machine.execMatch g all t d a s
  | .ld g sp t d m => Sys2Proof.Machine.execLd g sp t d m s
  | .st g sp t d m => Sys2Proof.Machine.execSt g sp t d m s
  | .ldm g t d m x => Sys2Proof.Machine.execLdm g t d m x s
  | .stm g t d m x => Sys2Proof.Machine.execStm g t d m x s
  | .ldacq g sp t sc d m => Sys2Proof.Machine.execLdacq g sp t sc d m s
  | .strel g sp t sc d m => Sys2Proof.Machine.execStrel g sp t sc d m s
  | .pref g l2 sp t m => Sys2Proof.Machine.execPref g l2 sp t m s
  | .rflush g a b => Sys2Proof.Machine.execRflush g a b s
  | .atom g o ord sp t d m => Sys2Proof.Machine.execAtom g o ord sp t d m s
  | .red g o ord sp t d m => Sys2Proof.Machine.execRed g o ord sp t d m s
  | .cas g ord sp t d a off b => Sys2Proof.Machine.execCas g ord sp t d a off b s
  | .fence g k sc => Sys2Proof.Machine.execFence g k sc s
  | .freeze g d a b => Sys2Proof.Machine.execFreeze g d a b s
  | .thaw g d a b => Sys2Proof.Machine.execThaw g d a b s
  | .mset g m a => Sys2Proof.Machine.execMset g m a s
  | .mget g d m => Sys2Proof.Machine.execMget g d m s
  | .bar g patch sc => Sys2Proof.Machine.execBar g patch sc s
  | .arrive g sc d m => Sys2Proof.Machine.execArrive g sc d m s
  | .swait g d m => Sys2Proof.Machine.execSwait g d m s
  | .qpush g d a => Sys2Proof.Machine.execQpush g d a s
  | .qpop g d a c => Sys2Proof.Machine.execQpop g d a c s
  | .waitseq g sc a b => Sys2Proof.Machine.execWaitseq g sc a b s
  | .mma g z fa fb d a b c => Sys2Proof.Machine.execMma g z fa fb d a b c s
  | .mmag g z fa fb d a b c => Sys2Proof.Machine.execMmag g z fa fb d a b c s
  | .ldacc g sp d a b => Sys2Proof.Machine.execLdacc g sp d a b s
  | .stacc g sp d a b => Sys2Proof.Machine.execStacc g sp d a b s
  | .zacc g d n => Sys2Proof.Machine.execZacc g d n s
  | .attn g dim d a b c => Sys2Proof.Machine.execAttn g dim d a b c s
  | .attnClose g d => Sys2Proof.Machine.execAttnClose g d s
  | .rescale g p a => Sys2Proof.Machine.execRescale g p a s
  | .tilebarRel g a => Sys2Proof.Machine.execTilebarRel g a s
  | .tilebarWait g d a b => Sys2Proof.Machine.execTilebarWait g d a b s
  | .slot g d a b c => Sys2Proof.Machine.execSlot g d a b c s
  | .btswap g a n => Sys2Proof.Machine.execBtswap g a n s
  | .ldfrag g fa d a b => Sys2Proof.Machine.execLdfrag g fa d a b s
  | .accrd g f64 d a j n => Sys2Proof.Machine.execAccrd g f64 d a j n s
  | .accwr g f64 d a j n => Sys2Proof.Machine.execAccwr g f64 d a j n s
  | .append g f kflags d a chain => Sys2Proof.Machine.execAppend g f kflags d a chain s
  | .copy g f d a chain => Sys2Proof.Machine.execCopy g f d a chain s
  | .stream g f d a chain => Sys2Proof.Machine.execStream g f d a chain s
  | .gather g f d a chain => Sys2Proof.Machine.execGather g f d a chain s
  | .select g f d a chain => Sys2Proof.Machine.execSelect g f d a chain s
  | .coll g f d a chain => Sys2Proof.Machine.execColl g f d a chain s
  | .demote g f d a chain => Sys2Proof.Machine.execDemote g f d a chain s
  | .migrate g f d a chain => Sys2Proof.Machine.execMigrate g f d a chain s
  | .rdctl g d n => Sys2Proof.Machine.execRdctl g d n s
  | .wrctl g n a => Sys2Proof.Machine.execWrctl g n a s
  | .rdspec g r => Sys2Proof.Machine.execRdspec g r s
  | .wrspec g r a => Sys2Proof.Machine.execWrspec g r a s
  | .origin g d n => Sys2Proof.Machine.execOrigin g d n s
  | .rteResume g => Sys2Proof.Machine.execRteResume g s
  | .rteSkip g => Sys2Proof.Machine.execRteSkip g s
  | .rteKill g => Sys2Proof.Machine.execRteKill g s
  | .locality g d => Sys2Proof.Machine.execLocality g d s
  | .rdtime g d => Sys2Proof.Machine.execRdtime g d s
  | .logctlMode g d => Sys2Proof.Machine.execLogctlMode g d s
  | .logctlFlush g => Sys2Proof.Machine.execLogctlFlush g s
  | .mark g a d => Sys2Proof.Machine.execMark g a d s
  | .bpctl g o => Sys2Proof.Machine.execBpctl g o s
  | .ident g q => Sys2Proof.Machine.execIdent g q s
  | .rdcnt g d n => Sys2Proof.Machine.execRdcnt g d n s
  | .blockHeader h => Sys2Proof.Machine.execBlockHeader h s
  | .lineWriteBack core addr => Sys2Proof.Machine.execLineWriteBack core addr s
  | .balloonRun die => Sys2Proof.Machine.execBalloonRun die s
  | .outOfSpaceTimeout ch => Sys2Proof.Machine.execOutOfSpaceTimeout ch s
  | .migrationRound page => Sys2Proof.Machine.execMigrationRound page s
  | .migrationHoldRelease page => Sys2Proof.Machine.execMigrationHoldRelease page s
  | .pageWalk die addr => Sys2Proof.Machine.execPageWalk die addr s
  | .pageResolved page noChunks => Sys2Proof.Machine.execPageResolved page noChunks s
  | .loadDataReturn a => Sys2Proof.Machine.execLoadDataReturn a s
  | .atomicExecute a addr r => Sys2Proof.Machine.execAtomicExecute a addr r s
  | .drainWrite a k => Sys2Proof.Machine.execDrainWrite a k s
  | .drainRelease a => Sys2Proof.Machine.execDrainRelease a s
  | .drainCommand a => Sys2Proof.Machine.execDrainCommand a s
  | .drainFreeze a => Sys2Proof.Machine.execDrainFreeze a s
  | .freezeAcknowledged a => Sys2Proof.Machine.execFreezeAcknowledged a s
  | .drainThaw a => Sys2Proof.Machine.execDrainThaw a s
  | .thawReplicasRemoved c n => Sys2Proof.Machine.execThawReplicasRemoved c n s
  | .syncWordArrival launch tray off n => Sys2Proof.Machine.execSyncWordArrival launch tray off n s
  | .queuePushEffect a => Sys2Proof.Machine.execQueuePushEffect a s
  | .queuePopEffect a => Sys2Proof.Machine.execQueuePopEffect a s
  | .recordComplete c ch seq => Sys2Proof.Machine.execRecordComplete c ch seq s
  | .rflushDone a => Sys2Proof.Machine.execRflushDone a s
  | .logFlushDone a => Sys2Proof.Machine.execLogFlushDone a s
  | .bpctlPropagated a => Sys2Proof.Machine.execBpctlPropagated a s
  | .attnEntry a => Sys2Proof.Machine.execAttnEntry a s
  | .listRoomResume c ch seq => Sys2Proof.Machine.execListRoomResume c ch seq s
  | .fairnessSlice a => Sys2Proof.Machine.execFairnessSlice a s
  | .compactionWindowExpiry launch tray h => Sys2Proof.Machine.execCompactionWindowExpiry launch tray h s
  | .gatheringCloseTimeout launch n => Sys2Proof.Machine.execGatheringCloseTimeout launch n s
  | .handlerGroupStart launch n => Sys2Proof.Machine.execHandlerGroupStart launch n s
  | .sleepWake a => Sys2Proof.Machine.execSleepWake a s
  | .logWaitTimeout c => Sys2Proof.Machine.execLogWaitTimeout c s
  | .replayStuck c => Sys2Proof.Machine.execReplayStuck c s
  | .placementDecision => Sys2Proof.Machine.execPlacementDecision s
  | .slideResume => Sys2Proof.Machine.execSlideResume s
  | .evictedReturn launch tray => Sys2Proof.Machine.execEvictedReturn launch tray s
  | .trayReplace launch tray => Sys2Proof.Machine.execTrayReplace launch tray s
  | .pipelineRebalanceTick => Sys2Proof.Machine.execPipelineRebalanceTick s
  | .prepareReceive src d check body => Sys2Proof.Machine.execPrepareReceive src d check body s
  | .acknowledgeReceive launch pkg => Sys2Proof.Machine.execAcknowledgeReceive launch pkg s
  | .refusalReceive launch pkg => Sys2Proof.Machine.execRefusalReceive launch pkg s
  | .goReceive c chain go => Sys2Proof.Machine.execGoReceive c chain go s
  | .abortReceive c chain seq => Sys2Proof.Machine.execAbortReceive c chain seq s
  | .prepareTimeout launch => Sys2Proof.Machine.execPrepareTimeout launch s
  | .memberLost launch pkg => Sys2Proof.Machine.execMemberLost launch pkg s
  | .stopReceive c chain seq => Sys2Proof.Machine.execStopReceive c chain seq s
  | .exitReport launch report => Sys2Proof.Machine.execExitReport launch report s
  | .coordinatorLost pkg => Sys2Proof.Machine.execCoordinatorLost pkg s
  | .launchRecord c ch => Sys2Proof.Machine.execLaunchRecord c ch s
  | .copyRecord c ch => Sys2Proof.Machine.execCopyRecord c ch s
  | .streamRecord c ch => Sys2Proof.Machine.execStreamRecord c ch s
  | .gatherRecord c ch => Sys2Proof.Machine.execGatherRecord c ch s
  | .selectRecord c ch => Sys2Proof.Machine.execSelectRecord c ch s
  | .collRecord c ch => Sys2Proof.Machine.execCollRecord c ch s
  | .collectiveRun c id => Sys2Proof.Machine.execCollectiveRun c id s
  | .demoteRecord c ch => Sys2Proof.Machine.execDemoteRecord c ch s
  | .migrateRecord c ch => Sys2Proof.Machine.execMigrateRecord c ch s
  | .sweep => Sys2Proof.Machine.execSweep s
  | .dieResetComplete die => Sys2Proof.Machine.execDieResetComplete die s
  | .wakeComplete => Sys2Proof.Machine.execWakeComplete s
  | .checkpointDone => Sys2Proof.Machine.execCheckpointDone s
  | .retentionEntered => Sys2Proof.Machine.execRetentionEntered s
  | .idleTimeout => Sys2Proof.Machine.execIdleTimeout s
  | .mtInvDone => Sys2Proof.Machine.execMtInvDone s
  | .ptpSyncTick => Sys2Proof.Machine.execPtpSyncTick s
  | .mgmtSemClaim p claim => Sys2Proof.Machine.execMgmtSemClaim p claim s
  | .mgmtSemRelease p => Sys2Proof.Machine.execMgmtSemRelease p s
  | .mgmtSemClearDenied p denied => Sys2Proof.Machine.execMgmtSemClearDenied p denied s
  | .coreReset p dies force => Sys2Proof.Machine.execCoreReset p dies force s
  | .uncoreReset p dies => Sys2Proof.Machine.execUncoreReset p dies s
  | .retrain p link => Sys2Proof.Machine.execRetrain p link s
  | .linkTrained link peerPkg peerPort => Sys2Proof.Machine.execLinkTrained link peerPkg peerPort s
  | .domCfgWrite p v reachable => Sys2Proof.Machine.execDomCfgWrite p v reachable s
  | .balloonTailWrite p tail => Sys2Proof.Machine.execBalloonTailWrite p tail s
  | .balloonSizeWrite p log2 => Sys2Proof.Machine.execBalloonSizeWrite p log2 s
  | .checkpointStart p => Sys2Proof.Machine.execCheckpointStart p s
  | .ctxAdopt p c => Sys2Proof.Machine.execCtxAdopt p c s
  | .ctxStop p c => Sys2Proof.Machine.execCtxStop p c s
  | .ctxDestroy p c => Sys2Proof.Machine.execCtxDestroy p c s
  | .ctxCreate p c => Sys2Proof.Machine.execCtxCreate p c s
  | .rangeCommit p c i0 v => Sys2Proof.Machine.execRangeCommit p c i0 v s
  | .rangeInvalidate p c i0 v => Sys2Proof.Machine.execRangeInvalidate p c i0 v s
  | .keyLoad p slot => Sys2Proof.Machine.execKeyLoad p slot s
  | .keyDataWrite p i0 v => Sys2Proof.Machine.execKeyDataWrite p i0 v s
  | .keyCommit p slot => Sys2Proof.Machine.execKeyCommit p slot s
  | .keyClear p slot => Sys2Proof.Machine.execKeyClear p slot s
  | .kemCtWrite p v => Sys2Proof.Machine.execKemCtWrite p v s
  | .chainEnable p c ch => Sys2Proof.Machine.execChainEnable p c ch s
  | .chainDisable p c ch => Sys2Proof.Machine.execChainDisable p c ch s
  | .chSeqWrite p c ch v => Sys2Proof.Machine.execChSeqWrite p c ch v s
  | .chEngineWrite p c ch e => Sys2Proof.Machine.execChEngineWrite p c ch e s
  | .chAdv p c ch v => Sys2Proof.Machine.execChAdv p c ch v s
  | .attGo p kind c => Sys2Proof.Machine.execAttGo p kind c s
  | .fwLoad p => Sys2Proof.Machine.execFwLoad p s
  | .fwRestart p => Sys2Proof.Machine.execFwRestart p s
  | .dbgReq p level => Sys2Proof.Machine.execDbgReq p level s
  | .pwrTargetActive p => Sys2Proof.Machine.execPwrTargetActive p s
  | .pwrTargetRetention p => Sys2Proof.Machine.execPwrTargetRetention p s
  | .pwrTargetOff p => Sys2Proof.Machine.execPwrTargetOff p s
  | .startStepClear p n => Sys2Proof.Machine.execStartStepClear p n s
  | .srvCtlWrite p v => Sys2Proof.Machine.execSrvCtlWrite p v s
  | .srvList ltgt v => Sys2Proof.Machine.execSrvList ltgt v s
  | .mtInvGo v => Sys2Proof.Machine.execMtInvGo v s
  | .timeCfgWrite p v => Sys2Proof.Machine.execTimeCfgWrite p v s
  | .ctxHalt p c => Sys2Proof.Machine.execCtxHalt p c s
  | .ctxResume p c => Sys2Proof.Machine.execCtxResume p c s
  | .ctxDump p c => Sys2Proof.Machine.execCtxDump p c s
  | .ctxLogpWrite p c v => Sys2Proof.Machine.execCtxLogpWrite p c v s
  | .registerWrite p off v => Sys2Proof.Machine.execRegisterWrite p off v s
  | .powerOn => Sys2Proof.Machine.execPowerOn s
  | .hostFundamentalReset p => Sys2Proof.Machine.execHostFundamentalReset p s
  | .startStep n i0 => Sys2Proof.Machine.execStartStep n i0 s
  | .hostLinkDown p => Sys2Proof.Machine.execHostLinkDown p s
  | .flitReceive link f => Sys2Proof.Machine.execFlitReceive link f s
  | .timeSourceLost => Sys2Proof.Machine.execTimeSourceLost s
  | .hostMemoryWrite p addr bytes => Sys2Proof.Machine.execHostMemoryWrite p addr bytes s
  | .hostMemoryRead p addr len => Sys2Proof.Machine.execHostMemoryRead p addr len s
  | .hostLinkUp p => Sys2Proof.Machine.execHostLinkUp p s
  | .softError site correctable => Sys2Proof.Machine.execSoftError site correctable s
  | .powerLoss => Sys2Proof.Machine.execPowerLoss s
  | .ptmMeasurement p hostTime => Sys2Proof.Machine.execPtmMeasurement p hostTime s
  | .cxlCacheSnoop p line => Sys2Proof.Machine.execCxlCacheSnoop p line s

end Sys2Proof.Machine
end

