-- ==== Sys2Proof/Machine/Due.lean ====
section
/-!
DEFINITION. The device's own next step: which of the steps that belong to no instruction word comes next when the outside world has none (log entry 1: DESIGN CHOICE); and the placing of one word.
-/

namespace Sys2Proof.Machine

/-! Candidates (log entry 1: DESIGN CHOICE) -/

/-- Die steps that finish by themselves: resets, invalidations, checkpoints, power. -/
def State.dueDevice (s : State) : List Instr :=
  (s.inReset.map fun q => Instr.dieResetComplete (Fin.ofNat 4 q.1)) ++
  (if bit s.regs.mtInv.toNat 2 then [.mtInvDone] else []) ++
  (if s.ckptBusy then [.checkpointDone] else []) ++
  (if s.waking.isSome then [.wakeComplete] else []) ++
  (if s.retaining then [.retentionEntered] else []) ++
  (if s.busy then [] else [.idleTimeout]) ++
  (if bit s.regs.timeCfg.toNat 2 && decide (7812500 ≤ (s.now - s.syncAt).toNat) then [.ptpSyncTick] else [])

/-- The drain of an outbox entry that stands at place k (R173). -/
def drainOf (a : Agent) (k : Nat) (e : OutEntry) : List Instr :=
  match e.kind with
  | .write _ => [.drainWrite a k]
  | .release _ _ => if k = 0 then [.drainRelease a] else []
  | .arrive _ _ _ _ => if k = 0 then [.drainRelease a] else []
  | .command _ _ _ _ _ _ => if k = 0 then [.drainCommand a] else []
  | .freeze _ _ _ _ => if k = 0 then [.drainFreeze a] else []
  | .thaw _ _ => if k = 0 then [.drainThaw a] else []

/-- Drains, arrivals and thaws, oldest first (R155, R173, R196). -/
def State.dueMemory (s : State) : List Instr :=
  (s.ords.map fun p => (p.2.outbox.zipIdx.map fun q => drainOf p.1 q.2 q.1).flatten).flatten ++
  (s.arriving.map fun x => Instr.syncWordArrival x.launch x.tray x.off x.n) ++
  (s.ctxs.map fun p => p.2.frozen.filterMap fun e => e.thaw.map fun n => Instr.thawReplicasRemoved (Fin.ofNat 256 p.1) n).flatten ++
  (s.migs.map fun m => if m.hold then Instr.migrationHoldRelease (BitVec.ofNat 52 (m.page * 65536)) else .migrationRound (BitVec.ofNat 52 (m.page * 65536)))

/-- What a group waits for that ends by a step of its own (R439). -/
def dueWarp (s : State) (w : Warp) : List Instr :=
  let a := w.agent
  (if w.pend.isEmpty && !(s.requests.any fun r => r.agent == a && s.completable r) then [] else [Instr.loadDataReturn a]) ++
  (match w.wait with
    | some (.freeze _) => [.freezeAcknowledged a]
    | some (.rflush _ _) => [.rflushDone a]
    | some .logFlush => [.logFlushDone a]
    | some .bpctl => [.bpctlPropagated a]
    | some (.sleep _) => [.sleepWake a]
    | some .qpush => [.queuePushEffect a]
    | some .qpop => [.queuePopEffect a]
    | _ => []) ++
  (if !w.attns.isEmpty then [.attnEntry a] else []) ++
  (if ((s.launchOf a).map fun l => l.f.promise).getD false then [.fairnessSlice a] else [])

/-- The engine step of a KIND on a chain (R388). -/
def kindSteps (c : Fin 256) (ch : Fin 64) (kind : Nat) : List Instr :=
  match kind with
  | 2 => [.copyRecord c ch]
  | 3 => [.streamRecord c ch]
  | 4 => [.gatherRecord c ch]
  | 5 => [.selectRecord c ch]
  | 6 => [.collRecord c ch]
  | 7 => [.demoteRecord c ch]
  | 8 => [.migrateRecord c ch]
  | _ => []

/-- Records of a context: those that can complete, and the steps of the distributor and the engines on its chains (R63, R89). -/
def dueChain (s : State) (c ch : Nat) : List Instr :=
  let h := s.chain c ch
  let cf := Fin.ofNat 256 c
  let chf := Fin.ofNat 64 ch
  ((h.recs.filter fun r => r.st == 1 && (r.ending.isSome || launchChain ch)).map fun r => Instr.recordComplete cf chf (BitVec.ofNat 64 r.seq)) ++
  ((h.recs.filter fun r => r.st == 1 && r.hold.isSome).map fun r => kindSteps cf chf r.kind ++ [Instr.listRoomResume cf chf (BitVec.ofNat 64 r.seq)]).flatten ++
  (if h.recs.all fun r => r.st != 0 then []
   else if launchChain ch then [.launchRecord cf chf]
   else match h.engine with
    | 1 => kindSteps cf chf 2 ++ kindSteps cf chf 3
    | n => kindSteps cf chf (n + 2))

/-- Contexts whose replay has diverged because the agent named at CONS has ended (R210); chains and collectives of every context; and the exit reports of the launches this package is a member of (R104, R396). -/
def State.dueRecords (s : State) : List Instr :=
  ((s.ctxs.filter fun p => s.ctxMode p.1 == 2 && p.2.logUsed != 0 && s.namedEnded p.1).map fun p => Instr.replayStuck (Fin.ofNat 256 p.1)) ++
  (s.ctxs.map fun p => ((List.range 64).filter fun ch => !(p.2.chains.getD ch Chain.clear).recs.isEmpty).map fun ch => dueChain s p.1 ch).flatten.flatten ++
  ((s.retires.filter fun r => !s.retireHeld r && !s.listFull r.ring).map fun r => Instr.listRoomResume (Fin.ofNat 256 r.ctx) (Fin.ofNat 64 r.chain) (BitVec.ofNat 64 r.seq)) ++
  (s.colls.map fun m => Instr.collectiveRun (Fin.ofNat 256 m.ctx) (BitVec.ofNat 32 m.id)) ++
  (s.launches.filter fun l => !l.coord).map fun l => Instr.exitReport l.id ⟨BitVec.ofNat 6 s.pkg, 0⟩

/-- Handlers, gatherings and compaction windows (R132, R143). -/
def State.dueLanes (s : State) : List Instr :=
  (s.gathers.map fun g => if g.closed then Instr.handlerGroupStart g.launch g.n else .gatheringCloseTimeout g.launch g.n) ++
  (s.trays.map fun t => t.windows.map fun w => Instr.compactionWindowExpiry t.launch t.idx w.h).flatten

/-- The distributor (R90 to R118): returns before new placements. -/
def State.duePlacement (s : State) : List Instr :=
  (if s.slide.isSome then [.slideResume] else []) ++
  ((s.trays.filter fun t => t.warps.any fun w => w.evicted && !w.gone).map fun t => Instr.evictedReturn t.launch t.idx) ++
  (s.launches.map fun l => l.replace.map fun i => Instr.trayReplace l.id i).flatten ++
  (if (s.launches.any fun l => l.pipe.isSome) && decide (s.pipeAt.toNat / 10000 < s.now.toNat / 10000) then [.pipelineRebalanceTick] else []) ++
  (if s.ctxs.any fun p => p.2.logUsed != 0 || p.2.chains.any fun h => h.recs.any fun r => r.readyAt.isSome then [.placementDecision] else []) ++
  (if s.launches.any fun l => l.phase == .prepared || l.phase == .reserved then .placementDecision :: s.launches.map fun l => Instr.prepareTimeout l.id else [])

/-- Room that is waited for, and waits that have lasted too long (R38, R39, R202, R210). -/
def State.dueWaits (s : State) : List Instr :=
  (s.roomWaits.map fun r => Instr.outOfSpaceTimeout (Fin.ofNat 512 r.channel)) ++
  (s.allWarps.filterMap fun w => match w.wait with
    | some (.room c _ _ _) => some (Instr.outOfSpaceTimeout (Fin.ofNat 512 c))
    | _ => none) ++
  ((s.ctxs.filter fun p => !p.2.waits.isEmpty).map fun p => Instr.logWaitTimeout (Fin.ofNat 256 p.1)) ++
  (s.ctxs.filter fun p => if p.2.logUsed = 0 then s.launches.any fun l => l.ctx == p.1 && s.stranded l else s.ctxMode p.1 == 2 || s.placeStuck p.1).map fun p => Instr.replayStuck (Fin.ofNat 256 p.1)

/-- Whether a step changes the state. -/
def changes (s : State) (i : Instr) : Bool :=
  match exec i s with
  | .next t => t != s
  | .fault _ => false
  | .refused _ => false

/-- A ballooning run that starts, reclaims something or is over (R38). -/
def State.dueBalloon (s : State) : Option Instr := ([0, 1, 2, 3].find? fun d => s.balloonRun d != s).map fun d => .balloonRun (Fin.ofNat 4 d)

/-- The step of the device that is due: the first candidate that changes the state (log entry 1: DESIGN CHOICE). -/
def State.due (s : State) : Option Instr :=
  ((s.dueDevice ++ s.dueMemory ++ (s.allWarps.map (dueWarp s)).flatten ++ s.dueRecords ++ s.dueLanes ++ s.duePlacement ++ s.dueWaits).find? (changes s)).or s.dueBalloon

/-! Placing one word (the host's question of what the first step runs) -/

/-- The fabric address and virtual address where a placed word stands, and the code around it: a header whose block holds the word, or the word itself where it is a header. -/
def wordBase : Nat := 0x100000

/-- The launch of a placed word: one tray of one group, 256 vector registers, 16 KiB of scratchpad, four tiles, RACY, so that it needs no tracking (R185). -/
def wordLaunch (w : Nat) : Launch where
  id := 0
  ctx := 0
  chain := 0
  seq := 1
  recAddr := 0
  f := ⟨0x2000001, BitVec.ofNat 64 wordBase, 0, BitVec.ofNat 64 (1 + 2 ^ 9 + 2 ^ 37 + 2 ^ 46), BitVec.ofNat 64 (1 + 31 * 2 ^ 6 + 16 * 2 ^ 11 + 2 ^ 20 + 4 * 2 ^ 29 + 2 ^ 35), 0, 0⟩
  ox := 0
  oy := 0
  ltag := 0
  phase := .running
  placedAt := 0
  movedAt := 0
  code := memWrite [] (wordBase + 8) 8 w
  badCode := []
  view := []
  pipe := none
  gathers := 0
  descr := ⟨0, 0, 1, 0, 0, 1, 1, 1, 1, 1⟩
  check := 0
  coord := true
  home := 0
  readyAt := 0
  acked := []
  reported := []
  ending := none
  replace := []
  farBars := []
  toldBars := []
  barNos := []

/-- The group of a placed word: its 32 lanes Ready at the word, in a block with the MATRIX flag, or at a header's place. -/
def wordWarp (w : Nat) : Warp :=
  let f : Frame := if bits w 56 8 = 0xFF then .header else .body (BitVec.ofNat 56 wordBase) 1 true
  let w0 := Warp.atEntry 0 0 0 256 (BitVec.ofNat 56 (wordBase + 8)) 0 0
  { w0 with lanes := w0.lanes.map fun l => { l with frame := f } }

/-- The tray of a placed word. -/
def wordTray (w : Nat) : Tray where
  launch := 0
  idx := 0
  core := 0
  stage := 0
  warps := [wordWarp w]
  sp := []
  pm := []
  lp := []
  lpDirty := []
  spRun := 0
  lpUnits := []
  tiles := List.replicate 4 ⟨true, none, 0, 0, none, List.replicate 1024 0, none, false, none⟩ ++ List.replicate 44 ⟨false, none, 0, 0, none, [], none, false, none⟩
  hvec := 0
  lplim := 1
  published := false
  windows := []
  arrivals := []
  freed := false

/-- The context of a placed word: active, with one RACY range that grants read, write and execute over the code. -/
def wordContext : Context :=
  { Context.clear with
    st := 1
    ranges := ⟨BitVec.ofNat 64 wordBase, 0x1002F, BitVec.ofNat 64 wordBase, 0⟩ :: List.replicate 15 Range.clear }

/-- A state in which a word is the next to be fetched: nothing else runs or is due. -/
def State.placeWord (s : State) (w : Nat) : State :=
  { s with
    inputs := []
    turn := none
    vers := []
    rels := []
    ords := []
    ctxs := [(0, wordContext)]
    launches := [wordLaunch w]
    trays := [wordTray w]
    gathers := []
    handlers := []
    slide := none
    colls := []
    farColls := []
    migs := []
    roomWaits := []
    retires := []
    retaining := false
    waking := none
    inReset := []
    regs := { s.regs with mtRoot := 0, dbgCtl := 0 } }

end Sys2Proof.Machine
end

