-- ==== Sys2Proof/Machine/Step.lean ====
section
/-!
DEFINITION. One step of the machine (R173: one step at a time): the oldest step of the outside world, else the device's own step that is due, else the next group's issue, else time passes.
-/

namespace Sys2Proof.Machine

/-- One step. -/
def step (s : State) : Host.Outcome State Fault Refusal :=
  match s.inputs with
  | i :: r => exec i { s with inputs := r }
  | [] => match s.due with
    | some i => exec i s
    | none => match s.nextWarp with
      | none => .next s.wait1
      | some w => match s.issue w with
        | .over t => .next t
        | .run i t => match exec i t with
          | .next u => .next (afterIssue i t u)
          | .fault f => .fault f
          | .refused r => .refused r
        | .brk n i t => match exec i t with
          | .next u => .next (t.breakTrap n i u)
          | .fault _ => .next (t.breakTrap n i t)
          | .refused _ => .next (t.breakTrap n i t)

/-- The state in which one instruction word is the next to be fetched (log entry 1: DESIGN CHOICE): one launch of one tray and one group, in a context whose first range covers the code. -/
def State.withFetchWord (s : State) (nbits w : Nat) : State := s.placeWord (if nbits = 0 then 0 else w)

end Sys2Proof.Machine
end

