-- ==== Sys2Proof/Safety.lean ====
section
/-!
DEFINITION. What counts as a safe run, and the terms in which claims about instructions speak: a group that issues a word, the frame of a step, the lanes as an instruction leaves them,
and the forms of result that the manual's instruction rules share.
-/

namespace Sys2Proof

open Machine

/-- A step that answers a next state. -/
def Machine.Steps (s : State) : Prop := ∃ t, Machine.step s = .next t

/-- The group w issues the word i, and nothing stands before its effect: the word is well formed and names only registers the group holds (R269), and no scalar
it names is pending (R389). -/
structure Issues (s : State) (w : Warp) (i : Instr) : Prop where
  turn  : s.turn = some w.agent
  there : s.warp? w.agent = some w
  wf    : i.wf = true
  holds : i.opnds.all w.holds = true
  known : i.opnds.any w.pendingOpnd = false

/-- Between s and t only the group or handler group of agent a changed, and w' is what it is now: every other group, every byte of every memory, every register of the
package, the contexts, the launches and the order machine are as before. -/
structure OnlyGroup (s t : State) (a : Agent) (w' : Warp) : Prop where
  itself   : t.warp? a = some w'
  others   : ∀ b, b ≠ a → t.warp? b = s.warp? b
  trays    : (t.trays.map fun x => { x with warps := [] }) = s.trays.map fun x => { x with warps := [] }
  handlers : (t.handlers.map fun h => (h.launch, h.n, h.core, h.slot)) = s.handlers.map fun h => (h.launch, h.n, h.core, h.slot)
  rest     : t = { s with trays := t.trays, handlers := t.handlers }

/-- Lane k of a group after an instruction: a front lane that passes the guard as f leaves it and past the word, another front lane past the word and otherwise as before, a lane that is not
of the front as before (R266). -/
def stepped (w : Warp) (g : Guard) (f : Nat → Lane → Lane) (k : Nat) : Lane :=
  if w.front.contains k then
    (if (w.lane k).passes g then f k (w.lane k) else w.lane k).advance
  else w.lane k

/-- What an instruction made of its group: the lanes, the scalar registers and fstat as given, no wait left, everything else of the group as before. -/
structure GroupEffect (w w' : Warp) (sreg : List Word) (fstat : Word32) (lane : Nat → Lane) : Prop where
  rest  : w' = { w with lanes := w'.lanes, sreg := sreg, fstat := fstat, wait := none, waitF := 0 }
  count : w'.lanes.length = w.lanes.length
  lanes : ∀ k, k < w.lanes.length → w'.lane k = lane k

/-- The word i completes in s: only the issuing group changed, in the way given. -/
def Completes (s : State) (w : Warp) (i : Instr) (sreg : List Word) (fstat : Word32) (lane : Nat → Lane) : Prop :=
  ∃ t w', exec i s = .next t ∧ OnlyGroup s t w.agent w' ∧ GroupEffect w w' sreg fstat lane

/-- The vector registers with a result written: one register, or a pair with the low half in the lower register (R267). -/
def putV (v : List Word32) (w64 : Bool) (n r : Nat) : List Word32 :=
  if w64 then (v.set n (BitVec.ofNat 32 r)).set (n + 1) (BitVec.ofNat 32 (r / 2 ^ 32)) else v.set n (BitVec.ofNat 32 r)

/-- A lane with a result in a vector register or pair. -/
def Machine.Lane.withV (l : Lane) (w64 : Bool) (n r : Nat) : Lane := { l with v := putV l.v w64 n r }

/-- The scalar registers with a result written; a write to s0 is ignored (R267). -/
def putS (sreg : List Word) (n : Nat) (x : Word) : List Word := if n = 0 then sreg else sreg.set n x

/-- A group about to receive scalar d late, from the word at pc: one that is halted for the debugger keeps the old value among its pending registers, any other group is as it was (R221). -/
def lateS (w : Warp) (d : BitVec 6) (pc : Pc) : Warp :=
  if w.halted then { w with pend := w.pend ++ [⟨1, d.toNat, pc, [if d = 0 then 0 else (w.sreg.getD d.toNat 0).setWidth 128]⟩] } else w

/-- Flags raised into fstat: a flag once set stays set (R234). -/
def raised (fstat : Word32) (fls : List Nat) : Word32 := fls.foldl (fun x f => x ||| BitVec.ofNat 32 (f % 32)) fstat

/-- The word i writes one result of n bits (32 or 64): lane by lane to a vector register or pair, or once to a scalar register, extended to 64 bits by its sign or by zeros (R266, R267, R295). -/
def Writes (s : State) (w : Warp) (i : Instr) (g : Guard) (d : Reg) (sgn : Bool) {n : Nat} (val : Lane → BitVec n) : Prop :=
  match d with
  | .v r => Completes s w i w.sreg w.fstat (stepped w g fun _ l => l.withV (n == 64) r.toNat (val l).toNat)
  | .s r => Completes s w i
      (if (w.passing g).isEmpty then w.sreg
       else putS w.sreg r.toNat (if sgn then (val Lane.vacant).signExtend 64 else (val Lane.vacant).setWidth 64))
      w.fstat (stepped w g fun _ l => l)

/-- As Writes, for an instruction that raises flags, none of them enabled in fstat: the flags of every passing lane are raised (R234, R237, R326). -/
def WritesF (s : State) (w : Warp) (i : Instr) (g : Guard) (d : Reg) (sgn : Bool) {n : Nat} (val : Lane → BitVec n) (fl : Lane → Nat) : Prop :=
  match d with
  | .v r => (∀ k ∈ w.passing g, bits w.fstat.toNat 8 5 &&& fl (w.lane k) = 0) →
      Completes s w i w.sreg (raised w.fstat ((w.passing g).map fun k => fl (w.lane k)))
        (stepped w g fun _ l => l.withV (n == 64) r.toNat (val l).toNat)
  | .s r => ((w.passing g).isEmpty = false → bits w.fstat.toNat 8 5 &&& fl Lane.vacant = 0) →
      Completes s w i
        (if (w.passing g).isEmpty then w.sreg
         else putS w.sreg r.toNat (if sgn then (val Lane.vacant).signExtend 64 else (val Lane.vacant).setWidth 64))
        (if (w.passing g).isEmpty then w.fstat else raised w.fstat [fl Lane.vacant])
        (stepped w g fun _ l => l)

/-- The word i writes a predicate lane by lane (R266, R267). -/
def WritesP (s : State) (w : Warp) (i : Instr) (g : Guard) (d : BitVec 3) (val : Lane → Bool) : Prop :=
  Completes s w i w.sreg w.fstat (stepped w g fun _ l => l.setPred d (val l))

/-- A source operand as a value of n bits (R267, R268, R295). -/
def opd (w : Warp) (l : Lane) (n : Nat) (a : Src) : BitVec n := BitVec.ofNat n (Machine.rdSrc w l (n == 64) a)

/-- A register operand as a value of n bits. -/
def ropd (w : Warp) (l : Lane) (n : Nat) (a : Reg) : BitVec n := BitVec.ofNat n (Machine.rdReg w l (n == 64) a)

end Sys2Proof
end

