-- ==== Sys2Proof/Certificates/Slice0/Obligations.lean ====
section
/-!
DEFINITION. The statements for the provers: what the instructions and the other steps do, where they complete and what they leave alone, what traps, how a step runs a word, what reset leaves, and
what every step keeps.
-/

namespace Sys2Proof

open Machine

/-! Terms of these statements -/

/-- If the word i reaches its effect, it writes the result val. -/
def Does (s : State) (w : Warp) (i : Instr) (g : Guard) (d : Reg) (sgn : Bool) {n : Nat} (val : Lane → BitVec n) : Prop :=
  Issues s w i → Writes s w i g d sgn val

/-- If the word i reaches its effect, it writes the predicate val. -/
def DoesP (s : State) (w : Warp) (i : Instr) (g : Guard) (d : BitVec 3) (val : Lane → Bool) : Prop :=
  Issues s w i → WritesP s w i g d val

/-- The smaller of two values, read as signed or unsigned. -/
def lesser (sgn : Bool) {n : Nat} (x y : BitVec n) : BitVec n := if (if sgn then x.sle y else x.ule y) then x else y

/-- The larger of two values, read as signed or unsigned. -/
def greater (sgn : Bool) {n : Nat} (x y : BitVec n) : BitVec n := if (if sgn then x.sle y else x.ule y) then y else x

/-- The exact product's high half. -/
def highHalf (sgn : Bool) {n : Nat} (x y : BitVec n) : BitVec n :=
  if sgn then BitVec.ofInt n ((x.toInt * y.toInt) / (2 : Int) ^ n) else BitVec.ofNat n (x.toNat * y.toNat / 2 ^ n)

/-- The quotient truncated towards zero; division by zero gives all ones. -/
def quotient (sgn : Bool) {n : Nat} (x y : BitVec n) : BitVec n :=
  if y = 0 then BitVec.allOnes n else if sgn then x.sdiv y else x / y

/-- The remainder with the sign of x; division by zero gives x. -/
def remainder (sgn : Bool) {n : Nat} (x y : BitVec n) : BitVec n :=
  if y = 0 then x else if sgn then x.srem y else x % y

/-- The exact sum, clamped to the range of the type. -/
def saturated (sgn : Bool) {n : Nat} (x y : BitVec n) : BitVec n :=
  if sgn then BitVec.ofInt n (max (-(2 : Int) ^ (n - 1)) (min ((2 : Int) ^ (n - 1) - 1) (x.toInt + y.toInt)))
  else BitVec.ofNat n (min (2 ^ n - 1) (x.toNat + y.toNat))

/-- The value of the low bits of a register in an integer type of R322. -/
def cvtSource (t : Ty) (x : BitVec 64) : Int :=
  if t.sgn then (x.setWidth t.iw).toInt else (x.setWidth t.iw).toNat

/-- A comparison of R316 of two values of a type. -/
def compares (c : Cond) (sgn : Bool) {n : Nat} (x y : BitVec n) : Bool :=
  let lt := fun (x y : BitVec n) => if sgn then x.slt y else x.ult y
  match c with
  | .eq => x == y | .ne => x != y | .lt => lt x y | .le => !lt y x | .gt => lt y x | .ge => !lt x y

/-- A comparison of R317 of two 32-bit values. -/
def comparesI (c : CondI) (x y : BitVec 32) : Bool :=
  match c with
  | .eq => x == y | .ne => x != y | .lt => x.slt y | .le => x.sle y | .gt => y.slt x | .ge => y.sle x | .ltu => x.ult y | .geu => y.ule x

/-- If the word i reaches its effect and none of its flags is enabled, it writes the result of f and raises the flags of f. -/
def DoesF (s : State) (w : Warp) (i : Instr) (g : Guard) (d : Reg) (n : Nat) (f : Lane → Nat × Nat) (sgn : Bool := false) : Prop :=
  Issues s w i → WritesF s w i g d sgn (n := n) (fun l => BitVec.ofNat n (f l).1) (fun l => (f l).2)

/-- Register width of a floating-point type (R325). -/
def fwidth (t : FTy) : Nat := if t.is64 then 64 else 32

/-- The rational value of a finite code of a format (R222). -/
def valQ (f : FFmt) (x : Nat) : Option ℚ :=
  match f.dec x with
  | .fin neg m e => some ((if neg then -1 else 1) * m * (2 : ℚ) ^ e)
  | .inf _ => none
  | .nan _ _ _ => none

/-- A finite result r is the exact value v rounded in a mode (R238): the nearest value of the format, a tie to the even encoding; or the nearest towards zero, downward or upward. -/
def RoundedTo (f : FFmt) (md : Rnd) (v : ℚ) (r : Nat) : Prop :=
  ∀ q, valQ f r = some q →
    match md with
    | .rne => ∀ z p, valQ f z = some p → |q - v| ≤ |p - v| ∧ (p ≠ q → |p - v| = |q - v| → r % 2 = 0)
    | .rz => 0 ≤ q * v ∧ |q| ≤ |v| ∧ ∀ z p, valQ f z = some p → 0 ≤ p * v → |p| ≤ |v| → |p| ≤ |q|
    | .rdn => q ≤ v ∧ ∀ z p, valQ f z = some p → p ≤ v → p ≤ q
    | .rup => v ≤ q ∧ ∀ z p, valQ f z = some p → v ≤ p → q ≤ p

/-- For a finite result: rounded from v, and inexact is raised exactly when it differs from v (R235). -/
def Rounds (f : FFmt) (md : Rnd) (v : ℚ) (r : Nat × Nat) : Prop :=
  RoundedTo f md v r.1 ∧ ∀ q, valQ f r.1 = some q → (r.2 &&& flNX ≠ 0 ↔ q ≠ v)

/-- The lane from which shfl reads for virtual lane k (R342): the lane with the identity B[15:0], or the virtual lane computed; none if there is none, or if it is not in the front. -/
def SourceLane (w : Warp) (m : ShflMode) (k b : Nat) (j : Nat) : Prop :=
  j < 32 ∧ j ∈ w.front ∧ (w.lane j).ident ≠ 0xFFFF ∧
    match m with
    | .id => (w.lane j).ident.toNat = b % 2 ^ 16 ∧ ∀ i, i < j → (w.lane i).ident.toNat ≠ b % 2 ^ 16
    | .vl => j = b
    | .up => j + b = k
    | .down => j = k + b
    | .xor => j = k ^^^ b

/-- What each contributing lane brings to a reduction or a scan: its A, in the type. -/
def contributions (w : Warp) (g : Guard) (t : RedTy) (a : Src) : List Nat :=
  (w.passing g).map fun k => if t.isF then rdF w (w.lane k) t.fty a else (opd w (w.lane k) (if t.is64 then 64 else 32) a).toNat

/-- The flags of combining a list from the left, one step after another. -/
def stepFlags (o : RedOp) (t : RedTy) (md : RM) (acc : Nat) : List Nat → Nat
  | [] => 0
  | x :: xs => (redStep o t md acc x).2 ||| stepFlags o t md (redStep o t md acc x).1 xs

/-- Lanes that act one after another, each on the state the lane before it left: P s k s1 v says that lane k acts on s, leaves s1 and receives the value v. -/
inductive InTurn (P : State → Nat → State → Nat → Prop) : State → List Nat → State → List Nat → Prop
  | nil (s : State) : InTurn P s [] s []
  | cons {s s1 s2 : State} {k v : Nat} {ks vs : List Nat} (h : P s k s1 v) (t : InTurn P s1 ks s2 vs) : InTurn P s (k :: ks) s2 (v :: vs)

/-- A plain load of lane k (R351, R352, R167, R174): its access passes its checks with target t and is tracked, the memory side serves it, no word read is poisoned, and v is what its agent reads there. -/
def LoadOne (w : Warp) (sp : Space) (width : Nat) (addr : Lane → Nat) (mask : Nat → Word32) (s : State) (k : Nat) (s' : State) (v : Nat) : Prop :=
  ∃ t s1, s.check w k sp .load false true (addr (w.lane k)) width mask = .ok (t, s1) ∧ (∀ fa, t.fab = some fa → s.side fa = .served) ∧
    let r := s1.readAt w.agent t width true
    r.1.poison = false ∧ v = r.1.val ∧ s' = r.2.sampled w k t 1 (s1.servedBy w.agent t)

/-- A plain store of lane k (R351, R352, R173): its access passes its checks with target t, and its bytes join the outbox, or go to the thread's lane-private array at once. -/
def StoreOne (w : Warp) (sp : Space) (width : Nat) (addr : Lane → Nat) (mask : Nat → Word32) (get : Lane → Nat) (s : State) (k : Nat) (s' : State) (_ : Nat) : Prop :=
  ∃ t s1, s.check w k sp .store false true (addr (w.lane k)) width mask = .ok (t, s1) ∧
    s' = ((s1.storeAt w.agent (w.lane k) k t (get (w.lane k))).publishFor w.agent sp).sampled w k t 2 (s1.servedBy w.agent t)

/-- A release store of lane k outside the lane-private arrays (R355, R169, R173): no deferred store record is held and no write of its agent is pending, its own write would be performed now, with its room, and write and release join the outbox as one entry. -/
def ReleaseOne (w : Warp) (sp : Space) (width : Nat) (sc : Scope) (addr : Lane → Nat) (mask : Nat → Word32) (get : Lane → Nat) (s : State) (k : Nat) (s' : State) : Prop :=
  ∃ t s1 s2, s.check w k sp .store false false (addr (w.lane k)) width mask = .ok (t, s1) ∧ ((s.warp? w.agent).bind Warp.dsr) = none ∧ (s.ord w.agent).hasWrite = false ∧
    let op := writeOp (w.lane k) k t (get (w.lane k))
    s1.writeInHold op = none ∧ s1.writeFails op = none ∧ s1.writeAbsent op = none ∧ s1.roomFor op = some s2 ∧
    s' = (((s2.walkLines op).push w.agent (.release sc (some op)) true).publishFor w.agent sp).sampled w k t 2 (s1.servedBy w.agent t)

/-- An acquire load of lane k in a launch that is neither recorded nor replayed (R355, R175): the newest version is read, and the agent acquires from the releases that published it;
from none if no release has published it (R437). -/
def AcquireOne (w : Warp) (sp : Space) (width : Nat) (sc : Scope) (addr : Lane → Nat) (mask : Nat → Word32) (s : State) (k : Nat) (s' : State) (v : Nat) : Prop :=
  (s.ord w.agent).hasRelease = false ∧ (s.who w.agent).mode = 0 ∧
  ∃ t s1, s.check w k sp .load false false (addr (w.lane k)) width mask = .ok (t, s1) ∧ (∀ fa, t.fab = some fa → s.side fa = .served) ∧
    let r := s1.readAt w.agent t width false
    let unpublished := (s1.verName (r.1.vers.headD ⟨0, none, .init, false⟩)).2.2
    r.1.poison = false ∧ v = r.1.val ∧
      s' = (r.2.acquire w.agent sc (if unpublished then [] else r.1.pubs)).sampled w k t 1 (s1.servedBy w.agent t)

/-- An atomic of lane k in a launch that is neither recorded nor replayed (R190, R359 to R361): nothing of its own is pending at the target, the memory side serves it and has room, the newest version is not poisoned; it reads the old value v, performs its release,
writes what upd makes of the old value at the word's home, registered to no core, and acquires, in one step. -/
def AtomicOne (w : Warp) (sp : Space) (width : Nat) (addr : Lane → Nat) (mask : Nat → Word32) (ret flt : Bool) (o : AtomOrd) (upd : Lane → Nat → Option Nat)
    (s : State) (k : Nat) (s' : State) (v : Nat) : Prop :=
  (s.who w.agent).mode = 0 ∧
  ∃ t s1 s2, s.check w k sp (if ret then .atom else .red) flt false (addr (w.lane k)) width mask = .ok (t, s1) ∧
    s.pendingAt w.agent t = false ∧ (o.rel.isSome = true → (s.ord w.agent).outbox = []) ∧ (o.acq.isSome = true → (s.ord w.agent).hasRelease = false) ∧
    (∀ fa, t.fab = some fa → s.side fa = .served ∧ (ret = false → s.redFails fa = none)) ∧
    let r := s1.readAt w.agent t width false
    let op := (upd (w.lane k) r.1.val).map fun x => writeOp (w.lane k) k t x
    r.1.poison = false ∧ v = r.1.val ∧ (match op with
      | some x => r.2.roomFor x = some s2
      | none => s2 = r.2) ∧
    let rel := match o.rel with
      | some sc => (Pub.rel (s2.releaseNow w.agent sc).1, (s2.releaseNow w.agent sc).2.closeRegion w.agent ((s2.releaseNow w.agent sc).2.ord w.agent).region)
      | none => (Pub.none, s2)
    let s3 := match op with
      | some x => rel.2.applyAt w.agent x rel.1 none
      | none => rel.2.recall t
    let s4 := match o.acq with
      | some sc => s3.acquire w.agent sc r.1.pubs
      | none => s3
    s' = ((s4.crossAtom w.agent (w.lane k) k t width ret).publishFor w.agent sp).sampled w k t 3 (s1.servedBy w.agent t)

/-- What a memory instruction leaves once its passing lanes have acted and left s': the group's lanes as given, the notes of pending registers added, and nothing else of s' changed. -/
def AfterLanes (s' : State) (w : Warp) (i : Instr) (s : State) (pend : List Pend) (mreg : List Word) (lane : Nat → Lane) : Prop :=
  ∃ t w', exec i s = .next t ∧ OnlyGroup s' t w.agent w' ∧ w' = { w with lanes := w'.lanes, mreg := mreg, pend := w.pend ++ pend, wait := none, waitF := 0 } ∧
    w'.lanes.length = w.lanes.length ∧ ∀ k, k < w.lanes.length → w'.lane k = lane k

/-- The place of a passing lane among the passing lanes. -/
def rankOf (w : Warp) (g : Guard) (k : Nat) : Nat := ((w.passing g).takeWhile (· != k)).length

/-- A vector register, pair or quad of a lane with a value, lowest register first (R349). -/
def Machine.Lane.withW (l : Lane) (d width v : Nat) : Lane :=
  { l with v := (List.range (if width ≤ 4 then 1 else width / 4)).foldl (fun x j => x.set (d + j) (BitVec.ofNat 32 (v / 2 ^ (32 * j)))) l.v }

/-- The low bytes of a vector register, pair or quad of a lane (R349). -/
def Machine.Lane.storeVal (l : Lane) (d width : Nat) : Nat :=
  ((List.range (if width ≤ 4 then 1 else width / 4)).map fun j => (l.v.getD (d + j) 0).toNat * 2 ^ (32 * j)).sum % 2 ^ (8 * width)

/-- A circular-buffer register after its post-increment (R158): OFF plus INC mod SIZE, the other fields kept. -/
def modNext (m : Word) : Word :=
  let size : Int := 16 * ((m.toNat / 2 ^ 15) % 2 ^ 15 : Nat)
  let off : Int := ((m.toNat / 2 ^ 30) % 2 ^ 19 : Nat)
  let inc : Int := (BitVec.ofNat 15 (m.toNat / 2 ^ 49)).toInt
  BitVec.ofInt 64 (m.toNat - off * 2 ^ 30 + ((off + inc) % size) * 2 ^ 30)

/-- A target that may be transferred to (R297): within 56 bits, a multiple of 8, and a header stands there. -/
def GoodTarget (s : State) (la : Launch) (t : Nat) : Prop :=
  t < 2 ^ 56 ∧ t % 8 = 0 ∧ ∃ x, s.fetch la t = .word x ∧ bits x.toNat 56 8 = 0xFF

/-- A lane that has transferred to a header. -/
def Machine.Lane.atHeader (l : Lane) (t : Nat) : Lane := { l with pc := BitVec.ofNat 56 t, frame := .header, exempt := false }

/-- The front after a transfer: the passing lanes that go stand at their targets, the other front lanes are past the word (R297, R266). -/
def transferred (w : Warp) (g : Guard) (goes : Bool) (target : Nat → Nat) (f : Lane → Lane) (k : Nat) : Lane :=
  if w.front.contains k then
    (if (w.lane k).passes g && goes then (f (w.lane k)).atHeader (target k) else (w.lane k).advance)
  else w.lane k

/-- The label of a relative transfer: OFF words from the instruction (R299). -/
def label (w : Warp) (off : BitVec 20) : Nat := (w.frontPc.setWidth 64 + (off.signExtend 64 <<< 3)).toNat

/-- The slice a group takes (R136): the Ready lanes at the smallest PC above the issue address, if there are any. -/
def IsSlice (w : Warp) (m : Option Word32) : Prop :=
  let up := fun k => k < w.lanes.length ∧ (w.lane k).st = .ready ∧ ∃ j, j < w.lanes.length ∧ (w.lane j).st = .ready ∧ (w.lane j).pc < (w.lane k).pc ∧
    ∀ i, i < w.lanes.length → (w.lane i).st = .ready → (w.lane j).pc ≤ (w.lane i).pc
  match m with
  | none => ∀ k, ¬ up k
  | some x => ∀ k, k < 32 → (x.getLsbD k = true ↔ up k ∧ ∀ i, up i → (w.lane k).pc ≤ (w.lane i).pc)

/-- Something the group may release: it holds no deferred store record and none of its writes is pending (R168, R169). -/
def Clean (s : State) (w : Warp) : Prop := w.dsr = none ∧ (s.ord w.agent).hasWrite = false

/-- The word i completes: the state becomes s' but for the issuing group, which is left with the scalars and lanes given. -/
def CompletesFrom (s s' : State) (w : Warp) (i : Instr) (sreg : List Word) (lane : Nat → Lane) : Prop :=
  ∃ t w', exec i s = .next t ∧ OnlyGroup s' t w.agent w' ∧ GroupEffect w w' sreg w.fstat lane

/-- One lane of arrive (R364): its access passes its checks, and a release with the arrival of n bytes at its sync word joins the outbox. -/
def ArriveOne (w : Warp) (sc : Scope) (addr : Lane → Nat) (mask : Nat → Word32) (n : Lane → Nat) (s : State) (k : Nat) (s' : State) (_ : Nat) : Prop :=
  ∃ t s1 tr, s.check w k .sp .store false false (addr (w.lane k)) 16 mask = .ok (t, s1) ∧ s1.laneTray w (w.lane k) = some tr ∧
    s' = s1.push w.agent (.arrive sc tr.idx (addr (w.lane k)) (n (w.lane k))) true

/-- The checks of one lane of swait (R365), its word being unpoisoned (R199); the value is the deckle index of the tray that holds its word. -/
def SwaitCheckOne (w : Warp) (addr : Lane → Nat) (mask : Nat → Word32) (s : State) (k : Nat) (s' : State) (tray : Nat) : Prop :=
  ∃ t tr, s.check w k .sp .load false false (addr (w.lane k)) 16 mask = .ok (t, s') ∧ s'.laneTray w (w.lane k) = some tr ∧ tray = tr.idx ∧
    s'.spPoison (w.agent.launchId.getD 0) tr.idx (addr (w.lane k)) 16 = false

/-- One lane of swait (R365, R156): GEN of its word, read as a synchronising read (R174), differs from the expected generation, the lane acquires at tray scope from the arrivals counted into the generations up to it, and receives GEN. -/
def SwaitOne (w : Warp) (la : Launch) (addr : Lane → Nat) (tray : Nat → Nat) (e : Lane → Nat) (s : State) (k : Nat) (s' : State) (gen : Nat) : Prop :=
  let off := addr (w.lane k)
  let r := s.readLocs w.agent 15 false false false ((List.range ((off % 4 + 16 + 3) / 4)).map fun j => .sp la.id (tray k) (off / 4 + j))
  gen = r.1.val / 2 ^ 64 % 2 ^ 32 ∧ gen ≠ e (w.lane k) ∧
    s' = r.2.acquire w.agent .tray (s.arrivalRels la.id (tray k) (addr (w.lane k)) gen)

/-- n bits of a word from lo, placed at another bit. -/
def fieldAt (x : Word) (lo n to_ : Nat) : Nat := x.toNat / 2 ^ lo % 2 ^ n * 2 ^ to_

/-- What rdctl reads of the registers from 0x002 to 0x008 (R400). -/
def controlValue (s : State) (w : Warp) (la : Launch) (t : Tray) (n : Nat) : Nat :=
  let f := la.f
  if n = 2 then fieldAt f.w0 16 3 0 + fieldAt f.w0 23 4 3 + fieldAt f.w0 19 4 12 + (if t.published then 2 ^ 16 else 0)
  else if n = 3 then fieldAt f.w2 0 56 0
  else if n = 4 then fieldAt f.w3 0 18 0 + fieldAt f.w3 37 18 18
  else if n = 5 then fieldAt f.w4 0 51 0
  else if n = 6 then ((List.range t.tiles.length).map fun j => if (t.tiles.getD j Tile.absent).alloc then 2 ^ j else 0).sum
  else if n = 7 then la.ctx + 2 ^ 8 * s.pkg
  else match w.dsr with
    | none => 0
    | some r => 1 + (if r.more then 2 else 0) + r.vlane * 2 ^ 4 + r.reason.toNat * 2 ^ 16

/-- The group w, of the tray tr, may act on the tiles ns: they are allocated, FREE, its own or of a group in also, and no attn of its own holds one (R255, R371). -/
structure TilesFree (s : State) (w : Warp) (tr : Tray) (also ns : List Nat) : Prop where
  place : ∃ l ti gr, w.agent = .group l ti gr ∧ s.tray? l ti = some tr ∧ tr.launch = l ∧ tr.idx = ti
  alloc : ∀ n ∈ ns, (tr.tile n).alloc = true
  owner : ∀ n ∈ ns, ∀ o, (tr.tile n).owner = some o → o = w.agent.groupNo ∨ o ∈ also
  idle  : ∀ n ∈ ns, (tr.tile n).held ≠ some w.agent.groupNo

/-- Between s and t the group w changed as given, it owns the tiles ns of its tray tr, and their words are as P says; every other tile, every other group and tray, every byte of memory and every register is as before. -/
def TileEffect (s t : State) (w : Warp) (tr : Tray) (ns : List Nat) (sreg : List Word) (fstat : Word32) (lane : Nat → Lane) (P : Nat → List Word32 → Prop) : Prop :=
  ∃ tr' w', t.tray? tr.launch tr.idx = some tr' ∧ t.warp? w.agent = some w' ∧ GroupEffect w w' sreg fstat lane ∧
    tr' = { tr with warps := tr'.warps, tiles := tr'.tiles } ∧ tr'.tiles.length = tr.tiles.length ∧
    (∀ n, n ∉ ns → tr'.tile n = tr.tile n) ∧
    (∀ n ∈ ns, ∃ dd, P n dd ∧ tr'.tile n = { tr.tile n with owner := some w.agent.groupNo, ownerPc := w.frontPc, data := dd }) ∧
    (∀ b, b ≠ w.agent → t.warp? b = s.warp? b) ∧ (∀ l i, (l, i) ≠ (tr.launch, tr.idx) → t.tray? l i = s.tray? l i) ∧ t = { s with trays := t.trays }

/-- A lane with m vector registers from d upward replaced. -/
def Machine.Lane.withRun (l : Lane) (d m : Nat) (f : Nat → Word32) : Lane := { l with v := (List.range m).foldl (fun x i => x.set (d + i) (f i)) l.v }

/-- Element (i, j) of a tile's words, in 32 bits or 64. -/
def elemAt (dd : List Word32) (f64 : Bool) (i j : Nat) : Nat :=
  if f64 then (dd.getD (32 * i + 2 * j) 0).toNat + 2 ^ 32 * (dd.getD (32 * i + 2 * j + 1) 0).toNat else (dd.getD (32 * i + j) 0).toNat

/-- A row of an operand fragment: k elements of the format from the 16 registers at v of a lane, and the scale words that follow from register c (R373, R374). -/
def fragRow (f : Fmt) (k v c n : Nat) (l : Lane) : MRow := f.row k (l.rget v 16) ((List.range n).map fun j => (l.v.getD (c + j) 0).toNat)

/-- A finite element as a rational. -/
def fvQ (x : FV) : Option ℚ :=
  match x with
  | .fin neg m e => some ((if neg then -1 else 1) * m * (2 : ℚ) ^ e)
  | .inf _ => none
  | .nan _ _ _ => none

/-- A tile's words from 32 rows of 32. -/
def rowsOf (dd : List Word32) : List (List Word32) := (List.range 32).map fun i => (dd.drop (32 * i)).take 32

/-- A host write through a port that reaches a device that is not Idle: the device is on and stays on, and the port's link is up (R50, R74). -/
def Reaches (s : State) (p : Port) : Prop := s.boot.off = false ∧ s.portIsUp p.val = true ∧ s.power ≠ 1 ∧ s.power ≠ 3

/-- Whether the port holds the management semaphore (R48). -/
def HoldsSem (s : State) (p : Port) : Prop := s.regs.mgmtSem.toNat / 2 ^ 8 % 4 = 2 + p.val

/-- The state with a write counted as activity (R74) and the package's registers changed. -/
def wrote (s : State) (f : Regs → Regs) : State := { s with active := s.now, regs := f s.regs }

/-- The state with a write counted as activity and a context changed. -/
def wroteCtx (s : State) (c : Nat) (f : Context → Context) : State := { s.setCtx c (f (s.ctx c)) with active := s.now }

/-- DENIED set for a port. -/
def denied (p : Port) (r : Regs) : Regs := { r with mgmtSem := r.mgmtSem ||| BitVec.ofNat 64 (2 ^ (16 + p.val)) }

/-- What every start leaves (R85): the registers at their reset values, no context, key, launch or group, the time base at 0, start step 1 next, and NOR as it was but for the steps marked for erasure. -/
def Restarted (s t : State) (cold : Bool) : Prop :=
  t.regs = Regs.reset ∧ t.ctxs = [] ∧ t.keys = [] ∧ t.kemKey = none ∧ t.launches = [] ∧ t.trays = [] ∧ t.handlers = [] ∧ t.gathers = [] ∧ t.ords = [] ∧ t.now = 0 ∧ t.boot.next = some 1 ∧ t.boot.off = false ∧
    t.boot.cold = cold ∧ t.boot.rollback = s.boot.rollback ∧ t.boot.owner = s.boot.owner ∧ t.boot.helper = s.boot.helper ∧ t.safeTier = s.safeTier ∧
    t.boot.steps = (s.boot.steps.map fun r => if r.clr then ⟨false, 0, 0, false⟩ else r) ∧ (s.regd = [] → s.dirty = [] → t.mem = s.mem)

/-- A flit in sequence has arrived on a link that is up (R21, R22). -/
def Arrives (s : State) (k : Fin 16) (f : Wire) : Prop :=
  s.linkState k.val = 2 ∧ flitWhole f.fec f.bytes = true ∧ (Flit.ofBytes f.bytes f.msgs).bad = false ∧ (Flit.ofBytes f.bytes f.msgs).seq.toNat = (s.links.getD k.val ⟨0, 0, 0, [], 0, 0⟩).expect

/-- The state that has taken it, before what its messages do. -/
def arrived (s : State) (k : Fin 16) (f : Wire) : State :=
  let lk := s.links.getD k.val ⟨0, 0, 0, [], 0, 0⟩
  let g := Flit.ofBytes f.bytes f.msgs
  { s with
    links := s.links.set k.val { lk with expect := (lk.expect + 1) % 4096, retries := 0, replay := lk.replay.filter fun (y : Flit) => decide ((g.ack.toNat + 4096 - y.seq.toNat) % 4096 ≥ 2048) }
    delivered := s.delivered ++ [(k.val, g)] }

/-- A record as a step fetched it: its words are those of memory. -/
def fetched (s : State) (r : Rec) : Rec := { r with body := s.recWords r.addr }

/-- The oldest unstarted record of a chain, as fetched, with its KIND (R61, R63); the unit works, the chain's engine runs that KIND, no command of the chain waits, and the numbers of its records differ. -/
def Next (s : State) (c ch kind : Nat) (r : Rec) : Prop :=
  s.working = true ∧ 8 ≤ ch ∧ (s.ctx c).chains.length = 64 ∧ ch < 64 ∧ (s.chain c ch).engine = engineOf kind ∧ (∀ x ∈ (s.chain c ch).recs, x.hold = none) ∧ ((s.chain c ch).recs.map Rec.seq).Nodup ∧
    ∃ r0, s.nextRec c ch = some r0 ∧ r = fetched s r0 ∧ r.kind = kind ∧ s.recBad r0.addr = false

/-- A record in its final STATUS (R63, R65): in the chain, and in memory where the completion word has no address. -/
def Finished (s t : State) (c ch : Nat) (r : Rec) (st : Word32) : Prop :=
  (∃ r', t.rec? c ch r.seq = some r' ∧ 2 ≤ r'.st ∧ r'.ending = some st) ∧
    ((s.chain c ch).cmpl.toNat / 2 ^ 3 % 2 ^ 49 = 0 → s.mem.wf = true → r.addr % 64 = 0 → memRead t.mem (r.addr + 4) 4 = st.toNat ∧ ∀ x, x < r.addr + 4 ∨ r.addr + 8 ≤ x → memGet t.mem x = memGet s.mem x)

/-- A command that ran to its end (R63, R65): what it left is s', and its record is started, with the STATUS it will complete with. -/
def Ran (s' t : State) (e : Eng) (st : Word32) : Prop :=
  t.mem = s'.mem ∧ t.vers = s'.vers ∧ t.trays = s'.trays ∧ t.regs = s'.regs ∧ t.ords = s'.ords ∧ t.arriving = s'.arriving ∧
    ∀ r, s'.rec? e.c e.ch e.seq = some r → ∃ r', t.rec? e.c e.ch e.seq = some r' ∧ r'.st = r.st ∧ r'.ending = some (r.ending.getD st) ∧ r'.hold = none

end Sys2Proof

/-! The statements -/

section

open Sys2Proof Sys2Proof.Machine

/-! Integer arithmetic, logic, shifts, bit fields, comparisons (R309 to R323) -/

/-- The two- and three-source arithmetic, abs, neg and addi, the moves, the logic and the shifts write the result of R309, R311 to R315, computed on bit vectors of the type's width, whatever the operand forms, with a vector or a scalar destination, and nothing else of the machine changes; the count of a shift is the low 32 bits
of B or the immediate, and a count of the full width or more is allowed. -/
def Obligations.ArithmeticLogicShifts : Prop :=
  (∀ (s : State) (w : Warp) (g : Guard) (t : IntTy) (d : Reg) (a b c : Src) (imm : BitVec 32),
      let x := fun l => opd w l t.bits a
      let y := fun l => opd w l t.bits b
      let z := fun l => opd w l t.bits c
      Does s w (.add g t d a b) g d t.sgn (fun l => x l + y l) ∧
      Does s w (.sub g t d a b) g d t.sgn (fun l => x l - y l) ∧
      Does s w (.mul g t d a b) g d t.sgn (fun l => x l * y l) ∧
      Does s w (.mulhi g t d a b) g d t.sgn (fun l => highHalf t.sgn (x l) (y l)) ∧
      Does s w (.mad g t d a b c) g d t.sgn (fun l => x l * y l + z l) ∧
      Does s w (.div g t d a b) g d t.sgn (fun l => quotient t.sgn (x l) (y l)) ∧
      Does s w (.rem g t d a b) g d t.sgn (fun l => remainder t.sgn (x l) (y l)) ∧
      Does s w (.min g t d a b) g d t.sgn (fun l => lesser t.sgn (x l) (y l)) ∧
      Does s w (.max g t d a b) g d t.sgn (fun l => greater t.sgn (x l) (y l)) ∧
      Does s w (.addsat g t d a b) g d t.sgn (fun l => saturated t.sgn (x l) (y l)) ∧
      Does s w (.clamp g t d a b c) g d t.sgn (fun l => lesser t.sgn (greater t.sgn (x l) (y l)) (z l)) ∧
      Does s w (.abs g t d a) g d t.sgn (fun l => if (x l).msb then -x l else x l) ∧
      Does s w (.neg g t d a) g d t.sgn (fun l => -x l) ∧
      Does s w (.addi g t d a imm) g d t.sgn (fun l => x l + imm.signExtend t.bits)) ∧
  (∀ (s : State) (w : Warp) (g : Guard) (t : BitTy) (d : Reg) (a b : Src) (imm : BitVec 32),
      let x := fun l => opd w l t.bits a
      let y := fun l => opd w l t.bits b
      let n := fun l => (y l).toNat % 2 ^ 32
      Does s w (.mov g t d a) g d false x ∧
      Does s w (.movi g .b32 d imm) g d false (fun _ => imm) ∧
      Does s w (.movi g .i64 d imm) g d false (fun _ => imm.signExtend 64) ∧
      Does s w (.movi g .n64 d imm) g d false (fun _ => imm.setWidth 64) ∧
      Does s w (.movih g d imm) g d false (fun l => imm ++ (ropd w l 64 d).setWidth 32) ∧
      Does s w (.and g t d a b) g d false (fun l => x l &&& y l) ∧
      Does s w (.or g t d a b) g d false (fun l => x l ||| y l) ∧
      Does s w (.xor g t d a b) g d false (fun l => x l ^^^ y l) ∧
      Does s w (.not g t d a) g d false (fun l => ~~~x l) ∧
      Does s w (.andn g t d a b) g d false (fun l => x l &&& ~~~y l) ∧
      Does s w (.shl g t d a b) g d false (fun l => x l <<< n l) ∧
      Does s w (.shr g t d a b) g d false (fun l => x l >>> n l) ∧
      Does s w (.sar g t d a b) g d false (fun l => (x l).sshiftRight (n l)) ∧
      Does s w (.rot g t d a b) g d false (fun l => (x l).rotateLeft (n l)) ∧
      Does s w (.andi g t d a imm) g d false (fun l => x l &&& imm.signExtend t.bits) ∧
      Does s w (.ori g t d a imm) g d false (fun l => x l ||| imm.signExtend t.bits) ∧
      Does s w (.xori g t d a imm) g d false (fun l => x l ^^^ imm.signExtend t.bits) ∧
      Does s w (.shli g t d a imm) g d false (fun l => x l <<< imm.toNat) ∧
      Does s w (.shri g t d a imm) g d false (fun l => x l >>> imm.toNat) ∧
      Does s w (.sari g t d a imm) g d false (fun l => (x l).sshiftRight imm.toNat))

/-- Bit fields, bit counts, width conversion and address arithmetic write the result of R320 to R323, bit by bit where the rule says so: for bfe, bfi, brev, bswap every bit of the result is given,
for the counts the number of bits. -/
def Obligations.BitFieldsAndWidths : Prop :=
  ∀ (s : State) (w : Warp) (g : Guard) (d : Reg) (a b c : Src),
    (∀ (t : IntTy) (f : (l : Lane) → BitVec t.bits),
      let p := fun l => min ((opd w l t.bits b).toNat % 256) t.bits
      let n := fun l => min ((opd w l t.bits c).toNat % 256) (t.bits - p l)
      (∀ l k, k < t.bits → (f l).getLsbD k =
        if n l = 0 then false
        else if k < n l then (opd w l t.bits a).getLsbD (p l + k)
        else t.sgn && (opd w l t.bits a).getLsbD (p l + n l - 1)) →
      Does s w (.bfe g t d a b c) g d t.sgn f) ∧
    (∀ (t : BitTy) (f : (l : Lane) → BitVec t.bits),
      let x := fun l => opd w l t.bits a
      let p := fun l => min ((opd w l t.bits b).toNat % 256) t.bits
      let n := fun l => min ((opd w l t.bits c).toNat % 256) (t.bits - p l)
      let old := fun l => ropd w l t.bits d
      let bitsOf := fun l => (List.range t.bits).filter fun k => (x l).getLsbD k
      ((∀ l k, k < t.bits → (f l).getLsbD k = if p l ≤ k ∧ k < p l + n l then (x l).getLsbD (k - p l) else (old l).getLsbD k) →
        Does s w (.bfi g t d a b c) g d false f) ∧
      ((∀ l, (f l).toNat = (bitsOf l).length) → Does s w (.popc g t d a) g d false f) ∧
      ((∀ l, (f l).toNat = ((bitsOf l).getLast?.map fun k => t.bits - 1 - k).getD t.bits) → Does s w (.clz g t d a) g d false f) ∧
      ((∀ l, (f l).toNat = (bitsOf l).headD t.bits) → Does s w (.ctz g t d a) g d false f) ∧
      ((∀ l k, k < t.bits → (f l).getLsbD (t.bits - 1 - k) = (x l).getLsbD k) → Does s w (.brev g t d a) g d false f) ∧
      ((∀ l k j, k < t.bits / 8 → j < 8 → (f l).getLsbD (8 * (t.bits / 8 - 1 - k) + j) = (x l).getLsbD (8 * k + j)) →
        Does s w (.bswap g t d a) g d false f)) ∧
    (∀ (dt st : Ty) (sat : Bool),
      let v := fun l => cvtSource st ((opd w l (if st.is64 then 64 else 32) a).setWidth 64)
      let lo : Int := if dt.sgn then -(2 : Int) ^ (dt.iw - 1) else 0
      let hi : Int := if dt.sgn then (2 : Int) ^ (dt.iw - 1) - 1 else (2 : Int) ^ dt.iw - 1
      let r := fun l => BitVec.ofInt dt.iw (if sat then max lo (min hi (v l)) else v l)
      (dt.is64 = true → Does s w (.cvti g dt st sat d a) g d dt.sgn fun l => (r l).setWidth 64) ∧
      (dt.is64 = false → Does s w (.cvti g dt st sat d a) g d dt.sgn fun l => if dt.sgn then (r l).signExtend 32 else (r l).setWidth 32)) ∧
    (∀ k : BitVec 3, Does s w (.lea g k d a b) g d false fun l => opd w l 64 a + ((opd w l 32 b).signExtend 64 <<< k.toNat))

/-- The comparisons, the predicate operations, sel and smov write what R310 and R316 to R319 say: predicates lane by lane, with p7 reading true and ignoring writes; smov takes the lane named, or zero for a lane
that is no passing front lane. -/
def Obligations.PredicatesAndSelection : Prop :=
  ∀ (s : State) (w : Warp) (g : Guard) (a b : Src) (imm : BitVec 32),
    (∀ (t : IntTy) (c : Cond) (p q : BitVec 3),
      let cmp := fun l => compares c t.sgn (opd w l t.bits a) (opd w l t.bits b)
      DoesP s w (.setp g c .none t p a b) g p cmp ∧
      DoesP s w (.setp g c (.and q) t p a b) g p (fun l => cmp l && l.pred q) ∧
      DoesP s w (.setp g c (.or q) t p a b) g p (fun l => cmp l || l.pred q)) ∧
    (∀ (c : CondI) (p : BitVec 3), DoesP s w (.setpi g c p a imm) g p fun l => comparesI c (opd w l 32 a) imm) ∧
    (∀ p q r : BitVec 3,
      DoesP s w (.pset g .and p q r) g p (fun l => l.pred q && l.pred r) ∧
      DoesP s w (.pset g .or p q r) g p (fun l => l.pred q || l.pred r) ∧
      DoesP s w (.pset g .xor p q r) g p (fun l => l.pred q != l.pred r) ∧
      DoesP s w (.pset g .andn p q r) g p (fun l => l.pred q && !l.pred r) ∧
      DoesP s w (.pset g .not p q r) g p (fun l => !l.pred q)) ∧
    (∀ (t : BitTy) (r : BitVec 8) (q : BitVec 3),
      Does s w (.sel g t r a b q) g (.v r) false fun l => if l.pred q then opd w l t.bits a else opd w l t.bits b) ∧
    (∀ (t : BitTy) (d : BitVec 6) (r : BitVec 8) (lane : Option SSrc),
      let k := (lane.map fun x => (rdS w x).toNat).getD ((w.passing g).headD 32)
      Issues s w (.smov g t d r lane) → Completes s w (.smov g t d r lane)
        (if (w.passing g).isEmpty then w.sreg
         else putS w.sreg d.toNat (if k ∈ w.passing g then (opd w (w.lane k) t.bits (.v r)).setWidth 64 else 0))
        w.fstat (stepped w g fun _ l => l))

/-! Floating-point arithmetic, conversions and cross-lane instructions (R234 to R242, R325 to R346) -/

/-- A floating-point instruction writes to D what its operation gives for the operands of each passing lane, in the format of its type and its rounding mode, and raises the flags of that operation (R325 to R333,
R240); the sign operations touch the sign bit alone (R330). -/
def Obligations.FloatResults : Prop :=
  ∀ (s : State) (w : Warp) (g : Guard) (t : FTy) (r : Rnd) (d : Reg) (a b c : Src) (nan x : Bool),
    let A := fun l => rdF w l t a
    let B := fun l => rdF w l t b
    let C := fun l => rdF w l t c
    let n := fwidth t
    let f := t.fmt
    DoesF s w (.fadd g t r d a b) g d n (fun l => f.add r.rm (A l) (B l)) ∧
    DoesF s w (.fsub g t r d a b) g d n (fun l => f.sub r.rm (A l) (B l)) ∧
    DoesF s w (.fmul g t r d a b) g d n (fun l => f.mul r.rm (A l) (B l)) ∧
    DoesF s w (.fma g t r d a b c) g d n (fun l => f.fma r.rm (A l) (B l) (C l)) ∧
    DoesF s w (.fdiv g t r d a b) g d n (fun l => f.div r.rm (A l) (B l)) ∧
    DoesF s w (.fmin g t nan d a b) g d n (fun l => f.minmax false nan (A l) (B l)) ∧
    DoesF s w (.fmax g t nan d a b) g d n (fun l => f.minmax true nan (A l) (B l)) ∧
    DoesF s w (.frnd g t r x d a) g d n (fun l => f.toIntegral r.rm x (A l)) ∧
    DoesF s w (.fscale g t r d a b) g d n (fun l => f.scale r.rm (A l) (opd w l 32 b).toInt) ∧
    Does s w (.fabs g t d a) g d false (fun l => BitVec.ofNat n (A l % f.signBit)) ∧
    Does s w (.fneg g t d a) g d false (fun l => BitVec.ofNat n (A l % (2 * f.signBit)) ^^^ BitVec.ofNat n f.signBit) ∧
    Does s w (.fclass g t d a) g d false (fun l => BitVec.ofNat 32 (f.cls (A l))) ∧
    (∀ imm, Does s w (.fmovi g t d imm) g d false (fun _ => BitVec.ofNat n (fmoviN t imm))) ∧
    (∀ bf, DoesF s w (.fdot2 g bf r d a b c) g d 32 (fun l =>
      let f : FFmt := if bf then .bf16 else .f16
      let pair := fun (x : Src) => match x with
        | .imm k => immF f k
        | _ => (opd w l 32 x).toNat
      fdot2N f r.rm (pair a) (pair b) (rdF w l .f32 c))) ∧
    (∀ (cd : CondF) (p q : BitVec 3),
      let cmp := fun l => f.cmp cd (A l) (B l)
      let done := fun (i : Instr) (v : Lane → Bool) => Issues s w i → (∀ k ∈ w.passing g, bits w.fstat.toNat 8 5 &&& (cmp (w.lane k)).2 = 0) →
        Completes s w i w.sreg (raised w.fstat ((w.passing g).map fun k => (cmp (w.lane k)).2)) (stepped w g fun _ l => l.setPred p (v l))
      done (.fsetp g cd .none t p a b) (fun l => (cmp l).1) ∧
      done (.fsetp g cd (.and q) t p a b) (fun l => (cmp l).1 && l.pred q) ∧
      done (.fsetp g cd (.or q) t p a b) (fun l => (cmp l).1 || l.pred q))

/-- A sum, difference, product, quotient or fused product-sum of finite operands is the exact rational result rounded once (R240): no value of the format lies nearer, a tie goes to the even encoding, the directed modes give the
nearest value on their side, and NX is raised exactly when the finite result differs from the exact one (R235). -/
def Obligations.ArithmeticIsCorrectlyRounded : Prop :=
  ∀ (t : FTy) (md : Rnd) (x y z : Nat) (a b c : ℚ),
    let f := t.fmt
    valQ f x = some a → valQ f y = some b → valQ f z = some c →
    Rounds f md (a + b) (f.add md.rm x y) ∧ Rounds f md (a - b) (f.sub md.rm x y) ∧ Rounds f md (a * b) (f.mul md.rm x y) ∧
    Rounds f md (a * b + c) (f.fma md.rm x y z) ∧ (b ≠ 0 → Rounds f md (a / b) (f.div md.rm x y))

/-- The special cases of R240 and R327: a NaN operand gives the first NaN operand, quieted, with NV only for a signalling NaN; infinities of opposite signs added, 0/0, ∞/∞ and 0 × ∞ give the default NaN with NV;
a finite non-zero value over zero gives the signed infinity with DZ. -/
def Obligations.SpecialCasesOfArithmetic : Prop :=
  ∀ (t : FTy) (md : RM) (x y z : Nat),
    let f := t.fmt
    let w := f.eb + f.fb + 1
    let nv := fun (xs : List Nat) => if xs.any fun x => (f.dec x).isSnan then flNV else 0
    let quieted := fun (x : Nat) => x % 2 ^ w ||| 2 ^ (f.fb - 1)
    ((f.dec x).isNan = true → f.add md x y = (quieted x, nv [x, y]) ∧ f.mul md x y = (quieted x, nv [x, y]) ∧ f.div md x y = (quieted x, nv [x, y])) ∧
    ((f.dec x).isNan = false → (f.dec y).isNan = true → f.add md x y = (quieted y, nv [x, y]) ∧ f.sub md x y = (quieted y, nv [x, y]) ∧
      f.mul md x y = (quieted y, nv [x, y])) ∧
    (f.dec x = .inf false → f.dec y = .inf true → f.add md x y = (f.qnan, flNV)) ∧
    (f.dec x = .inf false → f.dec y = .inf false → f.sub md x y = (f.qnan, flNV) ∧ f.div md x y = (f.qnan, flNV)) ∧
    ((f.dec x).isZero = true → f.dec y = .inf false → f.mul md x y = (f.qnan, flNV) ∧ ((f.dec z).isNan = false → f.fma md x y z = (f.qnan, flNV))) ∧
    ((f.dec x).isZero = true → (f.dec y).isZero = true → f.div md x y = (f.qnan, flNV)) ∧
    (∀ n m e, f.dec x = .fin n m e → m ≠ 0 → (f.dec y).isZero = true → f.div md x y = (f.withSign (n ^^ (f.dec y).neg) f.infCode, flDZ))

/-- An enabled flag traps (R237, R326): with a vector destination, the passing lanes that raise an enabled flag become Trapped at the instruction with cause 0x40, keep their destination and raise no flag, and the other front lanes complete. Said for fadd in a group
of a tray with a handler vector. -/
def Obligations.EnabledFlagTrapsItsLanes : Prop :=
  ∀ (s : State) (w : Warp) (g : Guard) (t : FTy) (r : Rnd) (d : BitVec 8) (a b : Src) (l ti gr : Nat) (tr : Tray),
    let i := Instr.fadd g t r (.v d) a b
    let res := fun k => t.fmt.add r.rm (rdF w (w.lane k) t a) (rdF w (w.lane k) t b)
    let bad := fun k => k ∈ w.passing g ∧ bits w.fstat.toNat 8 5 &&& (res k).2 ≠ 0
    Issues s w i → w.agent = .group l ti gr → s.tray? l ti = some tr → tr.hvec ≠ 0 → (∃ k, bad k) →
    ∃ u w', exec i s = .next u ∧ u.warp? w.agent = some w' ∧
      (∀ k, bad k → (w'.lane k).st = .trapped ∧ (w'.lane k).pc = (w.lane k).pc ∧ (w'.lane k).v = (w.lane k).v ∧
        (w'.lane k).tag.map Tag.w0 = some (BitVec.ofNat 64 (0x40 * 2 ^ 53 + (w.lane k).pc.toNat / 8))) ∧
      (∀ k, k < w.lanes.length → ¬ bad k → w'.lane k = stepped w g (fun j l => l.withV (fwidth t == 64) d.toNat (res j).1) k) ∧
      w'.fstat = raised w.fstat (((w.passing g).filter fun k => bits w.fstat.toNat 8 5 &&& (res k).2 == 0).map fun k => (res k).2) ∧
      w'.sreg = w.sreg ∧ u.mem = s.mem ∧ (∀ b, b ≠ w.agent → u.warp? b = s.warp? b)

/-- The special functions, the conversions and the block conversions write, for each passing lane, the value and flags of the operation their rules name (R335 to R341); cvtsc writes one scale for the group; pack and unpack move the bits of the lanes' elements through one stream
(R339). -/
def Obligations.ConversionsAndFunctions : Prop :=
  ∀ (s : State) (w : Warp) (g : Guard) (r : Rnd) (d : Reg) (a : Src),
    let A := fun l => rdF w l .f32 a
    DoesF s w (.exp2 g r d a) g d 32 (fun l => SFun.exp2.eval r.rm (A l)) ∧
    DoesF s w (.log2 g r d a) g d 32 (fun l => SFun.log2.eval r.rm (A l)) ∧
    DoesF s w (.rcp g r d a) g d 32 (fun l => SFun.rcp.eval r.rm (A l)) ∧
    DoesF s w (.rsqrt g r d a) g d 32 (fun l => SFun.rsqrt.eval r.rm (A l)) ∧
    DoesF s w (.sqrt g r d a) g d 32 (fun l => SFun.sqrt.eval r.rm (A l)) ∧
    DoesF s w (.tanh g r d a) g d 32 (fun l => SFun.tanh.eval r.rm (A l)) ∧
    DoesF s w (.sigmoid g r d a) g d 32 (fun l => SFun.sigmoid.eval r.rm (A l)) ∧
    DoesF s w (.sinpi g r d a) g d 32 (fun l => SFun.sinpi.eval r.rm (A l)) ∧
    DoesF s w (.cospi g r d a) g d 32 (fun l => SFun.cospi.eval r.rm (A l)) ∧
    (∀ (dt st : Ty) (alt : Bool) (rd : CvtRnd),
      DoesF s w (.cvt g dt st alt rd d a) g d (if dt.is64 then 64 else 32) (fun l => cvtN dt st alt (cvtRm rd w l) (rdTy w l st a)) dt.sgn) ∧
    (∀ (e : BlkElem) (st : BlkSrc) (rd : BlkRnd) (n : BitVec 6) (b : SSrc),
      DoesF s w (.cvtblk g e st rd (.s n) a b) g (.s n) 32 (fun l => blockElem e st (blkRm rd w 0) (rdS w b).toNat (rdBlk w l st a))
        (e.ffmt.isNone && e.ity.sgn)) ∧
    (∀ (e : BlkElem) (st : BlkSrc) (rd : BlkRnd) (v : BitVec 8) (b : SSrc),
      let i := Instr.cvtblk g e st rd (.v v) a b
      let f := fun k => blockElem e st (blkRm rd w k) (rdS w b).toNat (rdBlk w (w.lane k) st a)
      Issues s w i → (∀ k ∈ w.passing g, bits w.fstat.toNat 8 5 &&& (f k).2 = 0) →
      Completes s w i w.sreg (raised w.fstat ((w.passing g).map fun k => (f k).2)) (stepped w g fun k l => l.withV false v.toNat (f k).1)) ∧
    (∀ (e : BlkElem) (st : BlkSrc) (n : BitVec 6),
      let i := Instr.cvtsc g e st n a
      let f := blockScale e st ((w.passing g).map fun k => rdBlk w (w.lane k) st a)
      Issues s w i → (w.passing g).isEmpty = false → bits w.fstat.toNat 8 5 &&& f.2 = 0 →
      Completes s w i (putS w.sreg n.toNat (BitVec.ofNat 64 f.1)) (raised w.fstat [f.2]) (stepped w g fun _ l => l)) ∧
    (∀ (t : PackTy) (v : BitVec 8) (f : Nat → BitVec 32),
      let e := t.ty.iw
      let x := fun j => if j ∈ w.passing g then opd w (w.lane j) 32 a else 0
      (∀ k j, j < 32 → (f k).getLsbD j = (x ((32 * k + j) / e)).getLsbD ((32 * k + j) % e)) →
      Issues s w (.pack g t v a) →
      Completes s w (.pack g t v a) w.sreg w.fstat (stepped w g fun k l => if k < e then l.withV false v.toNat (f k).toNat else l)) ∧
    (∀ (t : PackTy) (v : BitVec 8) (f : Nat → BitVec 32),
      let e := t.ty.iw
      let x := fun j => if j ∈ w.front then opd w (w.lane j) 32 a else 0
      (∀ k j, j < 32 → (f k).getLsbD j = if j < e then (x ((e * k + j) / 32)).getLsbD ((e * k + j) % 32)
        else t.ty.sgn && (x ((e * k + e - 1) / 32)).getLsbD ((e * k + e - 1) % 32)) →
      Issues s w (.unpack g t v a) →
      Completes s w (.unpack g t v a) w.sreg w.fstat (stepped w g fun k l => l.withV false v.toNat (f k).toNat))

/-- Shuffles, votes, ballots and matches read the lanes of the issuing group as they stand at issue and write what R341 to R343 say; leaven draws from its generator (R346, R242); reductions, scans and sample combine the contributing lanes in ascending virtual lane, one step after another, with a vector or a scalar destination,
and raise the flags of every step (R326, R341, R344, R345). -/
def Obligations.CrossLaneResults : Prop :=
  (∀ (s : State) (w : Warp) (g : Guard),
      (∀ (t : BitTy) (m : ShflMode) (d : BitVec 8) (a b : Src) (c : BitVec 3) (src : Nat → Option Nat),
        (∀ k j, src k = some j ↔ SourceLane w m k (opd w (w.lane k) 32 b).toNat j) →
        let i := Instr.shfl g t m d a b c
        Issues s w i → Completes s w i w.sreg w.fstat (stepped w g fun k l =>
          match src k with
          | some j => (l.withV t.is64 d.toNat (opd w (w.lane j) t.bits a).toNat).setPred c false
          | none => (l.withV t.is64 d.toNat 0).setPred c true)) ∧
      (∀ d a : BitVec 3,
        DoesP s w (.vote g .all d a) g d (fun _ => decide (∀ k ∈ w.passing g, (w.lane k).pred a = true)) ∧
        DoesP s w (.vote g .any d a) g d (fun _ => decide (∃ k ∈ w.passing g, (w.lane k).pred a = true)) ∧
        DoesP s w (.vote g .uni d a) g d (fun _ => decide (∀ j ∈ w.passing g, ∀ k ∈ w.passing g, (w.lane j).pred a = (w.lane k).pred a))) ∧
      (∀ (d : Reg) (a : BitVec 3) (f : BitVec 32),
        (∀ k, k < 32 → f.getLsbD k = decide (k ∈ w.passing g ∧ (w.lane k).pred a = true)) → Does s w (.ballot g d a) g d false fun _ => f) ∧
      (∀ (t : BitTy) (d : BitVec 8) (a : Src) (c : BitVec 3) (f : Nat → BitVec 32) (h : BitVec 32),
        let x := fun k => opd w (w.lane k) t.bits a
        (∀ k j, j < 32 → (f k).getLsbD j = decide (j ∈ w.passing g ∧ x j = x k)) →
        (∀ j, j < 32 → h.getLsbD j = decide (j ∈ w.passing g)) →
        (Issues s w (.matchLanes g none t d a) →
          Completes s w (.matchLanes g none t d a) w.sreg w.fstat (stepped w g fun k l => l.withV false d.toNat (f k).toNat)) ∧
        (Issues s w (.matchLanes g (some c) t d a) →
          Completes s w (.matchLanes g (some c) t d a) w.sreg w.fstat (stepped w g fun _ l =>
            let eq := decide (∀ j ∈ w.passing g, ∀ k ∈ w.passing g, x j = x k)
            (l.withV false d.toNat (if eq then h.toNat else 0)).setPred c eq))) ∧
      (∀ (d : Reg) (a b : Src),
        Does s w (.leaven g false d a b) g d false (fun l => BitVec.ofNat 32 (leaven (opd w l 32 a).toNat (opd w l 32 b).toNat)) ∧
        Does s w (.leaven g true d a b) g d false (fun l =>
          BitVec.ofNat 32 (FFmt.f32.roundDy .rne ⟨((leaven (opd w l 32 a).toNat (opd w l 32 b).toNat) / 2 ^ 8 : Nat), -24⟩ false).1))) ∧
  (∀ (s : State) (w : Warp) (g : Guard) (o : RedOp) (t : RedTy) (r : Rnd) (a : Src) (x : Nat) (xs : List Nat),
      contributions w g t a = x :: xs → bits w.fstat.toNat 8 5 &&& stepFlags o t r.rm x xs = 0 →
      let sofar := xs.scanl (fun acc y => (redStep o t r.rm acc y).1) x
      let total := xs.foldl (fun acc y => (redStep o t r.rm acc y).1) x
      let fst := raised w.fstat [stepFlags o t r.rm x xs]
      let rank := fun k => ((w.passing g).takeWhile (· != k)).length
      (∀ d : BitVec 8, Issues s w (.reduce g o t r (.v d) a) →
        Completes s w (.reduce g o t r (.v d) a) w.sreg fst (stepped w g fun _ l => l.withV t.is64 d.toNat total)) ∧
      (∀ d : BitVec 6, Issues s w (.reduce g o t r (.s d) a) →
        Completes s w (.reduce g o t r (.s d) a) (putS w.sreg d.toNat (t.ext.word total)) fst (stepped w g fun _ l => l)) ∧
      (∀ d : BitVec 8, Issues s w (.scan g o false t r d a) →
        Completes s w (.scan g o false t r d a) w.sreg fst (stepped w g fun k l => l.withV t.is64 d.toNat (sofar.getD (rank k) 0))) ∧
      (∀ d : BitVec 8, Issues s w (.scan g o true t r d a) →
        Completes s w (.scan g o true t r d a) w.sreg fst (stepped w g fun k l =>
          l.withV t.is64 d.toNat (if rank k = 0 then redIdentity o t else sofar.getD (rank k - 1) 0))) ∧
      (∀ (d : Reg) (b : Src) (c : BitVec 3),
        let i := Instr.sample g d a b c
        let ws := (List.range 32).map fun k => if k ∈ w.passing g then rdF w (w.lane k) .f32 a else 0
        let drawn := sampleN ws (rdF w (w.lane ((w.passing g).headD 0)) .f32 b)
        let v := BitVec.ofInt 64 (match drawn with
          | some k => k
          | none => -1)
        Issues s w i →
        match d with
        | .v n => Completes s w i w.sreg w.fstat (stepped w g fun _ l => (l.withV false n.toNat v.toNat).setPred c drawn.isNone)
        | .s n => Completes s w i (putS w.sreg n.toNat v) w.fstat (stepped w g fun _ l => l.setPred c drawn.isNone)))

/-! Memory (R348 to R363, R170 to R178) -/

/-- Plain and acquire loads and plain stores complete when every passing lane's access passes its checks and is served, in every space: the passing lanes act in ascending order; a load writes each lane's value, extended to 32 bits for a narrow type, and changes no byte of
any memory but, where translation is on, an entry's ACC bit (R165); a store joins the outbox, so that no byte of fabric memory, scratchpad or patch window changes at its issue. A release store, once nothing of its agent is pending, joins the outbox with its release; with one passing lane it completes, and with more the lanes after the first wait at it until that entry has drained: that they wait at issue is the model's reading of R169 and R173, not R355's words (log entry 50: DEDUCED). That each line requested walks once where translation is on is its reading too (log entry 76: DEDUCED). -/
def Obligations.LoadsAndStoresComplete : Prop :=
  ∀ (s s' : State) (w : Warp) (g : Guard) (sp : Space) (m : MemOpd) (d : BitVec 8) (vs : List Nat),
    let val := fun k => vs.getD (rankOf w g k) 0
    (∀ t : Ty, let i := Instr.ld g sp t d m
      let addr := fun l => ea w l sp m t.width
      Issues s w i → s.haltWatch w g sp .load false t.width addr = none →
      InTurn (LoadOne w sp t.width addr (s.boundMask w g sp t.width addr)) s (w.passing g) s' vs →
      AfterLanes s' w i s (if (w.passing g).isEmpty then [] else pendOf w d.toNat (if t.width ≤ 4 then 1 else t.width / 4)) w.mreg
        (stepped w g fun k l => l.withW d.toNat t.width (loadExt t (val k))) ∧
      s'.trays = s.trays ∧ s'.handlers = s.handlers ∧ s'.launches = s.launches ∧ ((∀ fa, s.translated fa = false) → s'.mem = s.mem ∧ s'.regs = s.regs)) ∧
    (∀ t : Ty, let i := Instr.st g sp t d m
      let addr := fun l => ea w l sp m t.width
      Issues s w i → s.haltWatch w g sp .store false t.width addr = none →
      InTurn (StoreOne w sp t.width addr (s.boundMask w g sp t.width addr) (fun l => l.storeVal d.toNat t.width)) s (w.passing g) s' vs →
      AfterLanes s' w i s [] w.mreg (stepped w g fun _ l => l) ∧
      s'.mem = s.mem ∧ s'.regs = s.regs ∧ s'.launches = s.launches ∧ s'.vers = s.vers ∧
      (s'.trays.map fun x => (x.launch, x.idx, x.sp, x.pm, x.hvec)) = (s.trays.map fun x => (x.launch, x.idx, x.sp, x.pm, x.hvec)) ∧
      (sp ≠ .lp → s'.trays.map Tray.lp = s.trays.map Tray.lp ∧ (s'.ord w.agent).outbox.length = (s.ord w.agent).outbox.length + (w.passing g).length)) ∧
    (∀ (t : AtomTy) (sc : Scope), let i := Instr.ldacq g sp t sc d m
      let addr := fun l => ea w l sp m t.bytes
      Issues s w i → s.haltWatch w g sp .load false t.bytes addr = none →
      InTurn (AcquireOne w sp t.bytes sc addr (s.boundMask w g sp t.bytes addr)) s (w.passing g) s' vs →
      AfterLanes s' w i s (if (w.passing g).isEmpty then [] else pendOf w d.toNat (t.bytes / 4)) w.mreg
        (stepped w g fun k l => l.withW d.toNat t.bytes (val k)) ∧
      s'.trays = s.trays ∧ s'.handlers = s.handlers ∧ s'.launches = s.launches ∧ ((∀ fa, s.translated fa = false) → s'.mem = s.mem ∧ s'.regs = s.regs)) ∧
    (∀ (t : AtomTy) (sc : Scope), let i := Instr.strel g sp t sc d m
      let addr := fun l => ea w l sp m t.bytes
      let s0 := if (w.passing g).isEmpty then s else s.publish w.agent
      let one := ReleaseOne w sp t.bytes sc addr (s0.boundMask w g sp t.bytes addr) (fun l => l.storeVal d.toNat t.bytes) s0
      let kept := fun s' => s'.launches = s.launches ∧ (s'.trays.map fun x => (x.launch, x.idx, x.sp, x.pm, x.lp, x.hvec)) = (s.trays.map fun x => (x.launch, x.idx, x.sp, x.pm, x.lp, x.hvec)) ∧
        { s'.regs with cmpCfg := s.regs.cmpCfg, mtStat := s.regs.mtStat } = s.regs ∧ ((∀ fa, s.translated fa = false) → s'.mem = s.mem ∧ s'.vers = s.vers)
      Issues s w i → s.haltWatch w g sp .store false t.bytes addr = none → sp ≠ .lp →
      (w.passing g = [] → Completes s w i w.sreg w.fstat (stepped w g fun _ l => l)) ∧
      (∀ k ks, w.passing g = k :: ks → one k s' →
        kept s' ∧ (ks = [] → AfterLanes s' w i s [] w.mreg (stepped w g fun _ l => l)) ∧
        (ks ≠ [] → (∀ j, ks.head? = some j → ∃ q, s'.check w j sp .store false false (addr (w.lane j)) t.bytes (s0.boundMask w g sp t.bytes addr) = .ok q) →
          ∃ u w', exec i s = .next u ∧ OnlyGroup s' u w.agent w' ∧ w' = { w with lanes := w'.lanes, wait := some .drain, waitF := maskOf ks, waitAt := w'.waitAt } ∧
            ∀ j, j < w.lanes.length → w'.lane j = if j ∈ ks then w.lane j else stepped w g (fun _ l => l) j)))

/-- Loads and stores through a modulo register reach BASE + (OFF + x) mod SIZE in the scratchpad and advance OFF once, by INC mod SIZE (R157, R158, R353); mset and mget copy a modulo register whole (R354). A register with SIZE 0 or OFF outside SIZE traps the front
with cause 0x02. -/
def Obligations.CircularBuffers : Prop :=
  ∀ (s s' : State) (w : Warp) (g : Guard) (m : BitVec 3) (d : BitVec 8) (x : Src) (vs : List Nat),
    let r := w.mreg.getD m.toNat 0
    let size := 16 * ((r.toNat / 2 ^ 15) % 2 ^ 15)
    let off := (r.toNat / 2 ^ 30) % 2 ^ 19
    let addr := fun (l : Lane) => 16 * (r.toNat % 2 ^ 15) + (off + (opd w l 32 x).toNat) % size
    let after := w.mreg.set m.toNat (modNext r)
    (∀ t : Ty, let i := Instr.ldm g t d m x
      Issues s w i → (w.passing g).isEmpty = false → off < size →
      InTurn (LoadOne w .sp t.width addr (s.boundMask w g .sp t.width addr)) s (w.passing g) s' vs →
      AfterLanes s' w i s (pendOf w d.toNat (if t.width ≤ 4 then 1 else t.width / 4)) after
        (stepped w g fun k l => l.withW d.toNat t.width (loadExt t (vs.getD (rankOf w g k) 0))) ∧ s'.mem = s.mem ∧ s'.trays = s.trays) ∧
    (∀ t : Ty, let i := Instr.stm g t d m x
      Issues s w i → (w.passing g).isEmpty = false → off < size →
      InTurn (StoreOne w .sp t.width addr (s.boundMask w g .sp t.width addr) (fun l => l.storeVal d.toNat t.width)) s (w.passing g) s' vs →
      AfterLanes s' w i s [] after (stepped w g fun _ l => l) ∧ s'.mem = s.mem ∧ s'.trays = s.trays) ∧
    (∀ a : SSrc, let i := Instr.mset g m a
      Issues s w i → ∃ t w', exec i s = .next t ∧ OnlyGroup s t w.agent w' ∧
        w' = { w with lanes := w'.lanes, mreg := if (w.passing g).isEmpty then w.mreg else w.mreg.set m.toNat (rdS w a), wait := none, waitF := 0 } ∧
        ∀ k, k < w.lanes.length → w'.lane k = stepped w g (fun _ l => l) k) ∧
    (∀ n : BitVec 6, let i := Instr.mget g n m
      Issues s w i → Completes s w i (if (w.passing g).isEmpty then w.sreg else putS w.sreg n.toNat r) w.fstat (stepped w g fun _ l => l)) ∧
    (∀ t : Ty, size ≤ off → (w.passing g).isEmpty = false → Issues s w (.ldm g t d m x) → Issues s w (.stm g t d m x) →
      exec (.ldm g t d m x) s = .next (s.trapFront w (.of 0x02)) ∧ exec (.stm g t d m x) s = .next (s.trapFront w (.of 0x02)))

/-- Atomics complete when every passing lane in turn meets AtomicOne: each lane reads what the lanes before it left, atom and cas return the old value, red returns nothing; cas writes only where the old value equals the comparand, and each writes the operation's result (R358 to R361). What an atomic leaves in memory, in the scratchpad or a patch window or at a fabric address that no length entry watches (R171, R359): the words of its target hold the value written, and every other word of every memory is as before. -/
def Obligations.AtomicsComplete : Prop :=
  (∀ (s s' : State) (w : Warp) (g : Guard) (sp : Space) (t : AtomTy) (d : BitVec 8) (m : MemOpd) (vs : List Nat),
      let n := t.bytes
      let addr := fun l => ea w l sp m n
      let val := fun k => vs.getD (rankOf w g k) 0
      let pend := if (w.passing g).isEmpty then [] else pendOf w d.toNat (n / 4)
      (∀ (o : AtomOp) (ord : Option Scope), let i := Instr.atom g o ord sp t d m
        let s0 := if ord.isSome && !(w.passing g).isEmpty then s.publish w.agent else s
        Issues s w i → s.haltWatch w g sp .atom t.float n addr = none →
        (ord.isSome = true → (w.passing g).isEmpty = false → w.dsr = none ∧ (s.ord w.agent).hasWrite = false) →
        InTurn (AtomicOne w sp n addr (s0.boundMask w g sp n addr) true t.float ⟨ord, ord⟩ fun l old => some (atomNew o t old (l.storeVal d.toNat n))) s0 (w.passing g) s' vs →
        AfterLanes s' w i s pend w.mreg (stepped w g fun k l => l.withW d.toNat n (val k))) ∧
      (∀ (o : AtomOp) (ord : Option Scope), let i := Instr.red g o ord sp t d m
        let s0 := if ord.isSome && !(w.passing g).isEmpty then s.publish w.agent else s
        Issues s w i → s.haltWatch w g sp .red t.float n addr = none →
        (ord.isSome = true → (w.passing g).isEmpty = false → w.dsr = none ∧ (s.ord w.agent).hasWrite = false) →
        InTurn (AtomicOne w sp n addr (s0.boundMask w g sp n addr) false t.float ⟨ord, none⟩ fun l old => some (atomNew o t old (l.storeVal d.toNat n))) s0 (w.passing g) s' vs →
        AfterLanes s' w i s [] w.mreg (stepped w g fun _ l => l)) ∧
      (∀ (ord : CasOrd) (b : BitTy) (a c : Src) (off : BitVec 10), let i := Instr.cas g ord sp b d a off c
        let n := b.bytes
        let addr := fun l => eaCas w l sp a off n
        let s0 := if (casOrd ord).rel.isSome && !(w.passing g).isEmpty then s.publish w.agent else s
        Issues s w i → s.haltWatch w g sp .atom false n addr = none →
        ((casOrd ord).rel.isSome = true → (w.passing g).isEmpty = false → w.dsr = none ∧ (s.ord w.agent).hasWrite = false) →
        InTurn (AtomicOne w sp n addr (s0.boundMask w g sp n addr) true false (casOrd ord)
          fun l old => if old = (opd w l (8 * n) c).toNat then some (l.storeVal d.toNat n) else none) s0 (w.passing g) s' vs →
        AfterLanes s' w i s (if (w.passing g).isEmpty then [] else pendOf w d.toNat (n / 4)) w.mreg (stepped w g fun k l => l.withW d.toNat n (val k)))) ∧
  (∀ (s : State) (a : Agent) (w : WriteOp) (pub : Pub) (core : Option Nat) (x : Loc),
      bit s.regs.srvCtl.toNat 1 = false → (w.pieces.map Piece.loc).Nodup → (∀ p ∈ w.pieces, ∀ l t r, p.loc ≠ .ctl l t r) →
      (∀ l t n, (.sp l t n ∈ w.pieces.map Piece.loc ∨ .pm l t n ∈ w.pieces.map Piece.loc) → (s.tray? l t).isSome = true) →
      s.mem.wf = true → (∀ t ∈ s.trays, t.sp.wf = true ∧ t.pm.wf = true) →
      let s' := s.applyAt a w pub core
      (x ∉ w.pieces.map Piece.loc → s'.locVal x = s.locVal x ∧ s'.newest x = s.newest x) ∧
      (∀ p ∈ w.pieces, p.loc = x → ∀ j, j < 4 → bits (s'.locVal x).toNat (8 * j) 8 =
        if p.mask.getLsbD j then bits p.val.toNat (8 * j) 8 else bits (s.locVal x).toNat (8 * j) 8))

/-- Fences, prefetches and range flushes (R175, R177, R356, R357, R362): a release fence joins the outbox and publishes the group's trays; an acquire fence gains from the releases that published the versions read since the last acquire, as they stand now; a prefetch asks for its lanes' lines and leaves every register, the launches and, without translation, all of memory alone; a flush with nothing pending in its range writes the range's dirty lines back and is over: that those are the dirty lines of every core, and the host-homed lines that the device holds, is the model's reading of R198 (log entry 74: DEDUCED). -/
def Obligations.FencesAndFlushes : Prop :=
  ∀ (s : State) (w : Warp) (g : Guard) (sc : Scope),
    let past := stepped w g fun _ l => l
    let ends := fun (i : Instr) (s' : State) => ∃ t w', exec i s = .next t ∧ OnlyGroup s' t w.agent w' ∧ GroupEffect w w' w.sreg w.fstat past
    ((w.passing g).isEmpty = true → ∀ k, Issues s w (.fence g k sc) → Completes s w (.fence g k sc) w.sreg w.fstat past) ∧
    ((w.passing g).isEmpty = false → w.dsr = none → (s.ord w.agent).hasWrite = false → Issues s w (.fence g .rel sc) →
      ends (.fence g .rel sc) ((s.publish w.agent).push w.agent (.release sc none) true)) ∧
    ((w.passing g).isEmpty = false → s.fenceWaits w.agent = false → Issues s w (.fence g .acq sc) → ends (.fence g .acq sc) (s.acquire w.agent sc (s.readRels w.agent))) ∧
    ((w.passing g).isEmpty = false → w.dsr = none → (s.ord w.agent).outbox = [] → s.fenceWaits w.agent = false → Issues s w (.fence g .full sc) →
      let r := ((s.publish w.agent).releaseNow w.agent sc).2
      ends (.fence g .full sc) (r.acquire w.agent sc (r.readRels w.agent))) ∧
    (∀ l2 sp t m, let s' := (w.passing g).foldl (prefLane w l2 sp fun l => ea w l sp m t.width) s
      Issues s w (.pref g l2 sp t m) → ends (.pref g l2 sp t m) s' ∧ s'.trays = s.trays ∧ s'.handlers = s.handlers ∧ s'.launches = s.launches ∧ s'.ctxs = s.ctxs ∧ s'.ords = s.ords ∧
        ((∀ fa, s.translated fa = false) → s'.mem = s.mem ∧ s'.vers = s.vers ∧ s'.regs = s.regs)) ∧
    (∀ a b : SSrc, let base := (rdS w a).toNat
      let size := (rdS w b).toNat
      Issues s w (.rflush g a b) →
      ((w.passing g).isEmpty = true → Completes s w (.rflush g a b) w.sreg w.fstat past) ∧
      (∀ r, (w.passing g).isEmpty = false → base % 128 = 0 → size % 128 = 0 → size ≠ 0 → base < 2 ^ 56 →
        (s.ctx (s.ctxOf w.agent)).range base size = some r → r.rd = true → s.pendingIn w.agent (r.fabric base) size = false →
        ends (.rflush g a b) (s.flushRange (r.fabric base) size)))

/-! Control transfers, ending, waiting and ceding (R125 to R130, R266, R297 to R308) -/

/-- A target that is not a multiple of 8, or at which a word stands that is no header, traps every front lane with cause 0x03, and nothing is transferred (R297, R142). Said for bra and brx in a group of a tray with a handler vector. -/
def Obligations.BadTargetsTrap : Prop :=
  ∀ (s : State) (w : Warp) (la : Launch) (g : Guard) (off : BitVec 20) (a : Reg) (l ti gr : Nat) (tr : Tray) (k : Nat),
    let bad := fun t => t < 2 ^ 56 ∧ (t % 8 ≠ 0 ∨ ∃ x, s.fetch la t = .word x ∧ bits x.toNat 56 8 ≠ 0xFF)
    let own := fun k => (ropd w (w.lane k) 64 a).toNat
    w.agent = .group l ti gr → s.tray? l ti = some tr → tr.hvec ≠ 0 → s.launchOf w.agent = some la → k ∈ w.passing g →
    let Trap := fun (i : Instr) => ∃ u w', exec i s = .next u ∧ u.warp? w.agent = some w' ∧ u.mem = s.mem ∧ w'.sreg = w.sreg ∧
      (∀ b, b ≠ w.agent → u.warp? b = s.warp? b) ∧
      ∀ j, j < w.lanes.length → if j ∈ w.front
        then (w'.lane j).st = .trapped ∧ (w'.lane j).pc = (w.lane j).pc ∧ (w'.lane j).v = (w.lane j).v ∧
          (w'.lane j).tag.map Tag.w0 = some (BitVec.ofNat 64 (0x03 * 2 ^ 53 + (w.lane j).pc.toNat / 8))
        else w'.lane j = w.lane j
    (Issues s w (.bra g off) → bad (label w off) → Trap (.bra g off)) ∧
    (Issues s w (.brx g a) → bad (own k) → (∀ j ∈ w.passing g, bad (own j) ∨ GoodTarget s la (own j)) → Trap (.brx g a))

/-- The transfers complete when every target may be transferred to (R297 to R303): bra, brx, call, callx, loop and ret move the passing lanes, the others fall through; call and callx leave the address of the next word in s62 or D, and loop counts down and falls through at zero; nothing else of the machine changes. exit ends the
passing lanes, ret the passing lanes whose target is zero (R302, R304): they become Exited, the other front lanes go on; said for a group in which no barrier waits, no deferred store record would be lost and another lane of the group stays. -/
def Obligations.TransfersAndEnds : Prop :=
  (∀ (s : State) (w : Warp) (la : Launch) (g : Guard) (off : BitVec 20) (a : Reg),
      s.launchOf w.agent = some la →
      let here := (w.passing g).isEmpty
      let next := BitVec.ofNat 64 (w.frontPc.toNat + 8)
      let own := fun k => (ropd w (w.lane k) 64 a).toNat
      let lbl := fun (_ : Nat) => label w off
      (Issues s w (.bra g off) → (here = false → GoodTarget s la (label w off)) →
        Completes s w (.bra g off) w.sreg w.fstat (transferred w g true lbl id)) ∧
      (Issues s w (.brx g a) → (∀ k ∈ w.passing g, GoodTarget s la (own k)) →
        Completes s w (.brx g a) w.sreg w.fstat (transferred w g true own id)) ∧
      (Issues s w (.ret g a) → (∀ k ∈ w.passing g, own k ≠ 0 ∧ GoodTarget s la (own k)) →
        Completes s w (.ret g a) w.sreg w.fstat (transferred w g true own id)) ∧
      (Issues s w (.call g off) → (here = false → GoodTarget s la (label w off)) →
        Completes s w (.call g off) (if here then w.sreg else putS w.sreg 62 next) w.fstat (transferred w g true lbl id)) ∧
      (∀ n : BitVec 6, Issues s w (.callx g (.s n) a) → (∀ k ∈ w.passing g, GoodTarget s la (own k)) →
        Completes s w (.callx g (.s n) a) (if here then w.sreg else putS w.sreg n.toNat next) w.fstat (transferred w g true own id)) ∧
      (∀ n : BitVec 8, Issues s w (.callx g (.v n) a) → (∀ k ∈ w.passing g, GoodTarget s la (own k)) →
        Completes s w (.callx g (.v n) a) w.sreg w.fstat (transferred w g true own fun l => l.withV true n.toNat (w.frontPc.toNat + 8))) ∧
      (∀ n : BitVec 6, let left := w.sget n.toNat - 1
        Issues s w (.loop g n off) → (here = false → left ≠ 0 → GoodTarget s la (label w off)) →
        Completes s w (.loop g n off) (if here then w.sreg else putS w.sreg n.toNat left) w.fstat (transferred w g (left != 0) lbl id))) ∧
  (∀ (s : State) (w : Warp) (la : Launch) (g : Guard) (a : Reg) (l ti gr : Nat),
      w.agent = .group l ti gr → s.launchOf w.agent = some la → (∀ t ∈ s.trays, t.arrivals = []) →
      w.staysWithout (w.passing g) = true →
      let gone := fun k => if w.front.contains k then (if (w.lane k).passes g then
        { w.lane k with st := .exited, tag := none, gathered := false, back := none, park := none } else (w.lane k).advance) else w.lane k
      (Issues s w (.exit g) → Completes s w (.exit g) w.sreg w.fstat gone) ∧
      (Issues s w (.ret g a) → (w.passing g).isEmpty = false → (∀ k ∈ w.passing g, (ropd w (w.lane k) 64 a) = 0) → Completes s w (.ret g a) w.sreg w.fstat gone))

/-- nop only passes; rbar passes when no lane is Parked or Trapped; sleepuntil passes when the time base has reached the instant; yield passes and takes a slice, with the fairness timer reset; a header takes its front into its body (R298, R305 to R307, R129, R130). -/
def Obligations.WaitsAndHeadersPass : Prop :=
  ∀ (s : State) (w : Warp) (g : Guard),
    let past := stepped w g fun _ l => l
    (Issues s w (.nop g) → Completes s w (.nop g) w.sreg w.fstat past) ∧
    (Issues s w (.rbar g) → (∀ k, k < w.lanes.length → (w.lane k).st ≠ .parked ∧ (w.lane k).st ≠ .trapped) → Completes s w (.rbar g) w.sreg w.fstat past) ∧
    (∀ a : BitVec 6, Issues s w (.sleepuntil g a) → w.sget a.toNat ≤ s.now → Completes s w (.sleepuntil g a) w.sreg w.fstat past) ∧
    (Issues s w (.yield g) → (w.passing g).isEmpty = false → w.lanes.length ≤ 32 →
      ∃ t w', exec (.yield g) s = .next t ∧ OnlyGroup s t w.agent w' ∧ w'.fairT = 0 ∧ w'.sreg = w.sreg ∧ w'.fstat = w.fstat ∧
        (∀ k, k < w.lanes.length → w'.lane k = past k) ∧ (IsSlice w.done w'.slice ∨ (IsSlice w.done none ∧ w'.slice = w.slice))) ∧
    (∀ h : Header, Issues s w (.blockHeader h) → h.count ≠ 0 → h.live.toNat ≤ s.trayRegs w → h.flags &&& 0xF0 = 0 →
      (∀ k ∈ w.front, (w.lane k).frame = .entry → h.flags.getLsbD 0 = true) → h.flags.getLsbD 1 = false → h.flags.getLsbD 2 = false →
      (w.agent.isHandler = true ∨ ∃ l t gr, w.agent = .group l t gr) →
      Completes s w (.blockHeader h) w.sreg w.fstat fun k =>
        if w.front.contains k then { w.lane k with pc := (w.lane k).pc + 8, frame := .body (w.lane k).pc h.count.toNat (h.flags.getLsbD 3), exempt := false } else w.lane k)

/-- trap and the decode faults take the exception of R142 to R145 (R266, R269, R308): the lanes become Trapped where they stand, with the cause and their place in the origin tag and the tray's handler vector recorded, and the group's outbox takes a release at tray scope; a word that names a
register the group does not hold, or is not well formed, traps every front lane with cause 0x02 whatever the guard; with the handler vector zero the launch ends with CODE 0x0010 and the cause (R143, R63). That a launch so ended completes only when its outboxes have drained is the model's reading (log entry 72: DEDUCED). -/
def Obligations.TakingAnException : Prop :=
  ∀ (s : State) (w : Warp) (g : Guard) (code : BitVec 8) (l ti gr : Nat) (tr : Tray),
    s.turn = some w.agent → s.warp? w.agent = some w → w.agent = .group l ti gr → s.tray? l ti = some tr →
    let Taken := fun (i : Instr) (cause : Nat) (hit : Nat → Prop) => ∃ u w', exec i s = .next u ∧ u.warp? w.agent = some w' ∧ u.mem = s.mem ∧
      w'.sreg = w.sreg ∧ w'.fstat = w.fstat ∧ (∀ b, b ≠ w.agent → u.warp? b = s.warp? b) ∧
      (u.ord w.agent).outbox = (s.ord w.agent).outbox ++ [⟨.release .tray none, (s.ord w.agent).region⟩] ∧
      (∀ x, u.launch? l = some x → (tr.hvec = 0 → x.ending.isSome = true) ∧
        (tr.hvec = 0 → ∀ y, s.launch? l = some y → y.ending = none → x.ending = some (BitVec.ofNat 32 (2 * 2 ^ 24 + cause * 2 ^ 16 + 0x10))) ∧
        (tr.hvec ≠ 0 → s.launch? l = some x)) ∧
      (∀ j, j < w.lanes.length → hit j → (w'.lane j).st = .trapped ∧ (w'.lane j).pc = (w.lane j).pc ∧ (w'.lane j).v = (w.lane j).v ∧ (w'.lane j).p = (w.lane j).p ∧
        (w'.lane j).hvec = tr.hvec ∧ (w'.lane j).tag = some (Tag.mk (BitVec.ofNat 64 (cause * 2 ^ 53 + (w.lane j).pc.toNat / 8))
          (BitVec.ofNat 64 (ti * 2 ^ 32 + j * 2 ^ 21 + gr * 2 ^ 16 + (w.lane j).ident.toNat)) 0 0 0))
    (Issues s w (.trap g code) → (∃ k, k ∈ w.passing g) → Taken (.trap g code) 0x52 (fun j => j ∈ w.passing g)) ∧
    (∀ i : Instr, i.isWord = true → i.wf = false ∨ i.opnds.all w.holds = false → w.front ≠ [] → Taken i 0x02 (fun j => j ∈ w.front))

/-! Synchronisation, queues, freezing (R109, R154 to R156, R193 to R197, R363 to R368) -/

/-- Sync words and barriers complete (R364 to R366): arrive puts one arrival per passing lane in the outbox; swait passes once every lane's generation has moved on; bar, at a tray or at a patch, arrives with a release and waits while another participant of this package has not, and when every participant has arrived and every arrival's release has drained (for a patch that spans packages, when
the others have told that their parts have arrived), every waiting group goes past its bar, having acquired at its own scope from every arrival here; one that is evicted, halted or in a slide's hold does so when it goes on (R115, R369; the model's reading, log entry 92: DEDUCED). -/
def Obligations.SyncWordsAndBarriers : Prop :=
  ∀ (s s1 s' : State) (w : Warp) (g : Guard) (m : MemOpd) (d : BitVec 8) (sc : Scope) (la : Launch) (l ti gr : Nat) (trs vs : List Nat),
    let past := stepped w g fun _ l => l
    let addr := fun l => ea w l .sp m 16
    ((let s0 := if (w.passing g).isEmpty then s else s.publish w.agent
      Issues s w (.arrive g sc d m) → ((w.passing g).isEmpty = false → Clean s w) →
      InTurn (ArriveOne w sc addr (s0.boundMask w g .sp 16 addr) fun l => (l.v.getD d.toNat 0).toNat) s0 (w.passing g) s' vs →
      AfterLanes s' w (.arrive g sc d m) s [] w.mreg past)) ∧
    ((let nth := fun (xs : List Nat) k => xs.getD (rankOf w g k) 0
      Issues s w (.swait g d m) → s.launchOf w.agent = some la → la.f.racy = true ∨ la.f.mode = 0 → (s.ord w.agent).hasRelease = false →
      InTurn (SwaitCheckOne w addr (s.boundMask w g .sp 16 addr)) s (w.passing g) s1 trs →
      InTurn (SwaitOne w la addr (nth trs) fun l => (l.v.getD d.toNat 0).toNat) s1 (w.passing g) s' vs →
      AfterLanes s' w (.swait g d m) s [] w.mreg (stepped w g fun k l => l.withW d.toNat 4 (nth vs k)))) ∧
    (∀ (patch : Bool) (tr : Tray), let i := Instr.bar g patch sc
      let ts := s.barTrays l ti patch
      w.agent = .group l ti gr → s.tray? l ti = some tr → Issues s w i → (w.passing g).isEmpty = false →
      (Clean s w → w.wait = none →
        (∃ y ∈ ts, ∃ v ∈ y.warps, v.gone = false ∧ (y.idx = ti → v.agent.groupNo ≠ gr) ∧ ∀ x ∈ y.arrivals, x.patch = patch → x.group ≠ v.agent.groupNo) →
        ∃ t u tr', exec i s = .next t ∧ t.warp? w.agent = some u ∧ t.tray? l ti = some tr' ∧
          u = { w with wait := some (.bar patch sc), waitF := maskOf w.front, waitAt := s.now } ∧
          tr'.arrivals = tr.arrivals ++ [⟨patch, gr, sc, (s.ord w.agent).nextRel⟩] ∧
          (t.ord w.agent).outbox = (s.ord w.agent).outbox ++ [⟨.release sc none, (s.ord w.agent).region⟩] ∧ t.mem = s.mem ∧ t.regs = s.regs ∧
          ∀ b, b ≠ w.agent → t.warp? b = s.warp? b) ∧
      (w.wait = some (.bar patch sc) → (∃ y ∈ ts, ∃ x ∈ y.arrivals, x.patch = patch) →
        (∀ y ∈ ts, (∀ v ∈ y.warps, v.gone = false → ∃ x ∈ y.arrivals, x.patch = patch ∧ x.group = v.agent.groupNo) ∧
          (∀ x, s.launch? l = some x → x.replace.contains y.idx = false) ∧
          ∀ x ∈ y.arrivals, x.patch = patch → x.num ≤ (s.ord (.group l y.idx x.group)).nrel) →
        (patch = true → ∀ x, s.launch? l = some x → s.farArrived x (x.f.patchOf ti) = true) →
        let rels := ts.flatMap fun y => (y.arrivals.filter fun x => x.patch == patch).map fun x => (⟨.group l y.idx x.group, x.num⟩ : RelId)
        ∃ t, exec i s = .next t ∧ t.mem = s.mem ∧ t.regs = s.regs ∧
          (∀ y ∈ ts, ∀ x ∈ y.arrivals, x.patch = patch → ∀ v, s.warp? (.group l y.idx x.group) = some v → v.wait = some (.bar patch x.scope) → v.late = none →
            (s.stands v = true → t.warp? (.group l y.idx x.group) = some { v with late := some (.barrier x.scope rels) }) ∧
            (s.stands v = false → t.warp? (.group l y.idx x.group) = some v.done ∧
            ∀ r ∈ ((s.acquire (.group l y.idx x.group) x.scope rels).ord (.group l y.idx x.group)).view, r ∈ (t.ord (.group l y.idx x.group)).view)) ∧
          ∀ y ∈ ts, s.tray? l y.idx = some y → ∀ tr', t.tray? l y.idx = some tr' → tr'.arrivals = y.arrivals.filter fun x => x.patch != patch))

/-- Queues and completion words complete (R109, R367, R368), said for a launch that is neither recorded nor replayed: a push into a queue with room releases at launch scope, copies the 64 bytes of the scratchpad as record n, counts and answers n; a pop of a queue that holds a record does the reverse and acquires; a pop of
a closed and empty queue answers all ones and sets p[C]; waitseq passes when the word read is at least the number asked for, and acquires. Which release a completion word is published by is the model's reading (log entry 61: DEDUCED). -/
def Obligations.QueuesAndCompletionWords : Prop :=
  ∀ (s s1 : State) (w : Warp) (g : Guard) (d : BitVec 6) (a b : SSrc) (c : BitVec 3) (sc : Scope) (la : Launch) (p : Pipe) (tr : Tray) (q : Stage) (qu : Queue) (k : Nat) (t : Target),
    let off := (rdS w a).toNat % 2 ^ 32
    let past := stepped w g fun _ l => l
    let answer := fun n => putS w.sreg d.toNat (BitVec.ofNat 64 n)
    let common := (w.passing g).isEmpty = false ∧ s.launchOf w.agent = some la ∧ la.f.mode = 0 ∧ s.groupTray w = some tr ∧ la.pipe = some p ∧
      off % 64 = 0 ∧ off + 64 ≤ la.f.spBytes ∧ p.stages[k]? = some q ∧ p.queues[k]? = some qu
    (Issues s w (.qpush g d a) → common → k = tr.stage → tr.stage + 1 ≠ p.stages.length → s.queueCheck w la tr.idx off false = .ok s1 → w.dsr = none → (s1.publish w.agent).spPoison la.id tr.idx off 64 = false →
      qu.pushed - qu.popped < 2 ^ q.qlog2 → (s1.ord w.agent).outbox = [] → (s1.publish w.agent).queuedBefore w la.id k .qpush = false →
      let s2 := s1.publish w.agent
      let r := s2.releaseNow w.agent .launch
      let x := r.2.readSp w.agent la tr.idx off 64
      let s3 := x.2.devWrite (s2.pkg * 2 ^ 46 + 0x3E0000000000 + q.qbase + 64 * (qu.pushed % 2 ^ q.qlog2)) 64 x.1
      CompletesFrom s ((s3.setQueue la.id k fun x => { x with pushed := x.pushed + 1, rels := x.rels ++ [(qu.pushed, r.1)] }).closeRegion w.agent (s2.ord w.agent).region) w
        (.qpush g d a) (answer qu.pushed) past) ∧
    (Issues s w (.qpop g d a c) → common → k + 1 = tr.stage → (w.agent.isHandler = true ∨ s.moveTo la tr.idx w.agent.groupNo = none) → s.queueCheck w la tr.idx off true = .ok s1 → (s1.ord w.agent).hasRelease = false →
      s1.queuedBefore w la.id (k + 1) .qpop = false →
      (qu.popped < qu.pushed →
        let addr := s1.pkg * 2 ^ 46 + 0x3E0000000000 + q.qbase + 64 * (qu.popped % 2 ^ q.qlog2)
        let x := s1.readLocs w.agent 15 false false false ((List.range 16).map fun j => .fab (addr / 4 + j))
        let op : WriteOp := ⟨(List.range 16).map fun j => ⟨.sp la.id tr.idx (off / 4 + j), 15, BitVec.ofNat 32 (x.1.val / 2 ^ (32 * j) % 2 ^ 32)⟩, w.frontPc, w.front.headD 0,
          (w.lane (w.front.headD 0)).ident, BitVec.ofNat 64 off⟩
        (∀ j, j < 16 → (s1.newest (.fab (addr / 4 + j))).poison = false) →
        let s2 := (x.2.applyWrite w.agent op .none).acquire w.agent .launch ((qu.rels.filter fun x => x.1 == qu.popped).map Prod.snd)
        CompletesFrom s (s2.setQueue la.id k fun x => { x with popped := x.popped + 1, rels := x.rels.filter fun y => y.1 != qu.popped }) w (.qpop g d a c) (answer qu.popped)
          (stepped w g fun _ l => l.setPred c false)) ∧
      (qu.pushed ≤ qu.popped → s1.stageDone la.id k = true →
        CompletesFrom s s1 w (.qpop g d a c) (answer (2 ^ 64 - 1)) (stepped w g fun _ l => l.setPred c true))) ∧
    (Issues s w (.waitseq g sc a b) → (w.passing g).isEmpty = false → s.check w ((w.passing g).headD 0) .g .load false false (rdS w a).toNat 8 w.frontMask = .ok (t, s1) →
      s.haltWatch w g .g .load false 8 (fun _ => (rdS w a).toNat) = none →
      (∀ fa, t.fab = some fa → s.side fa = .served) → (s.ord w.agent).hasRelease = false →
      let r := s1.readAt w.agent t 8 false
      r.1.poison = false → (rdS w b).toNat ≤ r.1.val →
      CompletesFrom s ((if w.wait = some .waitseq then r.2 else r.2.sampled w ((w.passing g).headD 0) t 1 (s1.servedBy w.agent t)).acquire w.agent sc r.1.pubs) w (.waitseq g sc a b) w.sreg past)

/-- Freeze and thaw (R193, R196, R363): a range that a freeze would refuse answers at once, 2 for a freeze and all ones for a thaw; any other joins the outbox as a release and the group waits for its result. That a thaw of a range without an entry performs no release is the model's reading (log entry 62: DEDUCED). -/
def Obligations.FreezeAndThaw : Prop :=
  ∀ (s : State) (w : Warp) (g : Guard) (d : BitVec 6) (a b : SSrc),
    let base := (rdS w a).toNat
    let size := (rdS w b).toNat
    let fits := fun r => base % 4096 = 0 ∧ size % 4096 = 0 ∧ size ≠ 0 ∧ base < 2 ^ 56 ∧ (s.ctx (s.ctxOf w.agent)).range base size = some r ∧ r.rd = true ∧ hostHomed r.fbase = false
    let past := stepped w g fun _ l => l
    let Waits := fun (i : Instr) (k : OutKind) (r : Wait) => ∃ t u, exec i s = .next t ∧ OnlyGroup ((s.publish w.agent).push w.agent k true) t w.agent u ∧
      u = { w with wait := some r, waitF := if w.wait.isSome then w.waitF else maskOf w.front, waitAt := s.now }
    (Issues s w (.freeze g d a b) → (w.passing g).isEmpty = false → w.wait ≠ some (.freeze d) →
      ((∀ r, ¬ fits r) → (s.who w.agent).mode = 0 → Completes s w (.freeze g d a b) (putS w.sreg d.toNat 2) w.fstat past) ∧
      (∀ r, fits r → Clean s w → Waits (.freeze g d a b) (.freeze (r.fabric base) size (BitVec.ofNat 64 base) w.frontPc) (.freeze d))) ∧
    (Issues s w (.thaw g d a b) → (w.passing g).isEmpty = false → w.wait ≠ some (.thaw d) →
      ((∀ r, ¬ fits r) → (s.who w.agent).mode = 0 → Completes s w (.thaw g d a b) (putS w.sreg d.toNat (BitVec.ofNat 64 (2 ^ 64 - 1))) w.fstat past) ∧
      (∀ r, fits r → Clean s w → Waits (.thaw g d a b) (.thaw (r.fabric base) size) (.thaw d))) ∧
    ((w.passing g).isEmpty = true → (Issues s w (.freeze g d a b) → Completes s w (.freeze g d a b) w.sreg w.fstat past) ∧
      (Issues s w (.thaw g d a b) → Completes s w (.thaw g d a b) w.sreg w.fstat past))

/-! System instructions (R145, R399 to R411) -/

/-- Control and special registers (R399 to R403): rdctl reads the table of R400, HVEC and LPLIM through the order machine; wrctl writes HVEC and LPLIM as one word of the tray, in its issue step, and no other register; rdspec and wrspec reach pcv, lanemap, gang and fstat, which waits while an attn of the group has not ended (R236); origin reads a word of the origin tag, in a handler group alone. HVEC and LPLIM are
said for a RACY launch, whose accesses are not checked. -/
def Obligations.ControlAndSpecialRegisters : Prop :=
  ∀ (s : State) (w : Warp) (g : Guard) (d : BitVec 6) (n : BitVec 12) (a : SSrc) (la : Launch) (tr : Tray),
    let past := stepped w g fun _ l => l
    let none_ := (w.passing g).isEmpty
    let loc : Loc := .ctl la.id tr.idx n.toNat
    let calm := none_ = true ∨ ∀ r ∈ w.attns, r.runs = false
    s.launchOf w.agent = some la → s.groupTray w = some tr →
    (Issues s w (.rdctl g d n) → 2 ≤ n.toNat → w.agent.isHandler = false ∨ n.toNat ≠ 6 ∧ n.toNat ≠ 8 →
      Completes s w (.rdctl g d n) (if none_ then w.sreg else putS w.sreg d.toNat (BitVec.ofNat 64 (controlValue s w la tr n.toNat))) w.fstat past) ∧
    (Issues s w (.rdctl g d n) → n.toNat < 2 → w.agent.isHandler = false → la.f.racy = true → none_ = false →
      let r := s.readWord w.agent loc 15 true false true
      CompletesFrom s r.2 w (.rdctl g d n) (putS w.sreg d.toNat r.1.val) past) ∧
    (Issues s w (.wrctl g n a) → n.toNat < 2 → w.agent.isHandler = false → la.f.racy = true → none_ = false →
      let v := (rdS w a).toNat
      let x := if n.toNat = 0 then v / 8 % 2 ^ 53 * 8 else min (v % 2 ^ 16) la.f.lpWords
      let s1 := s.newVersion loc 15 (BitVec.ofNat 64 x) (some w.agent) .none
      CompletesFrom s (s1.see w.agent loc ((s1.versOf loc).length - 1)) w (.wrctl g n a) w.sreg past ∧
      (s.tray? la.id tr.idx = some tr → ∀ u t', exec (.wrctl g n a) s = .next u → u.tray? la.id tr.idx = some t' →
        if n.toNat = 0 then t'.hvec = BitVec.ofNat 64 x ∧ t'.lplim = tr.lplim else t'.lplim = x ∧ t'.hvec = tr.hvec)) ∧
    (none_ = true → w.agent.isHandler = false → (Issues s w (.rdctl g d n) → Completes s w (.rdctl g d n) w.sreg w.fstat past) ∧
      (Issues s w (.wrctl g n a) → Completes s w (.wrctl g n a) w.sreg w.fstat past)) ∧
    (Issues s w (.wrctl g n a) → 2 ≤ n.toNat → w.agent.isHandler = false → Completes s w (.wrctl g n a) w.sreg w.fstat past) ∧
    (Issues s w (.rdctl g d n) → w.agent.isHandler = true → n.toNat = 0 ∨ n.toNat = 1 ∨ n.toNat = 6 ∨ n.toNat = 8 → exec (.rdctl g d n) s = .next (s.trapFront w (.of 0x02))) ∧
    (∀ r : BitVec 8, Issues s w (.rdspec g (.pcv r)) → Completes s w (.rdspec g (.pcv r)) w.sreg w.fstat
      (stepped w g fun _ l => l.withV true r.toNat (l.pc.toNat))) ∧
    (∀ r : BitVec 8, Issues s w (.rdspec g (.lanemap r)) → Completes s w (.rdspec g (.lanemap r)) w.sreg w.fstat (stepped w g fun _ l => l.withV false r.toNat l.ident.toNat)) ∧
    (Issues s w (.rdspec g (.gang d)) → Completes s w (.rdspec g (.gang d)) (if none_ then w.sreg else putS w.sreg d.toNat (w.gang.setWidth 64)) w.fstat past) ∧
    (Issues s w (.rdspec g (.fstat d)) → calm → Completes s w (.rdspec g (.fstat d)) (if none_ then w.sreg else putS w.sreg d.toNat (w.fstat.setWidth 64)) w.fstat past) ∧
    (Issues s w (.wrspec g .fstat a) → calm → Completes s w (.wrspec g .fstat a) w.sreg (if none_ then w.fstat else (rdS w a).setWidth 32 &&& 0x1F1F) past) ∧
    (¬ calm → ∀ i ∈ [Instr.rdspec g (.fstat d), .wrspec g .fstat a], Issues s w i → ∃ t u, exec i s = .next t ∧ OnlyGroup s t w.agent u ∧ u.wait = some .attn ∧ u.lanes = w.lanes ∧ u.sreg = w.sreg ∧ u.fstat = w.fstat) ∧
    (Issues s w (.wrspec g .gang a) → w.agent.isHandler = false → ∃ t w', exec (.wrspec g .gang a) s = .next t ∧ OnlyGroup s t w.agent w' ∧
      w' = { w with lanes := w'.lanes, gang := if none_ then w.gang else (rdS w a).setWidth 32, wait := none, waitF := 0 } ∧
      ∀ k, k < w.lanes.length → w'.lane k = past k) ∧
    (∀ (r : BitVec 8) (j : BitVec 3), Issues s w (.origin g r j) →
      (w.agent.isHandler = true → Completes s w (.origin g r j) w.sreg w.fstat (stepped w g fun _ l => l.withV true r.toNat ((l.tag.map fun t =>
        (([t.w0, t.w1, t.w2, t.w3, t.w4] : List Word).getD j.toNat 0).toNat).getD 0))) ∧
      (w.agent.isHandler = false → exec (.origin g r j) s = .next (s.trapFront w (.of 0x02))))

/-- Position, time, identity, counters and the log as programs see them (R405 to R408, R410, R411), said for a launch that is neither recorded nor replayed: locality gives the core, the package, the die and the partition, rdtime the time base, ident the place in the launch, rdcnt the issue count
before this issue, and the cycle counts only at a debug level of 1 or more; logctl.flush and mark only pass. bpctl (R217, R409): reads at any debug level, and writes, without the reserved bits, from level 2; a write leaves the group waiting until every core has the value. In a handler group it traps with cause 0x02. -/
def Obligations.QueriesAndBreakpointRegisters : Prop :=
  (∀ (s : State) (w : Warp) (g : Guard) (d : BitVec 6) (v : BitVec 8) (a b : SSrc) (n : BitVec 2) (la : Launch) (tr : Tray) (l ti gr : Nat),
      w.agent = .group l ti gr → s.launchOf w.agent = some la → la.f.mode = 0 → s.tray? l ti = some tr → tr.idx = ti →
      let past := stepped w g fun _ l => l
      let Gives := fun (i : Instr) (x : Nat) => Issues s w i → Completes s w i (if (w.passing g).isEmpty then w.sreg else putS w.sreg d.toNat (BitVec.ofNat 64 x)) w.fstat past
      let x := tr.core % 28
      let y := tr.core / 28
      let wd := if bit s.regs.domCfg.toNat 24 then s.regs.domCfg.toNat % 16 + 1 else 1
      Gives (.locality g d) ((s.pkg % wd * 28 + x) + (s.pkg / wd * 24 + y) * 2 ^ 9 + s.pkg * 2 ^ 18 + (2 * (y / 12) + x / 14) * 2 ^ 24 + tr.core * 2 ^ 26 + gr % 4 * 2 ^ 36) ∧
      Gives (.rdtime g d) s.now.toNat ∧
      Gives (.logctlMode g d) 0 ∧
      (Issues s w (.logctlFlush g) → Completes s w (.logctlFlush g) w.sreg w.fstat past) ∧
      (Issues s w (.mark g a b) → Completes s w (.mark g a b) w.sreg w.fstat past) ∧
      Gives (.ident g (.dxy d)) (ti % la.f.dw + ti / la.f.dw * 2 ^ 9) ∧
      Gives (.ident g (.tray d)) ti ∧
      Gives (.ident g (.patch d)) (la.f.patchOf ti + la.f.patchCore ti * 2 ^ 32) ∧
      Gives (.ident g (.group d)) gr ∧
      Gives (.ident g (.stage d)) tr.stage ∧
      Gives (.ident g (.handler d)) 0 ∧
      (Issues s w (.ident g (.vlane v)) → Completes s w (.ident g (.vlane v)) w.sreg w.fstat (stepped w g fun k l => l.withV false v.toNat k)) ∧
      (Issues s w (.ident g (.lane v)) → Completes s w (.ident g (.lane v)) w.sreg w.fstat (stepped w g fun _ l => l.withV false v.toNat l.ident.toNat)) ∧
      Gives (.rdcnt g d n) (if n.toNat = 0 then w.issues else if s.dbgLevel = 0 then 0 else if n.toNat = 1 then w.held else w.waited)) ∧
  (∀ (s : State) (w : Warp) (g : Guard) (d : BitVec 6) (a : SSrc) (n : BitVec 4) (m : BitVec 3),
      let past := stepped w g fun _ l => l
      let none_ := (w.passing g).isEmpty
      let c := s.ctxOf w.agent
      let x := s.ctx c
      let Reads := fun (i : Instr) (v : Word) => Issues s w i → Completes s w i (if none_ then w.sreg else putS w.sreg d.toNat v) w.fstat past
      let Sets := fun (i : Instr) (x' : Context) => Issues s w i →
        (s.dbgLevel < 2 ∨ none_ = true → Completes s w i w.sreg w.fstat past) ∧
        (2 ≤ s.dbgLevel → none_ = false → w.wait ≠ some .bpctl → ∃ t u, exec i s = .next t ∧ OnlyGroup (s.setCtx c x') t w.agent u ∧
          u = { w with wait := some .bpctl, waitF := if w.wait.isSome then w.waitF else maskOf w.front, waitAt := s.now })
      (w.agent.isHandler = false →
        Reads (.bpctl g (.rbp d n)) (x.bp.getD n.toNat 0) ∧ Reads (.bpctl g (.rwp0 d m)) (x.wp.getD m.toNat (0, 0)).1 ∧ Reads (.bpctl g (.rwp1 d m)) (x.wp.getD m.toNat (0, 0)).2 ∧
        Sets (.bpctl g (.wbp n a)) { x with bp := x.bp.set n.toNat (rdS w a &&& 0x00FFFFFFFFFFFFFB) } ∧
        Sets (.bpctl g (.wwp0 m a)) { x with wp := x.wp.set m.toNat (rdS w a &&& 0x000FFFFFFFFFFFFF, (x.wp.getD m.toNat (0, 0)).2) } ∧
        Sets (.bpctl g (.wwp1 m a)) { x with wp := x.wp.set m.toNat ((x.wp.getD m.toNat (0, 0)).1, rdS w a &&& 0x000FFFFFFFFFFFFF) }) ∧
      (w.agent.isHandler = true → ∀ o, Issues s w (.bpctl g o) → exec (.bpctl g o) s = .next (s.trapFront w (.of 0x02))))

/-- Return from an exception (R145, R404): rte of a handler lane ends that lane and brings its origin lane back, at the instruction, past it (past a header, in its block: R129), or Exited, with the registers it had; the origin group is ordered after a release of the handler's; a handler group whose lanes have all ended is gone. Said for one passing
lane, a launch that is neither recorded nor replayed, and a resident origin group of a launch in which no barrier waits. Outside a handler group rte traps with cause 0x02. -/
def Obligations.ReturnFromException : Prop :=
  ∀ (s : State) (w og : Warp) (g : Guard) (x : Launch) (la n k : Nat) (o : Origin),
    let a : Agent := .group la o.tray o.group
    let l := og.lane o.vlane
    let back := { l with st := .ready, tag := none, gathered := false, back := none }
    let Returns := fun (i : Instr) (l' : Lane) => Issues s w i →
      ∃ t og', exec i s = .next t ∧ t.warp? a = some og' ∧ og'.lane o.vlane = l' ∧ og'.sreg = og.sreg ∧ og'.mreg = og.mreg ∧ og'.fstat = og.fstat ∧ og'.dsr = og.dsr ∧
        (∀ j, j ≠ o.vlane → og'.lane j = og.lane j) ∧ (∃ r ∈ (t.ord a).view, r.agent = w.agent) ∧ t.mem = s.mem ∧ t.regs = s.regs ∧
        ((∀ j, j ≠ k → j < w.lanes.length → (w.lane j).st = .exited ∨ (w.lane j).st = .vacant) → t.handler? la n = none) ∧
        ((∃ j, j ≠ k ∧ j < w.lanes.length ∧ (w.lane j).st = .ready) → ∃ u, t.warp? w.agent = some u ∧ (u.lane k).st = .exited ∧
          ∀ j, j ≠ k → j < w.lanes.length → u.lane j = if j ∈ w.front then (w.lane j).advance else w.lane j)
    (w.agent = .handler la n → w.passing g = [k] → (w.lane k).origin = some o → s.launchOf w.agent = some x → x.f.mode = 0 → Clean s w → (s.ord w.agent).outbox = [] →
      s.warp? a = some og → og.evicted = false → (∀ j, (og.lane j).back = none) → o.vlane < og.lanes.length → l.st = .trapped → og.dsr = none → (∀ t ∈ s.trays, t.arrivals = []) →
      Returns (.rteResume g) { back with exempt := (l.tag.map fun t => t.w0.toNat / 2 ^ 53 % 2 ^ 8 == 0x50 || t.w0.toNat / 2 ^ 53 % 2 ^ 8 == 0x51).getD false } ∧
      Returns (.rteSkip g) { back with pc := l.pc + 8, exempt := false, frame :=
        ((if l.frame = .header ∨ l.frame = .entry then s.headerAt x l.pc else none).map fun h => blockFrame h l.pc).getD (l.frame.next l.pc) } ∧
      Returns (.rteKill g) { l with st := .exited, tag := none, gathered := false, back := none, park := none }) ∧
    (w.agent.isHandler = false → (∃ l t q, w.agent = .group l t q) → (Issues s w (.rteResume g) → exec (.rteResume g) s = .next (s.trapFront w (.of 0x02))) ∧
      (Issues s w (.rteSkip g) → exec (.rteSkip g) s = .next (s.trapFront w (.of 0x02))) ∧ (Issues s w (.rteKill g) → exec (.rteKill g) s = .next (s.trapFront w (.of 0x02))))

/-! Tiles and matrices (R227 to R233, R370 to R381) -/

/-- zacc, accrd, accwr, ldacc, stacc and ldfrag complete (R378 to R381) on tiles the group may act on: zacc clears, accrd and accwr copy columns bit by bit in the rows of the passing lanes, ldacc takes 32 rows of eight 16-byte chunks as its plain reads gave them, stacc puts 32 row writes in the outbox, and ldfrag gives each passing
lane the chunks of its row. -/
def Obligations.TilesComplete : Prop :=
  ∀ (s s1 s' : State) (w : Warp) (g : Guard) (tr : Tray) (sp : Space) (d n : BitVec 6) (v j : BitVec 8) (f64 : Bool) (a b : SSrc) (fa : Fmt) (ts : List Target) (vs : List Nat),
    let past := stepped w g fun _ l => l
    let m := (n.toNat + 1) * (if f64 then 2 else 1)
    let first := if f64 then 2 * j.toNat else j.toNat
    let Ok := fun (i : Instr) (ns : List Nat) => Issues s w i ∧ (w.passing g).isEmpty = false ∧ TilesFree s w tr [] ns
    (let ns := (List.range (n.toNat + 1)).map fun k => d.toNat + k;
      Ok (.zacc g d n) ns → ∃ t, exec (.zacc g d n) s = .next t ∧ TileEffect s t w tr ns w.sreg w.fstat past fun _ dd => dd = List.replicate 1024 0) ∧
    (Ok (.accrd g f64 v d j n) [d.toNat] → ∃ t, exec (.accrd g f64 v d j n) s = .next t ∧
      TileEffect s t w tr [d.toNat] w.sreg w.fstat (stepped w g fun k l => l.withRun v.toNat m fun i => (tr.tile d.toNat).data.getD (32 * k + first + i) 0) fun _ dd => dd = (tr.tile d.toNat).data) ∧
    (Ok (.accwr g f64 d v j n) [d.toNat] → ∃ t, exec (.accwr g f64 d v j n) s = .next t ∧
      TileEffect s t w tr [d.toNat] w.sreg w.fstat past fun _ dd => dd.length = (tr.tile d.toNat).data.length ∧
        ∀ q, q < dd.length → dd.getD q 0 = if q / 32 ∈ w.passing g ∧ first ≤ q % 32 ∧ q % 32 < first + m then (w.lane (q / 32)).v.getD (v.toNat + (q % 32 - first)) 0
          else (tr.tile d.toNat).data.getD q 0) ∧
    (Ok (.ldacc g sp d a b) [d.toNat] → s.hitHalt w sp .load 16 (accAddrs w sp a b) = none → accCheck w sp .load (accAddrs w sp a b) s = .ok (ts, s1) →
      (∀ x ∈ ts, ∀ fa, x.fab = some fa → s.side fa = .served) →
      let r := s1.readAll w 16 ts
      r.2.1 = none → ∃ t, exec (.ldacc g sp d a b) s = .next t ∧ TileEffect r.2.2 t w tr [d.toNat] w.sreg w.fstat past fun _ dd =>
        dd.length = 4 * r.1.length ∧ ∀ q, q < dd.length → dd.getD q 0 = BitVec.ofNat 32 (r.1.getD (q / 4) 0 / 2 ^ (32 * (q % 4)))) ∧
    (Ok (.stacc g sp d a b) [d.toNat] → s.hitHalt w sp .store 16 (accAddrs w sp a b) = none → accCheck w sp .store (accAddrs w sp a b) s = .ok (ts, s1) → ∃ t, exec (.stacc g sp d a b) s = .next t ∧
      (∃ tr' w', t.tray? tr.launch tr.idx = some tr' ∧ tr'.tiles.length = tr.tiles.length ∧ (∀ q, q ≠ d.toNat → tr'.tile q = tr.tile q) ∧ (tr'.tile d.toNat).data = (tr.tile d.toNat).data ∧
        (tr'.tile d.toNat).owner = some w.agent.groupNo ∧ t.warp? w.agent = some w' ∧ GroupEffect w w' w.sreg w.fstat past) ∧
      t.mem = s.mem ∧ t.regs = s.regs ∧ t.vers = s.vers ∧ (∀ c, c ≠ w.agent → t.warp? c = s.warp? c) ∧
      (t.ord w.agent).outbox = (s.ord w.agent).outbox ++ ((List.range 32).map fun i => ⟨.write (rowWrite w (tr.tile d.toNat) i ((ts.drop (8 * i)).take 8)), (s.ord w.agent).region⟩)) ∧
    (let bytes := fa.k * fa.bits / 8;
      let off := fun k => ((rdS w a).toNat + k * ((rdS w b).toNat % 2 ^ 32)) % 2 ^ 32
      let mask := fun (c : Nat) => maskOf ((w.passing g).filter fun k => c == 0x20 && decide ((s.launchOf w.agent).all fun la => la.f.spBytes < off k + bytes))
      Issues s w (.ldfrag g fa v a b) →
      InTurn (fun s k s' x => fragRead w k mask (off k) (List.range (bytes / 16)) s = .ok (x, s')) s (w.passing g) s' vs →
      AfterLanes s' w (.ldfrag g fa v a b) s (if (w.passing g).isEmpty then [] else pendOf w v.toNat (bytes / 4)) w.mreg
        (stepped w g fun k l => l.withW v.toNat bytes (vs.getD (rankOf w g k) 0)))

/-- Multiplication completes (R375 to R377): element (i, j) of the tile takes, in ascending k, the blocks of row i against column j, from its old value or from nothing with Z; the flags of every element are raised. A joint mma of a gang waits at the latch until every member has arrived and then takes the members' blocks in ascending
group number; mmag takes the gathered rows in the order of its list, said for a RACY launch. The base of a gathered fragment is taken at the alignment of one row (log entry 60: DEDUCED), and a gang with a member absent waits (log entry 59: DEDUCED): the model's readings. -/
def Obligations.MultiplicationCompletes : Prop :=
  ∀ (s s' : State) (w : Warp) (g : Guard) (tr : Tray) (z : Bool) (fa fb : Fmt) (d : BitVec 6) (a b c : BitVec 8) (x : SSrc) (la : Launch) (ms : List Warp) (vs : List Nat),
    let i := Instr.mma g z fa fb d a b c
    let k := mmaK fa fb
    let na := fa.scales k
    let nb := fb.scales k
    let f64 := decide (fa.cls = 0)
    let old := fun p q => elemAt (tr.tile d.toNat).data f64 p q
    let rowA := fun (v : Warp) p => fragRow fa k a.toNat c.toNat na (v.lane p)
    let colB := fun (v : Warp) q => fragRow fb k b.toNat (c.toNat + na) nb (v.lane q)
    let el := fun (vs : List Warp) p q => fa.acc.accBlocks (fa.halvings + fb.halvings) (if z then none else some (old p q)) ((vs.map fun v => blocksOf fa fb (rowA v p) (colB v q)).flatten)
    let flags := fun (e : Nat → Nat → Option Nat × Nat) => ((List.range 32).map fun p => ((List.range fa.cols).map fun q => (e p q).2).foldl (· ||| ·) 0).foldl (· ||| ·) 0
    let Holds := fun (e : Nat → Nat → Option Nat × Nat) (dd : List Word32) =>
      dd.length = 1024 ∧ ∀ p q, p < 32 → q < fa.cols → elemAt dd f64 p q = (e p q).1.getD 0 % 2 ^ (if f64 then 64 else 32)
    (Issues s w i → (w.passing g).isEmpty = false → TilesFree s w tr [] [d.toNat] → w.gang = 0 →
      ∃ t, exec i s = .next t ∧ TileEffect s t w tr [d.toNat] w.sreg (raised w.fstat [flags (el [w])]) (stepped w g fun _ l => l) fun _ dd => Holds (el [w]) dd) ∧
    (let named := gangOf w.gang;
      let here := fun (v : Warp) => v ∈ tr.warps ∧ v.wait = some (.latch i) ∧ v.gang = w.gang
      Issues s w i → (w.passing g).isEmpty = false → TilesFree s w tr named [d.toNat] → 2 ≤ named.length → named.length ≤ 6 → w.agent.groupNo ∈ named →
      (∀ v ∈ tr.warps, v.agent ≠ w.agent → v.latched = true → here v) →
      (∀ v ∈ tr.warps, s.warp? v.agent = some v) → (∀ v ∈ tr.warps, ∀ u ∈ tr.warps, v.agent.groupNo = u.agent.groupNo → v = u) →
      ((∃ n ∈ named, n ≠ w.agent.groupNo ∧ ∀ v ∈ tr.warps, v.agent.groupNo = n → v.latched = false) →
        ∃ t u, exec i s = .next t ∧ OnlyGroup s t w.agent u ∧ u.wait = some (.latch i) ∧ u.lanes = w.lanes ∧ u.sreg = w.sreg ∧ u.fstat = w.fstat) ∧
      (ms.map (fun v => v.agent.groupNo) = named → (∀ v ∈ ms, v ∈ tr.warps ∧ (v = w ∨ here v ∧ v.evicted = false ∧ v.halted = false)) → w ∈ ms → ∃ t tr', exec i s = .next t ∧ t.tray? tr.launch tr.idx = some tr' ∧
        Holds (el ms) (tr'.tile d.toNat).data ∧ (tr'.tile d.toNat).owner = named.head? ∧ (∀ q, q ≠ d.toNat → tr'.tile q = tr.tile q) ∧ t.mem = s.mem ∧ t.regs = s.regs ∧
        ∀ v ∈ ms, ∃ v', t.warp? v.agent = some v' ∧ v' = { v.done with fstat := raised v.fstat [flags (el ms)] })) ∧
    (let i := Instr.mmag g z fa fb d x b c;
      let off := (rdS w x).toNat % 2 ^ 32
      let r0 := s.readSp w.agent la tr.idx off 192
      let gl := GatherList.of r0.1
      let taken := (List.range 32).filter fun r => gl.idx.getD r 0xFFFF ≠ 0xFFFF ∧ gl.sct.getD r 0xFF ≠ 0xFF
      let el := fun p q => fa.acc.accBlocks (fa.halvings + fb.halvings) (if z then none else some (old p q)) ((taken.zipIdx.map fun r => if gl.sct.getD r.1 0xFF = p then
        blocksOf fa fb (fa.row k (vs.getD r.2 0 % 2 ^ 512) ((List.range na).map fun j => vs.getD r.2 0 / 2 ^ (512 + 32 * j) % 2 ^ 32)) (fragRow fb k b.toNat c.toNat nb (w.lane q)) else []).flatten)
      let rowAt := fun r => gl.rowBase + 64 * gl.idx.getD r 0
      let sclAt := fun r => gl.sclBase + 4 * na * gl.idx.getD r 0
      Issues s w i → (w.passing g).isEmpty = false → s.launchOf w.agent = some la → la.f.racy = true → TilesFree s w tr [] [d.toNat] → fa.cls = fb.cls → (∀ o ∈ mmagRegs fa fb b c, w.holds o = true) →
      off % 64 = 0 → off + 192 ≤ la.f.spBytes → gl.rowBase % 64 = 0 → (na ≠ 0 → gl.sclBase % 16 = 0) → gl.bad = false →
      s.spPoison la.id tr.idx off 192 = false →
      (∀ r ∈ taken, rowAt r + 64 ≤ la.f.spBytes ∧ s.spPoison la.id tr.idx (rowAt r) 64 = false ∧
        (na ≠ 0 → sclAt r + 4 * na ≤ la.f.spBytes ∧ s.spPoison la.id tr.idx (sclAt r) (4 * na) = false)) →
      InTurn (fun s r s' v => let img := s.readSp w.agent la tr.idx (rowAt r) 64
        let sc := if na = 0 then (0, img.2) else img.2.readSp w.agent la tr.idx (sclAt r) (4 * na)
        v = img.1 + 2 ^ 512 * sc.1 ∧ s' = sc.2) r0.2 taken s' vs →
      ∃ t, exec i s = .next t ∧ TileEffect s' t w tr [d.toNat] w.sreg (raised w.fstat [flags el]) (stepped w g fun _ l => l) fun _ dd =>
        dd.length = 1024 ∧ ∀ p q, p < 32 → q < fa.cols → elemAt dd f64 p q = (el p q).1.getD (if z then 0 else old p q) % 2 ^ (if f64 then 64 else 32))

/-- The sum of one block is exact and rounded once (R231): with finite elements and finite scales a finite partial is the value of the accumulator's format nearest to Σ x·y times both scales over 2^imp, ties to even, and NX is raised exactly when it differs. The NaNs it generates have the encodings of R232, by the first cause in the order NaN scale (2), NaN element (1), zero
times infinity (4), infinity minus infinity (3), then an infinity over a zero scale (4); an accumulator takes up a NaN as it is, and the sum of opposite infinities is NaN 3; an e4m3 element with all bits but the sign set is a NaN. -/
def Obligations.BlockSums : Prop :=
  ∀ (f : FFmt) (ps : List (FV × FV)) (vs : List ℚ) (a b : Dy) (imp : Nat), f = .f32 ∨ f = .f64 →
    let dyQ := fun (x : Dy) => (x.m : ℚ) * (2 : ℚ) ^ x.e
    let nan := ∃ p ∈ ps, p.1.isNan = true ∨ p.2.isNan = true
    let zeroInf := ∃ p ∈ ps, (p.1.isZero = true ∧ ∃ n, p.2 = .inf n) ∨ (p.2.isZero = true ∧ ∃ n, p.1 = .inf n)
    let infinite := fun (neg : Bool) => ∃ p ∈ ps, ((∃ n, p.1 = .inf n) ∨ ∃ n, p.2 = .inf n) ∧ xor p.1.neg p.2.neg = neg
    (ps.map (fun p => (fvQ p.1).bind fun x => (fvQ p.2).map fun y => x * y) = vs.map some →
      Rounds f .rne (vs.sum * dyQ a * dyQ b / 2 ^ imp) (f.blockSum ps (some a) (some b) imp)) ∧
    (nan → f.blockSum ps (some a) (some b) imp = (f.qnan + 1, 0)) ∧
    (f.blockSum ps none (some b) imp = (f.qnan + 2, 0) ∧ f.blockSum ps (some a) none imp = (f.qnan + 2, 0)) ∧
    (¬ nan → zeroInf → f.blockSum ps (some a) (some b) imp = (f.qnan + 4, flNV)) ∧
    (¬ nan → ¬ zeroInf → infinite true → infinite false → f.blockSum ps (some a) (some b) imp = (f.qnan + 3, flNV)) ∧
    (¬ nan → ¬ zeroInf → (∃ n, infinite n ∧ ¬ infinite (!n)) → a.m = 0 ∨ b.m = 0 → f.blockSum ps (some a) (some b) imp = (f.qnan + 4, flNV)) ∧
    (∀ acc p n, (f.dec acc).isNan = true → f.accum acc p = (acc, 0) ∧ ((f.dec p).isNan = false → f.accum p acc = (acc, 0)) ∧
      f.accum (f.withSign n f.infCode) (f.withSign (!n) f.infCode) = (f.qnan + 3, flNV)) ∧
    f.qnan = (if f = .f32 then 0x7FC00000 else 0x7FF8000000000000) ∧ (FFmt.e4m3.dec 0x7F).isNan = true ∧ (FFmt.e4m3.dec 0xFF).isNan = true

/-- tilebar (R372), said for a launch that is neither recorded nor replayed: rel, once the outbox has drained, performs a release at tray scope, frees the tile and counts its generation; wait passes when the generation differs from the one expected, acquires from that release and answers the generation, and otherwise waits. -/
def Obligations.TilesHandOver : Prop :=
  ∀ (s : State) (w : Warp) (g : Guard) (tr : Tray) (d n : BitVec 6) (b : SSrc),
    let past := stepped w g fun _ l => l
    let x := tr.tile n.toNat
    (Issues s w (.tilebarRel g n) → (w.passing g).isEmpty = false → TilesFree s w tr [] [n.toNat] → Clean s w → (s.ord w.agent).outbox = [] →
      ∃ t tr' w' id, exec (.tilebarRel g n) s = .next t ∧ t.tray? tr.launch tr.idx = some tr' ∧ t.warp? w.agent = some w' ∧ GroupEffect w w' w.sreg w.fstat past ∧
        id = ⟨w.agent, (s.ord w.agent).nrel + 1⟩ ∧ tr'.tile n.toNat = { x with owner := none, tgen := x.tgen + 1, rel := some id } ∧ (∀ q, q ≠ n.toNat → tr'.tile q = tr.tile q) ∧
        (∃ r ∈ t.rels, r.id = id) ∧ (t.ord w.agent).nrel = (s.ord w.agent).nrel + 1 ∧ t.mem = s.mem ∧ t.regs = s.regs ∧ ∀ c, c ≠ w.agent → t.warp? c = s.warp? c) ∧
    (Issues s w (.tilebarWait g d n b) → (w.passing g).isEmpty = false → (∃ l ti gr, w.agent = .group l ti gr ∧ s.tray? l ti = some tr) → x.alloc = true →
      (s.ord w.agent).hasRelease = false → (s.who w.agent).mode = 0 →
      (x.tgen ≠ (rdS w b).setWidth 32 → CompletesFrom s (s.acquire w.agent .tray x.rel.toList) w (.tilebarWait g d n b) (putS w.sreg d.toNat (x.tgen.setWidth 64)) past) ∧
      (x.tgen = (rdS w b).setWidth 32 → ∃ t u, exec (.tilebarWait g d n b) s = .next t ∧ OnlyGroup s t w.agent u ∧ u.wait = some .swait ∧ u.lanes = w.lanes ∧ u.sreg = w.sreg))

/-! Attention and descriptors (R243 to R257, R265, R382 to R386) -/

/-- attn issues (R253, R255, R382): with its checks passed it reads its page list and the query words of each row, takes a snapshot of each descriptor named by an acquire load at device scope, claims and holds the state tile and its output tiles, sets MRUN to minus infinity and L, FLAGS and the sums to zero while MREF and LIM stay, clears the outputs, and the front goes on while
its entries are still to take effect; with an empty list it is over at once. Attns that the group has under way on other tiles go on. Said for a RACY launch, where no halting watchpoint lies on a descriptor. That the group goes on while the entries are still to come is the model's reading of R253 to R255 (log entry 58: DEDUCED). -/
def Obligations.AttentionIssues : Prop :=
  ∀ (s s' : State) (w : Warp) (g : Guard) (tr : Tray) (la : Launch) (dim : BitVec 3) (d : BitVec 6) (a : BitVec 8) (b c : SSrc) (vs : List Nat),
    let i := Instr.attn g dim d a b c
    let dm := 32 * (dim.toNat + 1)
    let ns := (List.range (dm / 32 + 1)).map fun j => d.toNat + j
    let off := (rdS w c).toNat / 2 ^ 32
    let r := s.readSp w.agent la tr.idx off 64
    let js := ((List.range 16).map fun k => r.1 / 2 ^ (32 * k) % 2 ^ 32).takeWhile (· != 0xFFFFFFFF)
    let table := (rdS w b).toNat
    let snaps := (js.zip vs).map fun p => (⟨p.1, BitVec.ofNat 256 p.2⟩ : Snap)
    let last : LastAttn := ⟨rdS w b, dm, snaps.map fun x => (x.idx, x.desc.toNat / 2 ^ 224 % 16 == 0)⟩
    let fresh := fun (row : List Word32) => [row.getD 0 0, 0xFF800000, 0, 0, row.getD 4 0] ++ List.replicate 27 (0 : Word32)
    let first := w.front.headD 0
    let run : AttnRun := ⟨w.frontPc, (w.lane first).frame, maskOf w.front, d.toNat, dm, (List.range 32).map fun k => (w.lane k).rget a.toNat (dm / 2), (rdS w c).setWidth 32, rdS w b, js, snaps, true, 0, false, []⟩
    Issues s w i → (w.passing g).isEmpty = false → s.launchOf w.agent = some la → la.f.racy = true → TilesFree s w tr [] ns → (∀ x ∈ w.attns, x.runs = true ∧ x.tile ≠ d.toNat) → s.retires = [] →
    off % 64 = 0 → off + 64 ≤ la.f.spBytes → s.spPoison la.id tr.idx off 64 = false → s.hitHalt w .g .load 32 (js.map fun j => (table + 32 * j) % 2 ^ 64) = none → snapChecks w table js r.2 = none →
    InTurn (fun s j s' v => acqRead w w.frontMask .g 32 .device ((table + 32 * j) % 2 ^ 64) 0 (fun v => bits v 224 32) s first = (s', .got v)) r.2 js s' vs →
    (∀ v ∈ vs, descWf (BitVec.ofNat 256 v).toNat = true) →
    ∃ t tr' w', exec i s = .next t ∧ t.tray? tr.launch tr.idx = some tr' ∧ t.warp? w.agent = some w' ∧ t.mem = s'.mem ∧ t.regs = s'.regs ∧ (∀ x, x ≠ w.agent → t.warp? x = s.warp? x) ∧
      (∀ q, q ∉ ns → tr'.tile q = tr.tile q) ∧ (∀ q ∈ ns, (tr'.tile q).owner = some w.agent.groupNo ∧ (tr'.tile q).pending = false ∧
        (tr'.tile q).held = if js = [] then none else some w.agent.groupNo) ∧
      (tr'.tile d.toNat).data = ((rowsOf (tr.tile d.toNat).data).map fresh).flatten ∧ (tr'.tile d.toNat).last = some last ∧
      (∀ q ∈ ns, q ≠ d.toNat → (tr'.tile q).data = List.replicate 1024 0) ∧
      w' = { w with lanes := w'.lanes, attns := w.attns ++ (if js = [] then [] else [run]), wait := none, waitF := 0 } ∧
      ∀ k, k < w.lanes.length → w'.lane k = stepped w g (fun _ l => l) k

/-- An entry of an attn takes effect (R254, R255), whatever its group does meanwhile: an empty descriptor only moves on; for any other the x values of the kept tokens within LIM raise MRUN, and, unless some row then exceeds MREF by more than 8, each row's L takes its rounded sum of P, which is also kept as PSUM of the entry, and each output element takes its blocks of P against V;
where a row exceeds it, the state tile becomes pending and nothing more is done until rescale, after which the entry goes on from the x values it had formed; and after the last entry the attn is over and its tiles are held no longer. Of several attns of a group it is the oldest that can go on. That the entries run beside the group, each in a step of its own, is the model's reading (log entry 58: DEDUCED). -/
def Obligations.AttentionEntries : Prop :=
  ∀ (s s1 : State) (w : Warp) (tr : Tray) (r : AttnRun) (pre post : List AttnRun) (d : Snap) (l ti gr kimg vimg : Nat),
    let a := w.agent
    let idle := fun (x : AttnRun) => x.runs = false ∨ s.attnWaits a tr x = true
    let x := d.desc.toNat
    let st := tr.tile r.tile
    let kt := x / 2 ^ 224 % 16
    let vt := x / 2 ^ 228 % 16
    let ns := (List.range (r.dim / 32 + 1)).map fun j => r.tile + j
    let slots := (rowsOf st.data).map fun row => keptSlots (x / 2 ^ 128 % 2 ^ 64) d.idx (row.getD 4 0).toNat
    let scored := if r.hold then (List.range 32).map fun i => (r.xs.filter fun x => x.1 == i).map fun x => (x.2.1, x.2.2.toNat)
      else slots.zipIdx.map fun p => (rowX (queryOf r p.2) r.scale.toNat kt r.dim kimg p.1).xs
    let rows := if r.hold then rowsOf st.data else ((rowsOf st.data).zip scored).map fun p => rowAfterX p.1 p.2
    let high := rows.any fun row => (excess (row.getD 1 0).toNat (row.getD 0 0).toNat).isSome
    let probs := (rows.zip scored).map fun p => p.2.map fun x => (x.1, (probOf (x.2 % 2 ^ 32) (p.1.getD 0 0).toNat).1)
    let sums := probs.map psumOf
    let moved := fun (t : State) => ∃ w', t.warp? a = some w' ∧
      w' = { w with fstat := w'.fstat, attns := pre ++ (if r.next + 1 < r.list.length then [{ r with next := r.next + 1, hold := false, xs := [] }] else []) ++ post }
    a = .group l ti gr → s.warp? a = some w → s.tray? l ti = some tr → tr.launch = l → tr.idx = ti → w.gone = false → s.stands w = false → w.attns = pre ++ r :: post → (∀ x ∈ pre, idle x) → (∀ x ∈ pre ++ post, x.tile ≠ r.tile) → r.runs = true → s.retires = [] →
    r.snaps[r.next]? = some d →
    (r.hold = true → st.pending = true → (∀ x ∈ post, idle x) → exec (.attnEntry a) s = .next s) ∧
    (kt = 0 → r.hold = false → ∃ t, exec (.attnEntry a) s = .next t ∧ moved t ∧ t.mem = s.mem ∧ ∀ tr', t.tray? l ti = some tr' → ∀ q, (tr'.tile q).data = (tr.tile q).data) ∧
    (kt ≠ 0 → r.hold = false → s.attnFrames a r.dim x (slots.foldl union []) = .ok kimg vimg s1 → high = true →
      ∃ t tr' w', exec (.attnEntry a) s = .next t ∧ t.tray? l ti = some tr' ∧ t.warp? a = some w' ∧ (r.tile < tr.tiles.length → (tr'.tile r.tile).data = rows.flatten ∧ (tr'.tile r.tile).pending = true) ∧
        (∀ q, q ≠ r.tile → tr'.tile q = tr.tile q) ∧ w' = { w with fstat := w'.fstat, attns := w'.attns } ∧ (∃ xs, w'.attns = pre ++ { r with hold := true, xs := xs } :: post) ∧ t.mem = s1.mem) ∧
    (kt ≠ 0 → s.attnFrames a r.dim x (slots.foldl union []) = .ok kimg vimg s1 → (r.hold = true ∧ st.pending = false) ∨ (r.hold = false ∧ high = false) → r.tile + r.dim / 32 < tr.tiles.length →
      (∀ q ∈ ns, (tr.tile q).data.length = 1024) →
      ∃ t tr', exec (.attnEntry a) s = .next t ∧ t.tray? l ti = some tr' ∧ moved t ∧ t.mem = s1.mem ∧ (∀ q, q ∉ ns → tr'.tile q = tr.tile q) ∧
        (∀ p, p < 32 → let row := rows.getD p []
          let new := (rowsOf (tr'.tile r.tile).data).getD p []
          let sum := (sums.getD p (0, 0)).1
          new = ((row.set 2 (BitVec.ofNat 32 (FFmt.f32.accum (row.getD 2 0).toNat sum).1)).set (16 + r.next) (BitVec.ofNat 32 sum))) ∧
        (∀ k p q, k < r.dim / 32 → p < 32 → q < 32 → let ps := probs.getD p []
          let old := elemAt (tr.tile (r.tile + 1 + k)).data false p q
          elemAt (tr'.tile (r.tile + 1 + k)).data false p q = (if ps = [] then old else (outElem ps vt r.dim vimg (32 * k + q) old).1) % 2 ^ 32))

/-- rescale (R256, R383): on a pending state tile every row above MREF + 8 takes n = ceil((MRUN − MREF) / 8), its sums and outputs are multiplied by 2^(−8n) and MREF rises by 8n, the tile is pending no longer and p is set; on a tile that is not held it does nothing and clears p; otherwise it waits. -/
def Obligations.RescaleCompletes : Prop :=
  ∀ (s : State) (w : Warp) (g : Guard) (tr : Tray) (p : BitVec 3) (a : BitVec 6) (l ti gr : Nat),
    let i := Instr.rescale g p a
    let x := tr.tile a.toNat
    let dim := (x.last.map LastAttn.dim).getD 0
    Issues s w i → (w.passing g).isEmpty = false → w.agent = .group l ti gr → s.tray? l ti = some tr → tr.launch = l → tr.idx = ti → x.alloc = true →
    (x.pending = true → (∀ j, j ≤ dim / 32 → (tr.tile (a.toNat + j)).data.length = 1024 ∧ a.toNat + j < tr.tiles.length) → ∃ t tr' w', exec i s = .next t ∧ t.tray? l ti = some tr' ∧ t.warp? w.agent = some w' ∧
      GroupEffect w w' w.sreg w'.fstat (stepped w g fun _ l => l.setPred p true) ∧ (tr'.tile a.toNat).pending = false ∧ (∀ q, q < a.toNat ∨ a.toNat + dim / 32 < q → tr'.tile q = tr.tile q) ∧
      t.mem = s.mem ∧ (∀ r, r < 32 → let row := (rowsOf x.data).getD r []
        let new := (rowsOf (tr'.tile a.toNat).data).getD r []
        match excess (row.getD 1 0).toNat (row.getD 0 0).toNat with
        | none => new = row ∧ ∀ k q, k < dim / 32 → q < 32 → elemAt (tr'.tile (a.toNat + 1 + k)).data false r q = elemAt (tr.tile (a.toNat + 1 + k)).data false r q
        | some e => ∃ n : Nat, 8 * (n : ℚ) - 8 < (e.m : ℚ) * 2 ^ e.e ∧ (e.m : ℚ) * 2 ^ e.e ≤ 8 * n ∧
          (∀ m, valQ .f32 (row.getD 0 0).toNat = some m → RoundedTo .f32 .rne (m + 8 * n) (new.getD 0 0).toNat) ∧
          new.getD 2 0 = BitVec.ofNat 32 (FFmt.f32.scale .rne (row.getD 2 0).toNat (-(8 * n : Nat))).1 ∧ new.getD 1 0 = row.getD 1 0 ∧ new.getD 3 0 = row.getD 3 0 ∧ new.getD 4 0 = row.getD 4 0 ∧
          (∀ q, 16 ≤ q → q < 32 → new.getD q 0 = BitVec.ofNat 32 (FFmt.f32.scale .rne (row.getD q 0).toNat (-(8 * n : Nat))).1) ∧
          ∀ k q, k < dim / 32 → q < 32 → elemAt (tr'.tile (a.toNat + 1 + k)).data false r q =
            (FFmt.f32.scale .rne (elemAt (tr.tile (a.toNat + 1 + k)).data false r q) (-(8 * n : Nat))).1 % 2 ^ 32)) ∧
    (x.pending = false → x.held = none → ∃ t u, exec i s = .next t ∧ t.warp? w.agent = some u ∧ GroupEffect w u w.sreg w.fstat (stepped w g fun _ l => l.setPred p false) ∧ t.mem = s.mem ∧ t.regs = s.regs ∧ ∀ tr', t.tray? l ti = some tr' → ∀ q, (tr'.tile q).data = (tr.tile q).data ∧ (tr'.tile q).owner = (tr.tile q).owner) ∧
    (x.pending = false → x.held ≠ none → ∃ t u, exec i s = .next t ∧ t.warp? w.agent = some u ∧ u.wait = some .rescale ∧ u.lanes = w.lanes)

/-- attn.close (R257, R384) on tiles that are not held: an empty row's outputs become zero and its EMPTY flag is set, a NaN row stays, and any other row's outputs are divided by L and rounded; said for a list whose entries were all empty, which add no mass. The mass of an entry is the sum of PSUM / L over the rows with a finite non-zero L, truncated to Q16.16 and capped, and a mass add writes the saturated sum at its descriptor. A tile with no attn since the tray started traps with cause 0x02. A mass that R257 gives no value is a free value (log entry 2: DESIGN CHOICE). -/
def Obligations.AttentionCloses : Prop :=
  ∀ (s : State) (w : Warp) (g : Guard) (tr : Tray) (d : BitVec 6) (la : LastAttn),
    let i := Instr.attnClose g d
    let ns := (List.range (la.dim / 32 + 1)).map fun j => d.toNat + j
    let x := tr.tile d.toNat
    Issues s w i → (w.passing g).isEmpty = false →
    (TilesFree s w tr [] ns → x.last = some la → (∀ q ∈ ns, (tr.tile q).data.length = 1024 ∧ q < tr.tiles.length) → (∀ e ∈ la.entries, e.2 = true) →
      ∃ t tr' w', exec i s = .next t ∧ t.tray? tr.launch tr.idx = some tr' ∧ t.warp? w.agent = some w' ∧ GroupEffect w w' w.sreg w'.fstat (stepped w g fun _ l => l) ∧
        t.mem = s.mem ∧ t.regs = s.regs ∧ (∀ c, c ≠ w.agent → t.warp? c = s.warp? c) ∧ (∀ q, q ∉ ns → tr'.tile q = tr.tile q) ∧
        ∀ r, r < 32 → let row := (rowsOf x.data).getD r []
          let sum := (row.getD 2 0).toNat
          (rowsOf (tr'.tile d.toNat).data).getD r [] = (if sum = 0 then row.set 3 (row.getD 3 0 ||| 1) else row) ∧
          ∀ k q, k < la.dim / 32 → q < 32 → let old := elemAt (tr.tile (d.toNat + 1 + k)).data false r q
            elemAt (tr'.tile (d.toNat + 1 + k)).data false r q =
              if sum = 0 then 0 else if (FFmt.f32.dec sum).isNan then old else (FFmt.f32.div .rne old sum).1 % 2 ^ 32) ∧
    (∀ (rows : List (List Word32)) (e : Nat), let q := fun (r : List Word32) (j : Nat) => valQ .f32 (r.getD j 0).toNat
      let m := (rows.map fun r => match q r 2, q r (16 + e) with
        | some l, some p => p / l
        | _, _ => (0 : ℚ)).sum
      (∀ r ∈ rows, ∀ l, q r 2 = some l → l ≠ 0 → ∀ n, FFmt.f32.dec (r.getD (16 + e) 0).toNat ≠ .inf n) → 0 ≤ m → massOf rows e = min ⌊m * 65536⌋.toNat 0xFFFFFFFF) ∧
    (∀ (k n va x : Nat) (t : Target) (s1 : State), let u := s.sampled w k t 3 (s.servedBy w.agent t)
      t.place = .mem [.fab n] 15 → t.sub = 0 → t.fab = some (4 * n) → u.redFails (4 * n) = none → (u.ord w.agent).outbox = [] →
      (u.newest (.fab n)).poison = false → bit u.regs.srvCtl.toNat 1 = false → (u.readAt w.agent t 4 false).2.room (4 * n) = some s1 →
      let s' := s.massAdd w k ⟨va, x, .ok t⟩
      ((s'.newest (.fab n)).val.toNat % 2 ^ 32 = min ((u.newest (.fab n)).val.toNat % 2 ^ 32 + x) 0xFFFFFFFF) ∧ ∀ y, y ≠ .fab n → (s'.newest y).val = (s1.newest y).val) ∧
    (x.last = none → x.alloc = true → (∃ l ti gr, w.agent = .group l ti gr ∧ s.tray? l ti = some tr) → exec i s = .next (s.trapFront w (.of 0x02)))

/-- slot gives the packed slot of a kept token, the count of kept tokens below it, and clears p[C]; of a token that is not kept, or above 63, all ones with p[C] set (R247, R385). btswap, its checks passed, performs a release at device scope and in the same step exchanges the descriptors of each pair but for GEN, SHADOW and MIGRATING, and counts GEN of
each (R265, R386); said for a RACY launch that is neither recorded nor replayed, one pair, and descriptors whose words no host line and no length entry watches. -/
def Obligations.SlotsAndSwaps : Prop :=
  ∀ (s s1 s2 : State) (w : Warp) (g : Guard) (d a : BitVec 8) (b : SSrc) (c : BitVec 3) (la : Launch) (tr : Tray) (t0 t1 : Target) (f0 f1 : Nat),
    (Issues s w (.slot g d a b c) → Completes s w (.slot g d a b c) w.sreg w.fstat (stepped w g fun _ l =>
      let t := (l.v.getD a.toNat 0).toNat
      if t ≤ 63 ∧ (rdS w b).getLsbD t = true then (l.withV false d.toNat ((List.range t).filter fun j => (rdS w b).getLsbD j).length).setPred c false
      else (l.withV false d.toNat 0xFFFFFFFF).setPred c true)) ∧
    (let off := (rdS w b).toNat % 2 ^ 32;
      let r := s.readSp w.agent la tr.idx off 64
      let va := fun k => r.1 / 2 ^ (64 * k) % 2 ^ 64
      let i := Instr.btswap g b 0
      Issues s w i → (w.passing g).isEmpty = false → s.launchOf w.agent = some la → s.groupTray w = some tr → la.f.racy = true → la.f.mode = 0 → off % 64 = 0 → off + 64 ≤ la.f.spBytes → s.spPoison la.id tr.idx off 64 = false → va 0 ≠ va 1 →
      s.hitHalt w .g .atom 32 [va 0, va 1] = none → swapChecks w [va 0, va 1] r.2 = .ok ([t0, t1], s1) → w.dsr = none → (s1.ord w.agent).outbox = [] → t0.fab = some f0 → t1.fab = some f1 → t0.sub = 0 → t1.sub = 0 → f0 % 32 = 0 → f1 % 32 = 0 → f0 ≠ f1 →
      t0.place = .mem ((List.range 8).map fun j => .fab (f0 / 4 + j)) 15 → t1.place = .mem ((List.range 8).map fun j => .fab (f1 / 4 + j)) 15 →
      (s1.publish w.agent).side f0 = .served → (s1.publish w.agent).side f1 = .served → (s1.publish w.agent).roomFor ⟨((writeOp (w.lane (w.front.headD 0)) (w.front.headD 0) t0 0).pieces ++
        (writeOp (w.lane (w.front.headD 0)) (w.front.headD 0) t1 0).pieces), 0, 0, 0, 0⟩ = some s2 → bit s.regs.srvCtl.toNat 1 = false →
      (∀ j, j < 8 → (s2.newest (.fab (f0 / 4 + j))).poison = false ∧ (s2.newest (.fab (f1 / 4 + j))).poison = false) →
      let u := ([t0, t1] : List Target).foldl (fun (s : State) t => s.sampled w (w.front.headD 0) t 3 (s.servedBy w.agent t)) (s2.releaseNow w.agent .device).2
      let old := fun (f : Nat) => ((List.range 8).map fun j => (u.newest (.fab (f / 4 + j))).val.toNat % 2 ^ 32 * 2 ^ (32 * j)).sum
      let word := fun (t : State) f j => (t.newest (.fab (f / 4 + j))).val.toNat % 2 ^ 32
      ∃ t w', exec i s = .next t ∧ t.warp? w.agent = some w' ∧ GroupEffect w w' w.sreg w.fstat (stepped w g fun _ l => l) ∧ (∀ x, x ≠ w.agent → t.warp? x = s.warp? x) ∧
        (∃ q ∈ t.rels, q.id = ⟨w.agent, (s1.ord w.agent).nrel + 1⟩) ∧
        (∀ j, j < 7 → word t f0 j = word u f1 j ∧ word t f1 j = word u f0 j) ∧
        (∀ f o, (f = f0 ∧ o = f1) ∨ (f = f1 ∧ o = f0) →
          word t f 7 = (old o / 2 ^ 224 % 2 ^ 8) + (old f / 2 ^ 232 % 2) * 2 ^ 8 + (old o / 2 ^ 233 % 2 ^ 3) * 2 ^ 9 + (old f / 2 ^ 236 % 2 ^ 4) * 2 ^ 12 + ((old f / 2 ^ 240 + 1) % 2 ^ 16) * 2 ^ 16))

/-! Engine commands as programs issue them (R276, R388, R389) -/

/-- Every format-E instruction builds its record and joins the outbox (R389): with the image's offset, bounds and word 7 checked, the record's address writable and no halting watchpoint on it, a 64-byte write of the record and the command behind it join the outbox, s[D] is pending, and the front goes on; memory does not change at issue. Said for a RACY launch. An image offset that is
not a multiple of 64 traps with cause 0x17, one outside the allocation with 0x20 and the front's mask, a poisoned image with 0x14, a word 7 that is not zero with 0x02. That DETAIL holds the image's offset for 0x17 and 0x14, and that the check of a poisoned image stands among those of R389, is the model's reading (log entry 39: DEDUCED). -/
def Obligations.EngineInstructions : Prop :=
  ∀ (s s1 : State) (w : Warp) (g : Guard) (f : EFlags) (kf : BitVec 16) (d : BitVec 6) (a : SSrc) (ch : BitVec 6) (la : Launch) (tr : Tray) (t : Target),
    let off := (rdS w a).toNat % 2 ^ 32
    let r := s.readSp w.agent la tr.idx off 64
    let va := r.1 % 2 ^ 64
    let Joins := fun (i : Instr) (kind kflags : Nat) => Issues s w i → (w.passing g).isEmpty = false → s.launchOf w.agent = some la → s.groupTray w = some tr → la.f.racy = true →
      (off % 64 ≠ 0 → exec i s = .next (s.trapFront w (.at 0x17 off))) ∧
      (off % 64 = 0 → la.f.spBytes < off + 64 → exec i s = .next (s.trapFront w (.at 0x20 ((maskOf w.front).toNat * 2 ^ 32 + off)))) ∧
      (off % 64 = 0 → off + 64 ≤ la.f.spBytes → s.spPoison la.id tr.idx off 64 = true → exec i s = .next (s.trapFront w (.at 0x14 off))) ∧
      (off % 64 = 0 → off + 64 ≤ la.f.spBytes → s.spPoison la.id tr.idx off 64 = false → r.1 / 2 ^ 448 % 2 ^ 64 ≠ 0 → exec i s = .next (r.2.trapFront w (.of 0x02))) ∧
      (off % 64 = 0 → off + 64 ≤ la.f.spBytes → s.spPoison la.id tr.idx off 64 = false → r.1 / 2 ^ 448 % 2 ^ 64 = 0 → va % 64 = 0 → r.2.hitHalt w .g .store 64 [va] = none →
        r.2.check w (w.front.headD 0) .g .store false true va 64 w.frontMask = .ok (t, s1) →
        let s2 := s1.publish w.agent
        let word0 := kind + (if f.acq then 2 ^ 8 else 0) + (if f.rel then 2 ^ 9 else 0) + f.scope.code * 2 ^ 10 + (if f.irq then 2 ^ 13 else 0) + kflags * 2 ^ 16
        let op := writeOp (w.lane (w.front.headD 0)) (w.front.headD 0) t (word0 + 2 ^ 64 * (r.1 / 2 ^ 64 % 2 ^ 384))
        ∃ u w', exec i s = .next u ∧ OnlyGroup (((s2.sampled w (w.front.headD 0) t 2 (s2.servedBy w.agent t)).push w.agent (.write op) false).push w.agent (.command f.scope ch.toNat (t.fab.getD 0) d w.frontPc false) true) u w.agent w' ∧
          w' = { w with lanes := w'.lanes, pendS := w.pendS ++ [d], wait := none, waitF := 0 } ∧ (∀ k, k < w.lanes.length → w'.lane k = stepped w g (fun _ l => l) k) ∧
          { u.regs with cmpCfg := s.regs.cmpCfg, mtStat := s.regs.mtStat } = s.regs ∧ u.mem = s.mem)
    Joins (.append g f kf d a ch) 1 kf.toNat ∧ Joins (.copy g f d a ch) 2 0 ∧ Joins (.stream g f d a ch) 3 0 ∧ Joins (.gather g f d a ch) 4 0 ∧ Joins (.select g f d a ch) 5 0 ∧
    Joins (.coll g f d a ch) 6 0 ∧ Joins (.demote g f d a ch) 7 0 ∧ Joins (.migrate g f d a ch) 8 0

/-! The order machine's own steps (R155, R173 to R178, R193 to R196) -/

/-- A write drains (R173): one behind nothing but writes that share no word with it, into no tray that a slide holds, which the memory side takes, becomes the newest version of each of its words, with its bytes alone changed, written by the agent and published by no release yet; it leaves the outbox, and every other word and every group is as before, but for the ACC bits of the walks that its
lines make (R165). Said for a group or a handler group, and a package that does not watch length entries. A write that fails is charged to the group's deferred store record instead (R168) and changes no word. Which lines walk at a drain is the model's reading (log entry 76: DEDUCED). -/
def Obligations.AWriteDrains : Prop :=
  ∀ (s s1 : State) (a : Agent) (k : Nat) (w : WriteOp) (rg : Nat), (∀ p, a ≠ .port p) → (∀ c h q, a ≠ .engine c h q) →
    (s.ord a).outbox[k]? = some ⟨.write w, rg⟩ → (∀ e ∈ (s.ord a).outbox.take k, ∃ v, e.kind = .write v ∧ v.overlaps w = false) → s.intoSlide w = false → s.writeInHold w = none →
    (s.writeFails w = none → s.writeAbsent w = none → s.roomFor w = some s1 → bit s.regs.srvCtl.toNat 1 = false → (w.pieces.map Piece.loc).Nodup → (∀ p ∈ w.pieces, ∀ l t r, p.loc ≠ .ctl l t r) →
      s.mem.wf = true → (∀ t ∈ s.trays, t.sp.wf = true ∧ t.pm.wf = true) →
      let u := s1.walkLines w
      ∃ t, exec (.drainWrite a k) s = .next t ∧ (t.ord a).outbox = (s.ord a).outbox.eraseIdx k ∧ (∀ b, t.warp? b = s.warp? b) ∧
        (∀ x, x ∉ w.pieces.map Piece.loc → (t.newest x).val = (u.newest x).val) ∧
        ∀ p ∈ w.pieces, (t.newest p.loc).writer = some a ∧ (t.newest p.loc).pub = .none ∧ (t.newest p.loc).poison = false ∧
          ∀ j, j < 4 → bits (t.newest p.loc).val.toNat (8 * j) 8 = if p.mask.getLsbD j then bits p.val.toNat (8 * j) 8 else bits (u.newest p.loc).val.toNat (8 * j) 8) ∧
    (∀ c v, s.writeFails w = some c → s.warp? a = some v → v.dsr = none → (s.launchOf a).bind Launch.ending = none →
      ∃ t u, exec (.drainWrite a k) s = .next t ∧ t.mem = (s.walkLines w).mem ∧ t.vers = (s.walkLines w).vers ∧ (t.ord a).outbox = (loseCommand w (s.ord a).outbox).eraseIdx k ∧ t.warp? a = some u ∧
        u = { v with dsr := some ⟨w.pc, w.vlane, w.ident, w.va, BitVec.ofNat 8 c, false⟩ })

/-- A release at the head of an outbox of a group, a handler group or an engine command is performed (R173, R175): it is numbered next, its view is the agent's view and itself, it joins the agent's instances of its scope, every version of the agent that no release had published is published by it, the words it had written register to their core (R187), the entry is gone and the region it ended gives up its tracking slots. A store release writes its words in the same
step, published by it (R355), and if its write fails neither is performed and the front, where the group has one, traps with the record (R169; that it traps wherever it has got to meanwhile is the model's reading, log entry 50: DEDUCED); an arrival sets out (R364). An arrival on its way counts into its sync word (R155): COUNT takes the bytes, clamped at 2^32 − 1 with OVF set, and what exceeds TARGET counts generations. -/
def Obligations.ReleasesAndArrivals : Prop :=
  ∀ (s s1 : State) (a : Agent) (sc : Scope) (w : WriteOp) (rg : Nat) (rest : List OutEntry), (∀ p, a ≠ .port p) →
    let id : RelId := ⟨a, (s.ord a).nrel + 1⟩
    let Performed := fun (s0 t : State) => (t.ord a).outbox = rest ∧ (t.ord a).nrel = (s.ord a).nrel + 1 ∧ id ∈ (t.ord a).view ∧
      (∃ r ∈ t.rels, r.id = id ∧ r.insts = s0.instOf a sc ∧ r.members = s0.members a ∧ ∀ x, x ∈ r.view ↔ x ∈ (s.ord a).view ∨ x = id) ∧
      (∀ x ∈ (t.ctx (t.ctxOf a)).track, x.agent = a → rg < x.region)
    ((s.ord a).outbox = ⟨.release sc none, rg⟩ :: rest → ∃ t, exec (.drainRelease a) s = .next t ∧ Performed s t ∧ t.mem = s.mem ∧ t.regs = s.regs ∧ t.trays = s.trays ∧
      t.unregd = s.unregd.filter (fun y => y.2.2 != a) ∧ ((s.unregd.map Prod.fst).Nodup → ∀ y ∈ s.unregd, y.2.2 = a → (s.newest (.fab y.1)).writer = some a → alGet t.regd y.1 = some y.2.1) ∧
      ∀ x vs, alGet t.vers x = some vs → ∃ us, alGet s.vers x = some us ∧ vs = us.map fun v => if v.writer = some a ∧ v.pub = .none then { v with pub := .rel id } else v) ∧
    ((s.ord a).outbox = ⟨.release sc (some w), rg⟩ :: rest → s.intoSlide w = false → s.writeInHold w = none →
      (s.writeFails w = none → s.writeAbsent w = none → s.roomFor w = some s1 → bit s.regs.srvCtl.toNat 1 = false → ∃ t, exec (.drainRelease a) s = .next t ∧ Performed s1 t ∧
        ∀ p ∈ w.pieces, (t.newest p.loc).pub = .rel id ∧ (t.newest p.loc).writer = some a) ∧
      (∀ c v, s.writeFails w = some c → s.warp? a = some v → v.dsr = none → v.late = none → (s.launchOf a).bind Launch.ending = none →
        let failed : DeferredRec := ⟨w.pc, w.vlane, w.ident, w.va, BitVec.ofNat 8 c, false⟩
        let Kept := fun (t : State) => (t.ord a).outbox = loseCommand w rest ∧ (t.ord a).nrel = (s.ord a).nrel ∧ t.rels = s.rels ∧ t.mem = (s.walkLines w).mem
        (v.front = [] → ∃ t, exec (.drainRelease a) s = .next t ∧ Kept t ∧ t.warp? a = some { v with dsr := some failed }) ∧
        (v.front ≠ [] → s.stands v = true → ∃ t, exec (.drainRelease a) s = .next t ∧ Kept t ∧ t.warp? a = some { v with late := some (.trap failed.trap) }) ∧
        (v.front ≠ [] → s.stands v = false → ∃ t, exec (.drainRelease a) s = .next (t.trapFront v failed.trap) ∧ Kept t ∧ t.warp? a = some v))) ∧
    (∀ tr off n l, (s.ord a).outbox = ⟨.arrive sc tr off n, rg⟩ :: rest → a.launchId = some l → ∃ t, exec (.drainRelease a) s = .next t ∧ Performed s t ∧ t.mem = s.mem ∧
      t.arriving = s.arriving ++ [⟨l, tr, off, n, id⟩]) ∧
    (∀ (x : Arrival) (tr : Tray), x ∈ s.arriving → s.arriving.find? (fun y => y.launch == x.launch && y.tray == x.tray && y.off == x.off && y.n == x.n) = some x →
      s.tray? x.launch x.tray = some tr → (∀ l, s.launch? x.launch = some l → l.phase ≠ .sliding) →
      let fld := fun (t : State) j => (t.newest (.sp x.launch x.tray (x.off / 4 + j))).val.toNat % 2 ^ 32
      let sum := min (fld s 1 + x.n) 0xFFFFFFFF
      (∀ j, j < 4 → (s.newest (.sp x.launch x.tray (x.off / 4 + j))).val.toNat < 2 ^ 32) →
      ∃ t, exec (.syncWordArrival x.launch x.tray x.off x.n) s = .next t ∧ t.arriving = s.arriving.erase x ∧ t.mem = s.mem ∧ t.regs = s.regs ∧ fld t 0 = fld s 0 ∧
        (x.n = 0 → fld t 1 = fld s 1 ∧ fld t 2 = fld s 2 ∧ fld t 3 = fld s 3) ∧
        (x.n ≠ 0 → fld t 1 = (if fld s 0 = 0 then sum else sum % fld s 0) ∧ fld t 2 = (if fld s 0 = 0 then fld s 2 else (fld s 2 + sum / fld s 0) % 2 ^ 32) ∧
          (bit (fld t 3) 0 = (bit (fld s 3) 0 || decide (0xFFFFFFFF < fld s 1 + x.n)))) ∧ (t.newest (.sp x.launch x.tray (x.off / 4 + 2))).pub = .rel x.rel)

/-- An engine command at the head of an outbox (R178, R389), said for a launch that is neither recorded nor replayed: its release is performed, the record is appended to the chain with the next sequence number, the group and the release as its appender, and s[D] receives the number and is pending no longer (in a halted group its old value stays noted for the dump, R221; so with the answer of a freeze or thaw). With its record's write failed, or the group's deferred store record held, nothing is appended, s[D] is zero, and the front traps with the record (R169, R389; log entry 50: DEDUCED). Freezes and thaws at the head of an outbox (R193, R194, R196), said for a launch that is neither recorded nor replayed: a freeze performs a release at system scope and, with no word of the range written in an open region of another agent, adds 1 to the count of its entry or makes one; a 65th entry answers 1 at once; an acknowledged one answers 0. A thaw of a count
above 1 lowers it and answers 0, of a count of 1 performs a release at system scope and answers its number, of no entry answers all ones. When the replicas of thaw n are gone, its entry is freed, and the completion word grows to the last thaw up to which every one has ended. That a thaw of no entry, or one of several outstanding, performs no release is the model's reading (log entry 62: DEDUCED). -/
def Obligations.CommandsAndFreezesDrain : Prop :=
  (∀ (s : State) (a : Agent) (sc : Scope) (ch : BitVec 6) (addr rg : Nat) (d : BitVec 6) (pc : Pc) (rest : List OutEntry) (w : Warp),
      let c := s.ctxOf a
      let seq := ((s.chain c ch.toNat).seq + 1) % 2 ^ 64
      (s.ord a).outbox = ⟨.command sc ch.toNat addr d pc false, rg⟩ :: rest → s.warp? a = some w → w.dsr = none → (s.who a).mode = 0 → s.midList c ch.toNat = false → (s.ctx c).chains.length = 64 → (∀ r ∈ (s.chain c ch.toNat).recs, r.seq ≠ seq) →
      ∃ t w' r, exec (.drainCommand a) s = .next t ∧ (t.ord a).outbox = rest ∧ (t.ord a).nrel = (s.ord a).nrel + 1 ∧ t.warp? a = some w' ∧ w' = { lateS w d pc with sreg := putS w.sreg d.toNat (BitVec.ofNat 64 seq), pendS := w.pendS.erase d } ∧
        (t.chain c ch.toNat).seq = seq ∧ (t.chain c ch.toNat).tail = some addr ∧ (t.chain c ch.toNat).recs = (s.chain c ch.toNat).recs ++ [r] ∧ r.seq = seq ∧ r.addr = addr ∧ r.st = 0 ∧
        r.appender = some a ∧ r.rel = some ⟨a, (s.ord a).nrel + 1⟩ ∧ (∀ b, b ≠ a → t.warp? b = s.warp? b)) ∧
  (∀ (s : State) (a : Agent) (sc : Scope) (ch : BitVec 6) (addr rg : Nat) (d : BitVec 6) (pc : Pc) (lost : Bool) (rest : List OutEntry) (w : Warp),
      (s.ord a).outbox = ⟨.command sc ch.toNat addr d pc lost, rg⟩ :: rest → s.warp? a = some w → w.late = none → lost = true ∨ w.dsr ≠ none →
      let w0 := { lateS w d pc with sreg := putS w.sreg d.toNat 0, pendS := w.pendS.erase d }
      let Kept := fun (t : State) => (t.ord a).outbox = rest ∧ (t.ord a).nrel = (s.ord a).nrel ∧ t.mem = s.mem ∧ t.ctxs = s.ctxs
      (w.dsr = none ∨ w.front = [] → ∃ t, exec (.drainCommand a) s = .next t ∧ Kept t ∧ t.warp? a = some w0) ∧
      (∀ r, w.dsr = some r → w.front ≠ [] → s.stands w = true → ∃ t, exec (.drainCommand a) s = .next t ∧ Kept t ∧ t.warp? a = some { w0 with dsr := none, late := some (.trap r.trap) }) ∧
      (∀ r, w.dsr = some r → w.front ≠ [] → s.stands w = false → ∃ t, exec (.drainCommand a) s = .next (t.trapFront { w0 with dsr := none } r.trap) ∧ Kept t)) ∧
  (∀ (s : State) (a : Agent) (base size rg n : Nat) (va : Word) (pc : Pc) (d : BitVec 6) (rest : List OutEntry) (w : Warp) (c : Fin 256),
      let x := s.ctx (s.ctxOf a)
      let same := fun (e : FrzEntry) => e.base == base && e.size == size
      let open_ := fun (e : FrzEntry) => e.base == base && e.size == size && e.thaw.isNone
      let answered := fun (t : State) (v : Nat) => if s.stands w then t.warp? a = some { w with late := some (.result d v) }
        else ∃ w', t.warp? a = some w' ∧ GroupEffect w w' (putS w.sreg d.toNat (BitVec.ofNat 64 v)) w.fstat fun k => if k ∈ w.front then (w.lane k).advance else w.lane k
      s.warp? a = some w → w.late = none → (s.who a).mode = 0 →
      ((s.ord a).outbox = ⟨.freeze base size va pc, rg⟩ :: rest → w.wait = some (.freeze d) → x.frozen.any (fun e => same e && e.thaw.isSome) = false →
        (∀ y ∈ x.track, ∀ f, y.loc = .fab f → y.write = true → y.agent ≠ a → 4 * f < base ∨ base + size ≤ 4 * f) →
        ∃ t, exec (.drainFreeze a) s = .next t ∧ (t.ord a).outbox = rest ∧ (t.ord a).nrel = (s.ord a).nrel + 1 ∧ t.mem = s.mem ∧
          (∀ e, x.frozen.find? same = some e → e.count < 65535 →
            (t.ctx (s.ctxOf a)).frozen = (x.frozen.map fun y => if same y then { y with count := y.count + 1 } else y) ∧ t.warp? a = some w) ∧
          (x.frozen.find? same = none → x.frozen.length < 64 → (t.ctx (s.ctxOf a)).frozen = x.frozen ++ [⟨base, size, 1, none, none⟩] ∧ t.warp? a = some w) ∧
          (x.frozen.find? same = none → 64 ≤ x.frozen.length → (t.ctx (s.ctxOf a)).frozen = x.frozen ∧ answered t 1)) ∧
      ((s.ord a).outbox = [] → w.wait = some (.freeze d) → ∃ t, exec (.freezeAcknowledged a) s = .next t ∧ answered t 0 ∧ t.mem = s.mem ∧ t.ctxs = s.ctxs) ∧
      ((s.ord a).outbox = ⟨.thaw base size, rg⟩ :: rest → w.wait = some (.thaw d) → ∃ t, exec (.drainThaw a) s = .next t ∧ (t.ord a).outbox = rest ∧ t.mem = s.mem ∧
        (x.frozen.find? open_ = none → (t.ctx (s.ctxOf a)).frozen = x.frozen ∧ (t.ord a).nrel = (s.ord a).nrel ∧ answered t (2 ^ 64 - 1)) ∧
        (∀ e, x.frozen.find? open_ = some e → 1 < e.count →
          (t.ctx (s.ctxOf a)).frozen = (x.frozen.map fun y => if open_ y then { y with count := y.count - 1 } else y) ∧ (t.ord a).nrel = (s.ord a).nrel ∧ answered t 0) ∧
        (∀ e, x.frozen.find? open_ = some e → e.count ≤ 1 → (t.ctx (s.ctxOf a)).thaws = x.thaws + 1 ∧ (t.ord a).nrel = (s.ord a).nrel + 1 ∧ answered t (x.thaws + 1) ∧
          (t.ctx (s.ctxOf a)).frozen = x.frozen.map fun y => if open_ y then { y with thaw := some (x.thaws + 1), rel := some ⟨a, (s.ord a).nrel + 1⟩ } else y)) ∧
      (∀ e, (s.ctx c.val).frozen.find? (fun e => e.thaw == some n) = some e → ∃ t, exec (.thawReplicasRemoved c n) s = .next t ∧
        (t.ctx c.val).frozen = (s.ctx c.val).frozen.erase e ∧ (∀ q ∈ t.cached, 4 * q.1 < e.base ∨ e.base + e.size ≤ 4 * q.1) ∧
        (n = (s.ctx c.val).thawDone + 1 → (s.ctx c.val).thawOut = [] → (t.ctx c.val).thawDone = n ∧ (t.ctx c.val).thawOut = [] ∧ let addr := bits (s.ctx c.val).frz.toNat 3 49 * 8
          addr ≠ 0 → n < 2 ^ 64 → s.mem.wf = true → memRead t.mem addr 8 = n) ∧
        (n ≠ (s.ctx c.val).thawDone + 1 → (s.ctx c.val).thawOut = [] → (t.ctx c.val).thawDone = (s.ctx c.val).thawDone ∧ t.mem = s.mem)))

/-! The host's steps (R10, R47 to R65) -/

/-- The management semaphore (R48, R49) and what it guards (R47): a claim of n through port n takes a free semaphore or one the port holds, 0xFF from the holder frees it, any other claim sets the port's DENIED bit and changes nothing else; a clearing write clears DENIED bits. A guarded write from a port that does not hold it does nothing but set DENIED, and the refusal bit of
DOM_CFG, PWR_CTL and DIE_RST_CTL. That a write of PWR_CTL is guarded whole is the model's choice (log entry 82: DESIGN CHOICE). -/
def Obligations.TheSemaphoreGuards : Prop :=
  ∀ (s : State) (p : Port) (cl : BitVec 8) (d : BitVec 2), Reaches s p →
    let sem := s.regs.mgmtSem
    let held := sem.getLsbD 9
    let mine := HoldsSem s p
    let kept := fun (w : Word) => ∀ j, j ≠ 8 → j ≠ 9 → w.getLsbD j = sem.getLsbD j
    (cl.toNat = p.val → held = false ∨ mine → ∃ w, exec (.mgmtSemClaim p cl) s = .next (wrote s fun r => { r with mgmtSem := w }) ∧ kept w ∧ w.toNat / 2 ^ 8 % 4 = 2 + p.val) ∧
    (mine → ∃ w, exec (.mgmtSemRelease p) s = .next (wrote s fun r => { r with mgmtSem := w }) ∧ exec (.mgmtSemClaim p 0xFF) s = .next (wrote s fun r => { r with mgmtSem := w }) ∧
      kept w ∧ w.toNat / 2 ^ 8 % 4 = 0) ∧
    (¬ (cl.toNat = p.val ∧ (held = false ∨ mine)) → ¬ (cl = 0xFF ∧ mine) → exec (.mgmtSemClaim p cl) s = .next (wrote s (denied p))) ∧
    (¬ mine → exec (.mgmtSemRelease p) s = .next (wrote s (denied p))) ∧
    (d ≠ 0 → exec (.mgmtSemClearDenied p d) s = .next (wrote s fun r => { r with mgmtSem := sem &&& ~~~ BitVec.ofNat 64 (d.toNat * 2 ^ 16) })) ∧
    (¬ mine → ∀ (slot : BitVec 13) (k : Fin 8) (v : Word) (l : Fin 16) (n : Fin 32) (t : BitVec 21) (z : BitVec 5) (m : BitVec 4) (b : Bool),
      (∀ i ∈ [Instr.keyLoad p slot, .keyDataWrite p k v, .keyCommit p slot, .keyClear p slot, .kemCtWrite p v, .timeCfgWrite p v, .fwLoad p, .fwRestart p, .checkpointStart p, .srvCtlWrite (some p) v, .startStepClear p n,
        .retrain p l], exec i s = .next (wrote s (denied p))) ∧
      exec (.domCfgWrite p v b) s = .next (wrote s fun r => { denied p r with domCfg := r.domCfg ||| 0x2000000 }) ∧
      (∀ i ∈ [Instr.pwrTargetActive p, .pwrTargetRetention p, .pwrTargetOff p], exec i s = .next (wrote s fun r => { denied p r with pwrCtl := r.pwrCtl ||| 0x40 })) ∧
      (∀ i ∈ [Instr.balloonTailWrite (some p) t, .balloonSizeWrite (some p) z], exec i s = .next (wrote s fun r => { denied p r with balCtl := r.balCtl ||| 0x800000000000 })) ∧
      (∀ i ∈ [Instr.coreReset p m b, .uncoreReset p m], exec i s = .next (wrote s fun r => { denied p r with dieRst := r.dieRst ||| BitVec.ofNat 64 (m.toNat * 2 ^ 20) })))

/-- Contexts, ranges and chains under the host (R51 to R62): CREATE opens a free context with every register cleared and the port as its owner, DESTROY frees an idle one, ADOPT takes a context over, STOP ends every started record with status stopped, and one CTX_CTL write with all four bits adopts, destroys and opens anew; a range commit that no condition of R56 refuses sets the size with VALID and leaves the other words, a refused one sets
the bit of the first condition; a chain is enabled, disabled, given its number and its engine within the limits of R61, and an append links the record behind the tail with the next number, or is held until the port's earlier writes have drained (R178). The model's own: CREATE and DESTROY put every register of the block at its reset (log entry 53: DEDUCED), only the first row of R56 that refuses a commit sets its bit (log entry 35: DEDUCED), and a completion word gets its value when its chain is enabled (log entry 82: DESIGN CHOICE). -/
def Obligations.ContextsRangesChains : Prop :=
  ∀ (s : State) (p : Port) (c : Fin 256) (i : Fin 16) (ch : Fin 64) (v : Word) (e : BitVec 4), Reaches s p →
    let x := s.ctx c.val
    let h := s.chain c.val ch.val
    let mine := x.st ≠ 0 ∧ x.owner = p.val
    let idle := ∀ g ∈ x.chains, ∀ r ∈ g.recs, r.st ≠ 1
    let r0 := x.ranges.getD i.val Range.clear
    let size := (v &&& 0x00FFFFFFFFFF001F) ||| 0x20
    (x.st = 0 → bit s.regs.secStat.toNat 3 = false → exec (.ctxCreate p c) s = .next (wroteCtx s c.val fun _ => { Context.clear with st := 1, owner := p.val })) ∧
    (mine → x.st = 1 → idle → ∃ t, exec (.ctxDestroy p c) s = .next t ∧ t = { (wroteCtx s c.val fun _ => Context.clear) with cached := t.cached, links := t.links, sent := t.sent, free := t.free } ∧
      (∀ q ∈ t.cached, q ∈ s.cached ∧ (pkgOf (4 * q.1) ≠ s.pkg → t.frozenAny (4 * q.1) 4 = true)) ∧ ∀ q ∈ s.cached, pkgOf (4 * q.1) = s.pkg ∨ t.frozenAny (4 * q.1) 4 = true → q ∈ t.cached) ∧
    (mine → x.st = 1 → ¬ idle → exec (.ctxDestroy p c) s = .next (wroteCtx s c.val fun x => { x with err := x.err ||| 8 })) ∧
    (HoldsSem s p → x.st ≠ 0 → exec (.ctxAdopt p c) s = .next (wroteCtx s c.val fun x => { x with owner := p.val })) ∧
    (mine → x.chains.length = 64 → ¬ idle → (∀ g ∈ x.chains, (g.recs.map Rec.seq).Nodup) → ∃ t, exec (.ctxStop p c) s = .next t ∧ (t.ctx c.val).st = 2 ∧ t.mem = s.mem ∧ t.regs = s.regs ∧
      ∀ n, n < 64 → (t.chain c.val n).recs = (s.chain c.val n).recs.map fun r => if r.st = 1 then { r with ending := some (r.ending.getD 0x0200000A) } else r) ∧
    (HoldsSem s p → x.st = 1 → idle → bit s.regs.secStat.toNat 3 = false → ∃ t, exec (.registerWrite (some p) (BitVec.ofNat 24 (0x100000 + 0x1000 * c.val)) 0xF) s = .next t ∧
      t.ctx c.val = { Context.clear with st := 1, owner := p.val } ∧ (∀ d, d ≠ c.val → t.ctx d = s.ctx d) ∧ t.mem = s.mem ∧ t.regs = s.regs) ∧
    (x.st ≠ 0 → x.owner ≠ p.val → ∀ j ∈ [Instr.ctxDestroy p c, .ctxStop p c, .rangeCommit p c i v, .rangeInvalidate p c i v, .chainEnable p c ch, .chainDisable p c ch, .chSeqWrite p c ch v, .chEngineWrite p c ch e, .chAdv p c ch v],
      exec j s = .next (wroteCtx s c.val fun x => { x with err := x.err ||| 0x20 })) ∧
    (mine → let r := { r0 with size := size }
      let last := r.fbase + r.bytes - 1
      let busy := ¬ idle
      let align := r.bytes = 0 ∨ 2 ^ 56 < r.vbase + r.bytes
      let overlap := ∃ j q, j ≠ i.val ∧ x.ranges[j]? = some q ∧ q.valid = true ∧ q.vbase < r.vbase + r.bytes ∧ r.vbase < q.vbase + q.bytes
      let unbacked := ¬ (r.fbase + r.bytes ≤ 2 ^ 52 ∧ pkgOf r.fbase = pkgOf last ∧ regionOf (offOf r.fbase) = regionOf (offOf last) ∧ regionOf (offOf r.fbase) ≠ .mgmt ∧ s.backed r.fbase = true ∧ s.backed last = true)
      let key := (r.slot ≠ 0 ∧ alGet s.keys r.slot = none) ∨ (r.slot ≠ 0 ∧ hostHomed r.fbase = true) ∨ (r.slot = 0 ∧ hostHomed r.fbase = false ∧ s.regs.secStat.toNat % 4 = 3)
      (¬ busy → ¬ align → ¬ overlap → ¬ unbacked → ¬ key → exec (.rangeCommit p c i v) s = .next (wroteCtx s c.val fun x => { x with ranges := x.ranges.modify i.val fun _ => r })) ∧
      (∀ b : BitVec 6, (busy ∧ b = 8) ∨ (¬ busy ∧ align ∧ b = 16) ∨ (¬ busy ∧ ¬ align ∧ overlap ∧ b = 1) ∨ (¬ busy ∧ ¬ align ∧ ¬ overlap ∧ unbacked ∧ b = 2) ∨
        (¬ busy ∧ ¬ align ∧ ¬ overlap ∧ ¬ unbacked ∧ key ∧ b = 4) → exec (.rangeCommit p c i v) s = .next (wroteCtx s c.val fun x => { x with err := x.err ||| b }))) ∧
    (mine → idle → exec (.rangeInvalidate p c i v) s = .next (wroteCtx s c.val fun x => { x with ranges := x.ranges.modify i.val fun r => { r with size := v &&& 0x00FFFFFFFFFF001F } })) ∧
    (mine → h.enable = false → ch.val < 8 ∨ h.engine ≠ 0 → x.chains.length = 64 → ∃ t, exec (.chainEnable p c ch) s = .next t ∧ (t.chain c.val ch.val).enable = true ∧ (t.chain c.val ch.val).done = h.value ∧
      (∀ n, n ≠ ch.val → t.chain c.val n = s.chain c.val n) ∧ (h.cmpl.toNat / 8 % 2 ^ 49 = 0 → t.mem = s.mem)) ∧
    (mine → x.chains.length = 64 → exec (.chainDisable p c ch) s = .next (wroteCtx s c.val fun x => { x with chains := x.chains.set ch.val { h with enable := false } })) ∧
    (mine → h.enable = false → h.seq ≤ v.toNat → x.chains.length = 64 → exec (.chSeqWrite p c ch v) s = .next (wroteCtx s c.val fun x => { x with chains := x.chains.set ch.val { h with seq := v.toNat } })) ∧
    (mine → h.enable = false → 8 ≤ ch.val → 1 ≤ e.toNat → e.toNat ≤ 6 → x.chains.length = 64 →
      exec (.chEngineWrite p c ch e) s = .next (wroteCtx s c.val fun x => { x with chains := x.chains.set ch.val { h with engine := e.toNat } })) ∧
    (mine → x.held = [] → (s.ord (.port p.val)).outbox ≠ [] → ∃ t h, exec (.chAdv p c ch v) s = .next t ∧ t.ctx c.val = { x with held := [h] } ∧ h.who = p.val ∧ h.chain = ch.val ∧ h.addr = v.toNat / 64 % 2 ^ 46 * 64 ∧ t.mem = s.mem) ∧
    (mine → x.held = [] → (s.ord (.port p.val)).outbox = [] → s.ctxMode c.val = 0 → x.chains.length = 64 → ∃ t r, exec (.chAdv p c ch v) s = .next t ∧ (t.chain c.val ch.val).recs = h.recs ++ [r] ∧ r.seq = (h.seq + 1) % 2 ^ 64 ∧ r.st = 0 ∧
      r.addr = v.toNat / 64 % 2 ^ 46 * 64 ∧ r.appender = some (.port p.val) ∧ (t.chain c.val ch.val).seq = r.seq ∧ (t.chain c.val ch.val).tail = some r.addr ∧ (∀ n, n ≠ ch.val → t.chain c.val n = s.chain c.val n) ∧
      (t.ord (.port p.val)).nrel = (s.ord (.port p.val)).nrel + 1)

/-- Key slots (R57, R58, R77) and the registers without a step of their own (R10, R47): LOAD empties the staging area, the data words fill it, COMMIT by the port that wrote LOAD moves a complete pair into a slot that no valid range names, CLEAR erases such a slot, and a refusal sets ERR; in Confidential a ciphertext establishes the transport key. A register write changes the RW bits, clears the W1C bits
that are written 1, and leaves the rest. That a COMMIT which succeeds uses up LOAD and empties the staging area, and that a write of KEM_CT decapsulates at once whatever address it names, is the model's choice (log entry 82: DESIGN CHOICE). -/
def Obligations.KeysAndRegisters : Prop :=
  ∀ (s : State) (p : Port) (slot : BitVec 13) (k : Fin 8) (v : Word), Reaches s p →
    let r := s.regs
    let slotted := BitVec.ofNat 64 (r.keyCtl.toNat / 2 ^ 13 * 2 ^ 13 + slot.toNat)
    let free := ∀ q ∈ s.ctxs, ∀ g ∈ q.2.ranges, g.valid = true → g.slot ≠ slot.toNat
    let open_ := s.regs.secStat.toNat % 4 ≠ 3
    (HoldsSem s p →
      exec (.keyLoad p slot) s = .next (wrote s fun r => { r with keyCtl := slotted, keyMask := 0, keyFor := some (slot, p.val), keyData := List.replicate 8 0 }) ∧
      exec (.keyDataWrite p k v) s = .next (wrote s fun r => { r with keyData := r.keyData.set k.val v, keyMask := r.keyMask ||| BitVec.ofNat 8 (2 ^ k.val) }) ∧
      (open_ → r.keyFor = some (slot, p.val) → r.keyMask = 0xFF → slot ≠ 0 → free →
        exec (.keyCommit p slot) s = .next { wrote s fun r => { r with keyCtl := slotted, keyMask := 0, keyFor := none, keyData := List.replicate 8 0 } with
          keys := alSet s.keys slot.toNat (BitVec.ofNat 512 ((List.range r.keyData.length).map fun j => (r.keyData.getD j 0).toNat * 2 ^ (64 * j)).sum) }) ∧
      (r.keyFor ≠ some (slot, p.val) ∨ r.keyMask ≠ 0xFF ∨ slot = 0 ∨ ¬ free → exec (.keyCommit p slot) s = .next (wrote s fun r => { r with keyCtl := slotted ||| 0x200000 })) ∧
      (slot ≠ 0 → free → exec (.keyClear p slot) s = .next { wrote s fun r => { r with keyCtl := slotted } with keys := alDel s.keys slot.toNat }) ∧
      (slot = 0 ∨ ¬ free → exec (.keyClear p slot) s = .next (wrote s fun r => { r with keyCtl := slotted ||| 0x200000 })) ∧
      (open_ → exec (.kemCtWrite p v) s = .next (wrote s id)) ∧
      (¬ open_ → let a := v.toNat / 8 % 2 ^ 49 * 8
        exec (.kemCtWrite p v) s = .next { wrote s fun r => { r with kemCt := BitVec.ofNat 64 a, secStat := r.secStat ||| 4 } with
          kemKey := some (Config.mlkemDecap (s.boot.seed 2) ((List.range 1568).map fun j => memGet s.mem (a + j))) }) ∧
      exec (.registerWrite (some p) 0x100 v) s = .next (wrote s fun r => { r with dieRst := r.dieRst &&& ~~~ (v &&& 0xF00000) }) ∧
      exec (.registerWrite (some p) 0x400 v) s = .next (wrote s fun r => { r with cmpCfg := ((r.cmpCfg &&& ~~~ (0x0000FFFFFF000002 ||| (v &&& 1))) ||| (v &&& 0x0000FFFFFF000002)) }) ∧
      exec (.registerWrite (some p) 0x508 v) s = .next (wrote s fun r => { r with ckptTgt := (r.ckptTgt &&& ~~~ 0x000FFFFFFFFFFFFF) ||| (v &&& 0x000FFFFFFFFFFFFF) })) ∧
    exec (.registerWrite (some p) 0x310 v) s = .next (wrote s fun r => { r with distCnt := v }) ∧
    exec (.registerWrite (some p) 0x768 v) s = .next (wrote s fun r => { r with attBuf := (r.attBuf &&& ~~~ 0x000FFFFFFFFFFFF8) ||| (v &&& 0x000FFFFFFFFFFFF8) }) ∧
    (∀ c : Fin 256, (s.ctx c.val).st ≠ 0 → (s.ctx c.val).owner = p.val → exec (.registerWrite (some p) (BitVec.ofNat 24 (0x100030 + 0x1000 * c.val)) v) s = .next (wroteCtx s c.val fun x => { x with peak := v.toNat / 2 ^ 8 % 2 ^ 32 }))

/-! The memory side and what waiting groups wait for (R38, R43, R138 to R143, R165, R187 to R191, R439) -/

/-- Steps of the memory side: a host write, with none before it, lands whole, or is reported and discarded where it covers a frozen byte or fails (R178, R195); behind others, or made to wait, it stays in the port's outbox; a host read returns the newest bytes, or waits for a migration's final hold (R43, R191); a snoop takes a host line back; a line with no write of the core pending, written back, is registered to its core no longer (R187); a walk counts and sets ACC (R165);
a page found present brings the lanes of a group parked for it back, and one found unmapped or poisoned traps them (R140, R167); a reservation that has waited 50 µs fails its write with reason 0x15 and counts (R39); an atomic executes on the newest bytes at its home (R190); the oldest pending load of a group arrives (R138). That a write-back gives up the core's registration is the model's reading (log entries 77 and 83: DEDUCED), and so is the AER report of a host write that fails (log entry 16: DEDUCED). -/
def Obligations.MemorySideSteps : Prop :=
  ∀ (s s1 : State) (p : Port) (addr : BitVec 52) (bs : List (BitVec 8)) (len core : Nat) (die : Fin 4) (a : Agent) (w : Warp) (q : AtomReq),
    let fa := addr.toNat
    let up := s.boot.off = false ∧ s.portIsUp p.val = true
    let op := bytesWrite fa bs
    let pg := fa / 65536
    let quiet := bit s.regs.srvCtl.toNat 1 = false
    let thawed := ∀ j, j < op.pieces.length → s.frozenAny (4 * (fa / 4 + j)) 4 = false
    let box := fun (t : State) => (t.ord (.port p.val)).outbox
    (up → bs ≠ [] → memoryAt fa = true →
      (s.frozenAny fa bs.length = true → exec (.hostMemoryWrite p addr bs) s = .next { s with signals := s.signals ++ [.aer p.val fa] }) ∧
      (s.frozenAny fa bs.length = false → thawed → (box s ≠ [] ∨ (∃ g, s.writeSide op = .waits g) ∨ s.writeSide op = .noRoom) →
        ∃ t, exec (.hostMemoryWrite p addr bs) s = .next t ∧ (box t).map OutEntry.kind = (box s).map OutEntry.kind ++ [.write op] ∧ t.signals = s.signals ∧ t.trays = s.trays) ∧
      (thawed → s.frozenAny fa bs.length = false → box s = [] → (∀ q ∈ s.ctxs, q.2.held = []) →
        (∀ c, s.writeSide op = .fails c → ∃ t, exec (.hostMemoryWrite p addr bs) s = .next t ∧ t.signals = s.signals ++ [.aer p.val fa] ∧ t.mem = (s.walkLines op).mem ∧ box t = []) ∧
        (s.writeSide op = .ready s1 → s.mem.wf = true → quiet → ∃ t, exec (.hostMemoryWrite p addr bs) s = .next t ∧ t.regs = s1.regs ∧ t.trays = s.trays ∧ box t = [] ∧
          (∀ x, (x < fa ∨ fa + bs.length ≤ x) → memGet t.mem x = memGet s1.mem x) ∧ ∀ j, j < bs.length → memGet t.mem (fa + j) = bs.getD j 0))) ∧
    (up → regionOf (offOf fa) = .mgmt → pkgOf fa = s.pkg → exec (.hostMemoryRead p addr len) s = .next { s with hostRead := ((toBytes 8 (s.regRead ((offOf fa - 0x3F0000000000) / 8 * 8)).toNat).drop (fa % 8)).take len }) ∧
    (up → memoryAt fa = true → s.held fa = true ∨ s.held (fa + len - 1) = true → exec (.hostMemoryRead p addr len) s = .next { s with hostReads := s.hostReads ++ [(fa, len)] }) ∧
    (up → memoryAt fa = true → s.held fa = false → s.held (fa + len - 1) = false → s.side fa = .served → s.side (fa + len - 1) = .served → (∀ j, 4 * j < fa + len → fa < 4 * j + 4 → (s.newest (.fab j)).poison = false) →
      exec (.hostMemoryRead p addr len) s = .next { s.walkFor fa with hostRead := (List.range len).map fun j => memGet s.mem (fa + j) }) ∧
    (regionOf (offOf fa) = .host p.val → exec (.cxlCacheSnoop p addr) s = .next { s with hostLines := alDel s.hostLines (fa / 64) }) ∧
    ((∀ b ∈ s.ords, s.coreOf b.1 = some core → ∀ e ∈ b.2.outbox, ∀ o, e.kind = .write o → ∀ x ∈ o.lines, x / 128 ≠ fa / 128) → let mine := fun (x : Nat × Nat) => !(x.1 / 32 == fa / 128 && x.2 == core)
      ∃ t, exec (.lineWriteBack core addr) s = .next t ∧ t.mem = s.mem ∧ t.vers = s.vers ∧ t.regd = s.regd.filter mine ∧ t.cached = s.cached.filter mine ∧ t.unregd = s.unregd.filter (fun x => !(x.1 / 32 == fa / 128 && x.2.1 == core)) ∧
        t.dirty = if (∃ x ∈ s.regd, x.1 / 32 = fa / 128 ∧ x.2 ≠ core) ∨ ∃ x ∈ s.unregd, x.1 / 32 = fa / 128 ∧ x.2.1 ≠ core then s.dirty else s.dirty.filter fun l => l != fa / 128) ∧
    (s.translated fa = false → exec (.pageWalk die addr) s = .next s) ∧
    (s.translated fa = true → s.mem.wf = true → ∃ t, exec (.pageWalk die addr) s = .next t ∧
      t.regs = { s.regs with mtStat := s.regs.mtStat.set die.val (satInc (s.regs.mtStat.getD die.val 0) 16 16) } ∧ (s.walkTo (offOf fa) = none → t.mem = s.mem) ∧
      ∀ e, s.walkTo (offOf fa) = some e → (∀ j, bit (memRead t.mem e 8) j = (bit (memRead s.mem e 8) j || j == 4)) ∧ ∀ x, (x < e ∨ e + 8 ≤ x) → memGet t.mem x = memGet s.mem x) ∧
    ((∃ l t g, a = .group l t g) → s.warp? a = some w → a ∈ s.warpAgents → w.parkedFor pg ≠ [] → w.evicted = false → (s.who a).mode = 0 → (∀ k, (w.lane k).back = none) →
      (∀ b v, b ≠ a → s.warp? b = some v → v.parkedFor pg = []) →
      (∀ ro, s.pageState (pg * 65536) = .present ro → ∃ t w', exec (.pageResolved addr false) s = .next t ∧ OnlyGroup s t a w' ∧ w' = { w with lanes := w'.lanes } ∧ w'.lanes.length = w.lanes.length ∧
        ∀ k, k < w.lanes.length → w'.lane k = if k ∈ w.parkedFor pg then { w.lane k with st := .ready, park := none, back := none } else w.lane k) ∧
      (∀ c, s.pageState (pg * 65536) = .unmapped ∧ c = 0x10 ∨ s.pageState (pg * 65536) = .poisoned ∧ c = 0x14 →
        exec (.pageResolved addr false) s = .next (s.trapLanes w ((w.parkedFor pg).map fun k => (k, ⟨c, (w.lane k).parkVa, 0, 0⟩)))) ∧
      (s.pageState (pg * 65536) = .absent → exec (.pageResolved addr false) s = .next s)) ∧
    (∀ (ch : Fin 512) (r : RoomWait) (o : WriteOp), s.roomWaits.find? (fun r => r.channel == ch.val && decide (r.since.toNat + 50000 ≤ s.now.toNat)) = some r → r.op = some o → r.agent = a →
      s.warp? a = some w → w.dsr = none → (∃ l t g, a = .group l t g) → (∀ x, s.launchOf a = some x → x.ending = none) → ∃ t u, exec (.outOfSpaceTimeout ch) s = .next t ∧ t.roomWaits = s.roomWaits.erase r ∧ t.mem = s.mem ∧ t.vers = s.vers ∧
        t.warp? a = some u ∧ ((t.ord a).outbox = (s.ord a).outbox ∨ ∃ e j, (s.ord a).outbox[j]? = some e ∧ (e.kind = .write o ∨ ∃ sc, e.kind = .release sc (some o)) ∧ (t.ord a).outbox = (s.ord a).outbox.eraseIdx j) ∧
        u = { w with dsr := some ⟨o.pc, o.vlane, o.ident, o.va, 0x15, false⟩ } ∧ (∀ b, b ≠ a → t.warp? b = s.warp? b) ∧
        t.regs = { s.regs with cmpPool := s.regs.cmpPool.modify (ch.val / 128) fun x => satInc x 16 8 }) ∧
    (let n := q.bytes
      let locs := (List.range (n / 4)).map fun j => Loc.fab (fa / 4 + j)
      let s0 : State := (s.walkFor fa).recall ⟨.mem locs 0, 0, some fa, false, false, false, fa⟩
      let old := memRead s0.mem fa n
      let s2 : State := { s0 with atomOld := BitVec.ofNat 64 old }
      fa % n = 0 → s.side fa = .served → s.redFails fa = none → s.frozenAny fa n = false → (∀ l ∈ locs, (s0.newest l).poison = false) →
      (q.flt = true → hostHomed fa = true → exec (.atomicExecute a addr q) s = .next s) ∧ (q.flt = false ∨ hostHomed fa = false →
      (q.run old = none → exec (.atomicExecute a addr q) s = .next s2) ∧
      (∀ v, q.run old = some v → s.mem.wf = true → quiet →
        (s2.roomFor ⟨(List.range (n / 4)).map fun j => ⟨.fab (fa / 4 + j), 15, BitVec.ofNat 32 (bits v (32 * j) 32)⟩, 0, 0, 0, BitVec.ofNat 64 fa⟩).isSome = true →
        ∃ t, exec (.atomicExecute a addr q) s = .next t ∧ t.atomOld = BitVec.ofNat 64 old ∧ memRead t.mem fa n = v % 2 ^ (8 * n) ∧ t.trays = s.trays ∧
          ∀ x, (x < fa ∨ fa + n ≤ x) → memGet t.mem x = memGet s0.mem x))) ∧
    (s.warp? a = some w → (∀ r ∈ s.requests, r.agent ≠ a) → ∃ t, exec (.loadDataReturn a) s = .next t ∧ OnlyGroup s t a (if w.halted then w else { w with pend := w.pend.drop 1 }))

/-- A waiting group's wait ends (R439): rflush when no store of the group to its range is pending and its lines, those of every core and the host-homed ones (log entry 74: DEDUCED), are home (R357), a log flush when the ring has room and no append of the group is still to be logged (R407), a register write when every core holds it (R409), a sleep when the time base reaches its instant (R307): the front is past its instruction and the
group waits no more. A queue instruction that waits is tried again for its group (R109). That a waiting instruction keeps its PC and is tried again is the model's choice (log entry 52: DESIGN CHOICE). -/
def Obligations.WaitsEnd : Prop :=
  ∀ (s : State) (a : Agent) (w : Warp), s.warp? a = some w → s.stands w = false →
    let past := fun (s' : State) (i : Instr) => ∃ t w', exec i s = .next t ∧ OnlyGroup s' t a w' ∧ GroupEffect w w' w.sreg w.fstat fun k => if k ∈ w.front then (w.lane k).advance else w.lane k
    (w.wait = some .bpctl → past s (.bpctlPropagated a)) ∧
    (∀ t, w.wait = some (.sleep t) → (t ≤ s.now → past s (.sleepWake a)) ∧ (s.now < t → exec (.sleepWake a) s = .next s)) ∧
    (w.wait = some .logFlush → s.appending a = false → (s.ctx (s.ctxOf a)).logUsed ≠ (s.ctx (s.ctxOf a)).logCap ∨ (s.who a).mode ≠ 1 → past (s.modCtx (s.ctxOf a) fun x => { x with waits := x.waits.filter fun p => p.1 != (s.who a).word0 0 0 }) (.logFlushDone a)) ∧
    (∀ fa n, w.wait = some (.rflush fa n) → (s.pendingIn a fa n = true → exec (.rflushDone a) s = .next s) ∧
      (s.pendingIn a fa n = false → ∃ t w', exec (.rflushDone a) s = .next t ∧ t.warp? a = some w' ∧
        GroupEffect w w' w.sreg w.fstat (fun k => if k ∈ w.front then (w.lane k).advance else w.lane k) ∧ t.mem = s.mem ∧ t.vers = s.vers ∧ (∀ b, b ≠ a → t.warp? b = s.warp? b) ∧
        t.dirty = s.dirty.filter (fun l => !(decide (fa < 128 * l + 128) && decide (128 * l < fa + n))) ∧
        (∀ x ∈ t.regd, x ∈ s.regd ∧ (x.1 / 32 ∈ s.dirty → ¬ (fa < 128 * (x.1 / 32) + 128 ∧ 128 * (x.1 / 32) < fa + n))) ∧
        t.hostLines = s.hostLines.filter (fun p => !(decide (fa < 64 * p.1 + 64) && decide (64 * p.1 < fa + n))))) ∧
    (∀ g d x, w.wait = some .qpush → s.frontInstr a = some (.qpush g d x) → ∃ t, exec (.qpush g d x) { s with turn := some a } = .next t ∧ exec (.queuePushEffect a) s = .next { t with turn := s.turn }) ∧
    (∀ g d x c, w.wait = some .qpop → s.frontInstr a = some (.qpop g d x c) → ∃ t, exec (.qpop g d x c) { s with turn := some a } = .next t ∧ exec (.queuePopEffect a) s = .next { t with turn := s.turn })

/-- Steps that concern lanes as such, said for a launch that is neither recorded nor replayed: a gathering closes 256 cycles after it opened (R143); a closed one whose lanes' releases have been performed becomes a handler group in the lowest free slot of its core (the model's reading, log entry 38: DEDUCED), its lanes at HVEC with registers zero and the identities of
their origin lanes, ordered after those releases (R143, R145, R294); a group of a launch that promises progress takes a slice when its timer has reached 4,096 and a Ready lane lies outside its front's set (R136); a compaction window whose moment has come closes, its groups past the header: as they are, or packed into as few
groups as hold their lanes (R132, R133). That the groups of a window are fixed when it closes is the model's reading (log entry 78: DEDUCED). -/
def Obligations.GatheringsSlicesWindows : Prop :=
  ∀ (s : State) (l n : Nat) (la : Launch), s.launch? l = some la → la.f.mode = 0 → la.phase = .running → la.ending = none →
    (let close := fun (x : Gathering) => if x.launch = l ∧ x.n = n ∧ x.opened + 256 ≤ s.cycle then { x with closed := true } else x;
      exec (.gatheringCloseTimeout l n) s = .next { s with gathers := s.gathers.map close }) ∧
    (∀ (g : Gathering) (h : Nat), s.gathers.find? (fun g => g.launch == l && g.n == n) = some g → g.closed = true → s.trapsDrained g = true → h < 4 → g.lanes.length ≤ 32 →
      (∀ x ∈ s.handlers, x.core = g.core → x.slot ≠ h) → (∀ j, j < h → ∃ x ∈ s.handlers, x.core = g.core ∧ x.slot = j) →
      ∃ t hd, exec (.handlerGroupStart l n) s = .next t ∧ t.handlers = s.handlers ++ [hd] ∧ hd.launch = l ∧ hd.n = n ∧ hd.core = g.core ∧ hd.slot = h ∧ t.gathers = s.gathers.filter (fun x => !(x.launch == l && x.n == n)) ∧
        hd.warp.agent = .handler l n ∧ hd.warp.nregs = 64 ∧ hd.warp.lanes.length = 32 ∧ (t.ord (.handler l n)).view = s.trapView g ∧ t.mem = s.mem ∧ t.trays = s.trays ∧
        ∀ j, j < 32 → let x := hd.warp.lane j
          x.v = List.replicate 64 0 ∧ x.p = 0 ∧
          match g.lanes[j]? with
          | none => x.st = .vacant
          | some o => match s.warp? (.group l o.tray o.group) with
            | none => x.st = .vacant
            | some v => if (v.lane o.vlane).st = .trapped then x.st = .ready ∧ x.pc = g.hvec.setWidth 56 ∧ x.ident = (v.lane o.vlane).ident ∧ x.tag = (v.lane o.vlane).tag ∧ x.origin = some o else x.st = .vacant) ∧
    (∀ (a : Agent) (w : Warp), a.launchId = some l → s.warp? a = some w → w.evicted = false → w.halted = false → w.wait = none → w.slice = none → la.f.promise = true →
      let due := w.fairF = maskOf w.front ∧ (∀ k ∈ w.ready, some (w.lane k).pc ≠ w.fairP) ∧ 4096 ≤ w.fairT ∧ ∃ k ∈ w.ready, w.fairF.getLsbD k = false
      (due → ∃ t, exec (.fairnessSlice a) s = .next t ∧ OnlyGroup s t a w.takeSlice) ∧
      (¬ due → exec (.fairnessSlice a) s = .next s)) ∧
    (∀ (ti : Nat) (t : Tray) (x : Window) (hd : Header) (pc : Pc), s.tray? l ti = some t → t.launch = l → t.idx = ti → t.windows.find? (fun y => y.h == pc && !y.closed) = some x → (∀ y ∈ t.windows, y.h = pc → y.closed = false) →
      s.headerAt la pc = some hd →
      let ws := t.warps.filter fun w => x.groups.contains w.agent.groupNo
      let ls := packLanes (ws.map fun w => w.enter hd)
      (∀ g ∈ x.groups, (s.ord (.group l ti g)).outbox = []) → (∀ w ∈ ws, w.dsr = none) → ws ≠ [] → x.groups.min?.isSome = true → (∀ w ∈ ws, ∃ g, w.agent = .group l ti g) → (ws.map Warp.agent).Nodup → (∀ w ∈ t.warps, w ∈ ws ∨ w.agent ∉ ws.map Warp.agent) →
      (x.opened + 2 ^ (la.f.cwin + 4) ≤ s.cycle ∨ ∀ g ∈ t.liveGroups, g ∈ x.groups) →
      ∃ u t', exec (.compactionWindowExpiry l ti pc) s = .next u ∧ u.tray? l ti = some t' ∧ t'.windows = t.windows.erase x ∧ u.mem = s.mem ∧ u.regs = s.regs ∧
        (ws.length ≤ (ls.length + 31) / 32 → ∀ w ∈ ws, u.warp? w.agent = some (w.enter hd)) ∧
        ((ls.length + 31) / 32 < ws.length → ∀ j w, ws[j]? = some w →
          ((ls.length + 31) / 32 ≤ j → u.warp? w.agent = none) ∧
          (j < (ls.length + 31) / 32 → ∃ v, u.warp? w.agent = some v ∧ v.wait = none ∧ v.gang = 0 ∧ v.fstat = (ws.foldl (fun f x => f ||| x.fstat) 0) ∧ v.sreg = (ws.headD w).sreg ∧ v.lanes.length = 32 ∧
            ∀ k, k < 32 → match ls[32 * j + k]? with
              | some y => v.lane k = y.carried x.live
              | none => (v.lane k).st = .vacant)))

/-! Resets, links, the domain (R5, R17, R21 to R29, R50, R98) -/

/-- Resets, links, the domain, soft errors (R5, R17, R22 to R29, R50, R98, R99), for a port that holds the semaphore: a core reset of a die with a resident tray is refused without FORCE; a reset marks the die, with FORCE ends with status core reset the launches with a tray on it, empties its outboxes and poisons the words registered to it and no others, and changes no
memory; an uncore reset is refused while a context is resident; a die leaves reset; a link in state 0 trains, and a trained one is up with its peer; a flit in sequence is delivered and frees what it acknowledges, a bad one asks for a retry, the ninth takes the link down, with its unacknowledged directory lines poisoned; a retry request is answered from the replay buffer; a domain configuration is taken or
refused; a lost host link frees the semaphore its port held and discards the key it had staged and the firmware load that came by it. What an uncorrectable error strikes in a lane, the scratchpad or a patch window is the model's reading (log entry 84: DESIGN CHOICE), as are what a core reset poisons and an uncore reset keeps (log entry 83: DEDUCED) and how far a lost flit's damage reaches (log entry 17: DEDUCED); what identifies a message that arrives twice is its choice (log entry 81: DESIGN CHOICE). -/
def Obligations.ResetsAndLinks : Prop :=
  ∀ (s : State) (p : Port) (d n : Nat) (force reach : Bool) (k : Fin 16) (f : Wire) (pp : BitVec 6) (pt : BitVec 4) (v : Word) (x : BitVec 52) (l : Nat) (la : Launch) (a : Agent) (w : Warp) (j : Nat), d < 4 →
    let r := s.regs
    let one := BitVec.ofNat 4 (2 ^ d)
    let refused := wrote s fun r => { r with dieRst := r.dieRst ||| BitVec.ofNat 64 (2 ^ (20 + d)) }
    let resident := ∃ t ∈ s.trays, t.resident = true ∧ dieOfCore t.core = d
    let marked := fun (t : State) (on : Bool) => (∀ j, j < 64 → t.regs.dieRst.getLsbD j = if j = 16 + d then on else r.dieRst.getLsbD j) ∧ t.regs = { r with dieRst := t.regs.dieRst }
    let abl := r.ablStat.getD k.val 0
    let lk := s.links.getD k.val ⟨0, 0, 0, [], 0, 0⟩
    (Reaches s p → HoldsSem s p →
      (force = false → resident → exec (.coreReset p one force) s = .next refused) ∧
      (force = true ∨ ¬ resident → ∃ t, exec (.coreReset p one force) s = .next t ∧ marked t true ∧ t.inReset = s.inReset ++ [(d, false)] ∧ t.mem = s.mem ∧ t.trays = s.trays ∧
        (t.launches.map fun y => (y.id, y.ending)) = (s.launches.map fun y => (y.id, if force && s.onDie y.id d && y.phase != .done then some (y.ending.getD 0x02000008) else y.ending)) ∧
        (∀ a, (t.ord a).outbox = if (s.coreOf a).map dieOfCore = some d then [] else (s.ord a).outbox) ∧
        (∀ y ∈ s.regd, dieOfCore y.2 = d → (t.newest (.fab y.1)).poison = true) ∧ t.regd = s.regd.filter (fun y => dieOfCore y.2 != d) ∧ t.unregd = s.unregd.filter (fun y => dieOfCore y.2.1 != d) ∧
        ∀ x, (∀ y ∈ s.regd, y.1 = x → dieOfCore y.2 ≠ d) → t.versOf (.fab x) = s.versOf (.fab x)) ∧
      ((∃ q ∈ s.ctxs, q.2.st ≠ 0) → exec (.uncoreReset p one) s = .next refused) ∧
      ((∀ q ∈ s.ctxs, q.2.st = 0) → ∃ t, exec (.uncoreReset p one) s = .next t ∧ marked t true ∧ t.inReset = s.inReset ++ [(d, true)] ∧ t.mem = s.mem ∧
        (∀ y ∈ t.regd, s.homed d (4 * y.1) = false ∧ dieOfCore y.2 ≠ d) ∧ (∀ y ∈ t.dirty, s.homed d (128 * y) = false) ∧
        ∀ a, (t.ord a).outbox = if (s.coreOf a).map dieOfCore = some d then [] else (s.ord a).outbox) ∧
      (abl.toNat % 4 = 0 → bit r.secStat.toNat 3 = false → exec (.retrain p k) s = .next (wrote s fun r => { r with ablStat := r.ablStat.modify k.val fun w => BitVec.ofNat 64 (w.toNat + 1) })) ∧
      (abl.toNat % 4 ≠ 0 ∨ bit r.secStat.toNat 3 = true → exec (.retrain p k) s = .next (wrote s id)) ∧
      (let sized := bits v.toNat 16 6 + 1 ≤ (bits v.toNat 0 4 + 1) * (bits v.toNat 4 4 + 1) ∧ bits v.toNat 8 6 ≤ bits v.toNat 16 6 ∧ reach = true
        let taken := (∀ q ∈ s.ctxs, q.2.started = 0) ∧ (bit v.toNat 24 = false ∨ sized)
        (taken → exec (.domCfgWrite p v reach) s = .next (wrote s fun r => { r with domCfg := (r.domCfg &&& ~~~ (0x13F3FFF ||| (v &&& 0x2000000))) ||| (v &&& 0x13F3FFF) })) ∧
        (¬ taken → exec (.domCfgWrite p v reach) s = .next (wrote s fun r => { r with domCfg := r.domCfg ||| 0x2000000 })))) ∧
    ((∃ q ∈ s.inReset, q.1 = d) → ∃ t, exec (.dieResetComplete ⟨d % 4, by omega⟩) s = .next t ∧ marked t false ∧ t = { s with regs := t.regs, inReset := s.inReset.filter fun q => q.1 != d }) ∧
    ((∀ q ∈ s.inReset, q.1 ≠ d) → exec (.dieResetComplete ⟨d % 4, by omega⟩) s = .next s) ∧
    (abl.toNat % 4 = 1 → k.val < r.ablStat.length → ∃ t, exec (.linkTrained k pp pt) s = .next t ∧ t = { s with regs := t.regs, links := s.links.set k.val ⟨0, 0, 0, [], 0, 0⟩ } ∧
      let w := (t.regs.ablStat.getD k.val 0).toNat
      t.regs = { r with ablStat := r.ablStat.set k.val (t.regs.ablStat.getD k.val 0) } ∧ w % 4 = 2 ∧ w / 2 ^ 24 % 2 ^ 6 = pp.toNat ∧ w / 2 ^ 20 % 2 ^ 4 = pt.toNat ∧
      w / 4 % 2 ^ 18 = abl.toNat / 4 % 2 ^ 18 ∧ w / 2 ^ 30 = abl.toNat / 2 ^ 30) ∧
    (abl.toNat % 4 ≠ 1 → exec (.linkTrained k pp pt) s = .next s) ∧
    (abl.toNat % 4 = 2 →
      let h := ((f.bytes.take 8).zipIdx.map fun b => b.1.toNat * 256 ^ b.2).sum
      let seq := h / 2 ^ 44 % 2 ^ 12
      let ack := h / 2 ^ 32 % 2 ^ 12
      let flit := Flit.ofBytes f.bytes f.msgs
      let whole := f.fec = true ∧ f.bytes.length = 256 ∧ ((f.bytes.drop 248).zipIdx.map fun b => b.1.toNat * 256 ^ b.2).sum = (Config.crc64 (f.bytes.take 248)).toNat
      let bad := ¬ whole ∨ 5 < h / 2 ^ 60 ∨ h % 2 ^ 32 ≠ 0
      let kept := lk.replay.filter fun (g : Flit) => decide ((ack + 4096 - g.seq.toNat) % 4096 ≥ 2048)
      let got : State := { s with
        links := s.links.set k.val { lk with expect := (lk.expect + 1) % 4096, retries := 0, replay := kept, tries := if kept.any fun g => g.seq.toNat == lk.asked then lk.tries else 0 }, delivered := s.delivered ++ [(k.val, flit)] }
      (¬ bad → seq = lk.expect → f.msgs = [] → exec (.flitReceive k f) s = .next got ∧ flit.seq.toNat = seq ∧ flit.ack.toNat = ack ∧ flit.cls.toNat = h / 2 ^ 60 ∧ flit.payload = (f.bytes.drop 8).take 240) ∧
      (∀ q, ¬ bad → seq = lk.expect → f.msgs = [.retry q] → k.val < s.links.length → (lk.asked = q.toNat → lk.tries < 8) → ∃ t, exec (.flitReceive k f) s = .next t ∧ t.mem = s.mem ∧ t.regs = s.regs ∧
        t.sent = s.sent ++ ((got.links.getD k.val ⟨0, 0, 0, [], 0, 0⟩).replay.dropWhile fun g => g.seq != q).map fun g => Msg.flit k.val g) ∧
      (∀ m, ¬ bad → seq = lk.expect → f.msgs = [m] → LinkMsg.named m = true → (∃ q ∈ s.delivered, m ∈ q.2.msgs) → exec (.flitReceive k f) s = .next { got with delivered := s.delivered ++ [(k.val, { flit with msgs := [] })] }) ∧
      (∀ q i c x y, ¬ bad → seq = lk.expect → f.msgs = [.halt q i c x y] → (∀ z ∈ s.delivered, LinkMsg.halt q i c x y ∉ z.2.msgs) → 2 ≤ s.dbgLevel → exec (.flitReceive k f) s = .next (got.haltHere c x y)) ∧
      (¬ bad → seq ≠ lk.expect → exec (.flitReceive k f) s = .next s) ∧
      (bad → lk.retries ≠ 8 → exec (.flitReceive k f) s = .next { s with
        regs := { r with ablStat := r.ablStat.modify k.val fun w => satInc w 32 16 }, links := s.links.set k.val { lk with retries := lk.retries + 1 }, sent := s.sent ++ [Msg.retry k.val lk.expect] }) ∧
      (bad → lk.retries = 8 → k.val < r.ablStat.length → (∀ g ∈ lk.replay, ∀ m ∈ g.msgs, ∃ ls, m = .directory ls ∨ m = .acknowledge ls) →
        ∃ t, exec (.flitReceive k f) s = .next t ∧ (t.regs.ablStat.getD k.val 0).toNat % 4 = 0 ∧ (t.regs.ablStat.getD k.val 0).getLsbD 2 = true ∧ t.links = s.links.set k.val ⟨0, 0, 0, [], 0, 0⟩ ∧ t.mem = s.mem ∧
        ((∃ g ∈ lk.replay, g.cls = 3 ∨ g.cls = 4) → (t.regs.ablStat.getD k.val 0).getLsbD 3 = true) ∧
        ∀ g ∈ lk.replay, ∀ m ∈ g.msgs, ∀ ls, m = .directory ls ∨ m = .acknowledge ls → ∀ y ∈ ls, ∀ j, j < 32 → (t.newest (.fab (32 * y + j))).poison = true)) ∧
    (exec (.hostLinkUp p) s = .next { s with portUp := s.portUp.set p.val true }) ∧
    (let fw := if s.boot.fw.map FwLoad.port = some p.val then none else s.boot.fw;
      (¬ HoldsSem s p → exec (.hostLinkDown p) s = .next { s with portUp := s.portUp.set p.val false, boot := { s.boot with fw := fw } }) ∧
      (HoldsSem s p → ∃ t, exec (.hostLinkDown p) s = .next t ∧ t = { s with portUp := s.portUp.set p.val false, regs := t.regs, boot := { s.boot with fw := fw } } ∧
        t.regs = { r with mgmtSem := t.regs.mgmtSem, keyMask := 0, keyFor := none } ∧ t.regs.mgmtSem.toNat / 2 ^ 8 % 4 = 0)) ∧
    (exec (.softError (.word x) true) s = .next s) ∧
    (∃ t, exec (.softError (.word x) false) s = .next t ∧ t = { s with vers := t.vers, launches := s.launches.map fun y => { y with badCode := union y.badCode [x.toNat / 4] } } ∧ (t.newest (.fab (x.toNat / 4))).poison = true ∧ ∀ y, y ≠ .fab (x.toNat / 4) → t.newest y = s.newest y) ∧
    (∀ site, exec (.softError site true) s = .next s) ∧
    (∀ tr, (s.tray? l tr).isSome = true → exec (.softError (.sp l tr n) false) s = .next (s.poison (.sp l tr n)) ∧ exec (.softError (.pm l tr n) false) s = .next (s.poison (.pm l tr n))) ∧
    (s.warp? a = some w → (w.lane j).st = .ready ∨ (w.lane j).st = .parked → exec (.softError (.lane a j) false) s = .next (s.trapLanes w [(j, ⟨0x14, 0, 0, 0⟩)])) ∧
    (s.launch? l = some la → ∃ t y, exec (.softError (.route l) false) s = .next t ∧ t.launch? l = some y ∧ y.ending = some (la.ending.getD 0x02000007) ∧ t.signals = s.signals ++ [.machineCheck la.ctx] ∧ t.mem = s.mem)

/-! The balloon list, checkpoints, the memory-side tables, migrations (R38, R41 to R46, R164, R166) -/

/-- The balloon list, checkpoints, invalidations, sweeps and migrations (R38, R41 to R46, R164, R166): TAIL and LOG2_SIZE are taken within their limits, or REFUSED is set; a write of TAIL, and a ballooning run, zero the page that the entry at HEAD declares free and advance HEAD; a checkpoint starts with every group evicted, or sets ERR, and completes with the image of
the first tier and the shelf; GO makes BUSY read 1 until every die has invalidated; a sweep clears ACC of an entry, or counts; a migration's round ends in the final hold, or in another round, and the hold's release leaves the new frame in the entry. Bits [63:52] of a balloon entry taken as reserved, and so BAD when set, is the model's reading (log entry 83: DEDUCED), and so is what SIZE_NEEDED counts (log entry 18: DESIGN CHOICE). -/
def Obligations.BalloonsCheckpointsMigrations : Prop :=
  ∀ (s : State) (p : Port) (tail : BitVec 21) (log2 : BitVec 5) (v : Word) (die : Fin 4) (page : BitVec 52) (m : Mig), s.boot.off = false → s.power ≠ 3 →
    let r := s.regs
    let head := r.balCtl.toNat % 2 ^ 21
    let tail0 := r.balCtl.toNat / 2 ^ 21 % 2 ^ 21
    let log := r.balCtl.toNat / 2 ^ 42 % 2 ^ 5
    let full := fun (r : Regs) => { r with balCtl := r.balCtl ||| 0x800000000000 }
    let both := fun (i : Option Port → Instr) (f : Regs → Regs) => exec (i none) s = .next { s with regs := f s.regs } ∧ (Reaches s p → HoldsSem s p → exec (i (some p)) s = .next (wrote s f))
    let either := fun (i : Option Port → Instr) (P : State → Prop) => (∃ t, exec (i none) s = .next t ∧ P t) ∧ (Reaches s p → HoldsSem s p → ∃ t, exec (i (some p)) s = .next t ∧ P t)
    let at8 := r.balBase.toNat / 2 ^ 3 % 2 ^ 49 * 8 + 8 * (head % 2 ^ log)
    let e := memRead s.mem at8 8
    let fa := e / 2 ^ 16 % 2 ^ 36 * 65536
    let free := s.badEntry at8 = false ∧ e % 2 ^ 16 = 1 ∧ e / 2 ^ 52 = 0 ∧ regionOf (offOf fa) = .first ∧ pkgOf fa = s.pkg ∧ s.backed fa = true ∧ s.frozenAny fa 65536 = false
    let entry := fun (t : State) =>
      (free → (∀ x, fa ≤ x → x < fa + 65536 → memGet t.mem x = 0) ∧ (∀ x, x < fa ∨ fa + 65536 ≤ x → memGet t.mem x = memGet s.mem x) ∧ t.regs.balCtl.toNat / 2 ^ 48 = r.balCtl.toNat / 2 ^ 48) ∧
      (¬ free → t.mem = s.mem ∧ t.regs.balCtl.toNat / 2 ^ 48 = min (r.balCtl.toNat / 2 ^ 48 + 1) 0xFFFF)
    let size := r.ckptTgt.toNat % 2 ^ 16 * 2 ^ 30
    let base := r.ckptTgt.toNat / 2 ^ 16 % 2 ^ 36 * 65536
    let busy := r.ckptCtl.toNat / 2 % 2 = 1
    let pg := page.toNat / 65536
    (2 ^ log < (tail.toNat + 2 ^ 21 - head) % 2 ^ 21 → both (fun q => .balloonTailWrite q tail) full) ∧
    ((tail.toNat + 2 ^ 21 - head) % 2 ^ 21 ≤ 2 ^ log → either (fun q => .balloonTailWrite q tail) fun t => t.regs.balCtl.toNat % 2 ^ 21 = tail.toNat ∧ t.regs.balCtl.toNat / 2 ^ 21 % 2 ^ 21 = tail.toNat ∧
      t.regs.balCtl.toNat / 2 ^ 42 % 2 ^ 5 = log ∧ ((tail.toNat + 2 ^ 21 - head) % 2 ^ 21 = 0 → t.mem = s.mem ∧ t.regs.balCtl.toNat / 2 ^ 48 = r.balCtl.toNat / 2 ^ 48) ∧
      ((tail.toNat + 2 ^ 21 - head) % 2 ^ 21 = 1 → bit r.secStat.toNat 3 = false → entry t) ∧ (bit r.secStat.toNat 3 = true → t.mem = s.mem)) ∧
    (head ≠ tail0 ∨ log2.toNat < 8 ∨ 20 < log2.toNat → both (fun q => .balloonSizeWrite q log2) full) ∧
    (head = tail0 → 8 ≤ log2.toNat → log2.toNat ≤ 20 → both (fun q => .balloonSizeWrite q log2) fun r => { r with balCtl := BitVec.ofNat 64 (r.balCtl.toNat / 2 ^ 47 * 2 ^ 47 + log2.toNat * 2 ^ 42 + r.balCtl.toNat % 2 ^ 42) }) ∧
    (s.working = false → exec (.balloonRun die) s = .next s) ∧
    (s.working = true → s.roomMet die.val = true → exec (.balloonRun die) s = .next { s with runs := s.runs.filter (· != die.val) }) ∧
    (s.working = true → s.roomMet die.val = false → busy → die.val ∉ s.runs → exec (.balloonRun die) s = .next s) ∧
    (s.roomMet die.val = false → s.working = true → (¬ busy ∨ die.val ∈ s.runs) → s.passes = [] → (∃ x ∈ s.migs, x.cmd = none) → tail0 = (head + 1) % 2 ^ 21 →
      ∃ t, exec (.balloonRun die) s = .next t ∧ t.regs.balCtl.toNat % 2 ^ 21 = tail0 ∧ (t.regs.cmpPool = if die.val ∈ s.runs then r.cmpPool else r.cmpPool.modify die.val fun w => satInc w 0 16) ∧ entry t) ∧
    (Reaches s p → HoldsSem s p →
      let fits := size ≠ 0 ∧ s.windowOk base size = true ∧ s.sizeNeeded * 4096 ≤ size
      let limited := bit r.secStat.toNat 3 = true
      (busy ∨ limited → exec (.checkpointStart p) s = .next (wrote s id)) ∧
      (¬ busy → ¬ limited → ¬ fits → exec (.checkpointStart p) s = .next (wrote s fun r => { r with ckptCtl := r.ckptCtl ||| 8 })) ∧
      (¬ busy → ¬ limited → fits → ∃ t, exec (.checkpointStart p) s = .next t ∧ t.regs = { r with ckptCtl := r.ckptCtl ||| 2 } ∧ ((∀ x ∈ s.trays, x.lpDirty = []) → t.mem = s.mem) ∧
        ∀ a w, a.isHandler = false → s.warp? a = some w → w.gone = false → ∃ u, t.warp? a = some u ∧ u.evicted = true ∧ u.lanes = w.lanes ∧ u.sreg = w.sreg)) ∧
    (¬ busy ∨ s.ballooning = true ∨ bit r.secStat.toNat 3 = true ∨ s.arriving ≠ [] → exec .checkpointDone s = .next s) ∧
    (busy → s.ballooning = false → bit r.secStat.toNat 3 = false → s.arriving = [] → ∃ t, exec .checkpointDone s = .next t ∧ t.mem = s.mem ∧ t.regs = { r with ckptCtl := t.regs.ckptCtl } ∧ t.regs.ckptCtl.toNat / 2 % 4 = 2 ∧ t.regs.ckptCtl.toNat / 2 ^ 24 = s.sizeNeeded % 2 ^ 40 ∧
      t.dirty = [] ∧ ∃ im, t.safeTier = some im ∧ im.base = base ∧ im.size = size ∧ im.mem = s.mem.filter (fun c => s.ckptAddr s.allTables c.1) ∧ im.frames = s.frames ∧ im.mtRoot = r.mtRoot ∧ im.ctxs = s.ctxs ∧
        im.launches = s.launches ∧ im.trays = s.trays ∧ im.gathers = s.gathers ∧ im.handlers = s.handlers ∧ im.ords = s.ords) ∧
    (v.toNat % 2 = 1 → r.mtInv.toNat / 4 % 2 = 0 → exec (.mtInvGo v) s = .next { s with regs := { r with mtInv := r.mtInv ||| 4 } }) ∧
    (v.toNat % 2 = 0 ∨ r.mtInv.toNat / 4 % 2 = 1 → exec (.mtInvGo v) s = .next s) ∧
    (exec .mtInvDone s = .next { s with regs := { r with mtInv := r.mtInv &&& ~~~ 4 } }) ∧
    (∀ tb, s.leafTables = [tb] → s.mem.wf = true → ∃ t, exec .sweep s = .next t ∧ t.regs = r ∧ (∀ x, x < tb ∨ tb + 2048 ≤ x → memGet t.mem x = memGet s.mem x) ∧
      ∀ i, i < 256 → let e := memRead s.mem (tb + 8 * i) 8
        let e' := memRead t.mem (tb + 8 * i) 8
        e' / 2 ^ 8 % 2 ^ 8 = (if bit e 4 then 0 else min (e / 2 ^ 8 % 2 ^ 8 + 1) 255) ∧ bit e' 4 = false ∧ e' % 16 = e % 16 ∧ e' / 2 ^ 5 % 8 = e / 2 ^ 5 % 8 ∧ e' / 2 ^ 16 = e / 2 ^ 16) ∧
    (s.migs.find? (fun x => x.page == pg && !x.hold) = some m → let put := fun (x : Mig) => { s with migs := s.migs.map fun y => if y.page == pg then x else y }
      (m.dirty.length ≤ 15 → exec (.migrationRound page) s = .next (put { m with hold := true })) ∧
      (15 < m.dirty.length → m.round ≠ 16 → exec (.migrationRound page) s = .next (put { m with round := m.round + 1, dirty := [] })) ∧
      (15 < m.dirty.length → m.round = 16 → m.cmd = none → ∃ t, exec (.migrationRound page) s = .next t ∧ t.migs = s.migs.filter fun x => x.page != pg)) ∧
    (∀ a, s.migs.find? (fun x => x.page == pg && x.hold) = some m → m.cmd = none → s.hostReads = [] → s.walkTo (offOf (pg * 65536)) = some a → s.mem.wf = true → m.frame < 2 ^ 36 →
      ∃ t, exec (.migrationHoldRelease page) s = .next t ∧ t.migs = s.migs.filter (fun x => x.page != pg) ∧ memRead t.mem a 8 / 2 ^ 16 % 2 ^ 36 = m.frame ∧ bit (memRead t.mem a 8) 5 = false ∧
        (∀ x, x < a ∨ a + 8 ≤ x → memGet t.mem x = memGet s.mem x))

/-! Start and security (R68 to R85) -/

/-- Starts and the loss of power (R45, R85): power-on of a device without power or switched off (the model's reading of the latter, log entry 64: DEDUCED), a fundamental reset while the other port is down and FW_RESTART begin a start; a fundamental reset with both ports up and a power-on of a device that is on do nothing; a power loss leaves the device off, with NOR as it was and of memory what hosts and CXL devices hold; the rollback counter is never
changed by any of them (R80). A step's start record is marked for erasure by the semaphore's holder (R83). -/
def Obligations.Starts : Prop :=
  ∀ (s : State) (p : Port) (n : Fin 32),
    (s.boot.off = true ∨ s.power = 3 → ∃ t, exec .powerOn s = .next t ∧ Restarted s t true) ∧
    (s.boot.off = false → s.power ≠ 3 → exec .powerOn s = .next s) ∧
    (s.boot.off = false → s.portIsUp (1 - p.val) = false → ∃ t, exec (.hostFundamentalReset p) s = .next t ∧ Restarted s t false) ∧
    (s.boot.off = true ∨ s.portIsUp (1 - p.val) = true → exec (.hostFundamentalReset p) s = .next s) ∧
    (Reaches s p → HoldsSem s p → ∃ t, exec (.fwRestart p) s = .next t ∧ Restarted s t false) ∧
    (∃ t, exec .powerLoss s = .next t ∧ t.boot.off = true ∧ t.boot.next = none ∧ t.boot.rollback = s.boot.rollback ∧ t.boot.owner = s.boot.owner ∧ t.boot.helper = s.boot.helper ∧ t.boot.steps = s.boot.steps ∧ t.regs = Regs.reset ∧ t.ctxs = [] ∧ t.keys = [] ∧
      t.launches = [] ∧ t.trays = [] ∧ (s.regd = [] → s.dirty = [] → t.mem = s.mem.filter fun c => pkgOf c.1 != s.pkg || (match regionOf (offOf c.1) with
        | .host _ => true
        | .cxl => true
        | _ => false))) ∧
    (Reaches s p → HoldsSem s p → 1 ≤ n.val → n.val ≤ 27 → exec (.startStepClear p n) s = .next { s with active := s.now, boot := { s.boot with steps := s.boot.steps.modify n.val fun r => { r with clr := true } } }) ∧
    (Reaches s p → HoldsSem s p → n.val = 0 ∨ 27 < n.val → exec (.startStepClear p n) s = .next (wrote s id))

/-- Start steps (R79 to R84): the form a step takes by its start record, the outcome it records, the step that comes next, and limited mode where a mandatory step has no form left; step 2 waits for a firmware load and takes its result; the end of step 22 lifts the rollback counter to the firmware's floor, which lowers it never; step 3 takes, with no level granted and no transport key, the security
state, the ratio, DBG_MAX and the owner from a configuration blob that the right key has signed, 20 substitutes mapped-out stacks, 23 finds CXL memory, and 25 sets the time. That a start goes on after the first failure of a step that has a fallback is the model's reading (log entry 91: DEDUCED), and step 26 is passed over (log entry 63: DEDUCED). -/
def Obligations.StartSteps : Prop :=
  ∀ (s : State) (n : Fin 32) (i : StepIn), s.boot.off = false → s.boot.next = some n.val → 1 ≤ n.val → n.val ≤ 27 → s.boot.steps.length = 28 →
    let k := n.val
    let b := s.boot
    let r := b.steps.getD k ⟨false, 0, 0, false⟩
    let verifies := Config.mldsaVerifyBy i.blobKey (Config.sha3 i.blob) i.blobSig = true
    let hasFallback := k = 4 ∨ (5 ≤ k ∧ k ≤ 20) ∨ k = 21
    let falls := r.fb = true ∨ (hasFallback ∧ r.prev = 2 ∧ r.last = 2)
    let skips := r.fb = false ∧ 23 ≤ k ∧ r.last = 2
    let recorded := fun (c : BitVec 4) => b.steps.set k { r with fb := decide falls || r.fb, prev := r.last, last := c }
    let go := fun (steps : List StepRec) => { b with steps := steps, next := some (k + 1) }
    (skips → k < 27 → exec (.startStep n i) s = .next { s with regs := { s.regs with skipped := s.regs.skipped.set k true }, boot := { b with next := some (k + 1) } }) ∧
    (k = 2 → b.fw = none → exec (.startStep n i) s = .next s) ∧
    (k = 1 ∨ k = 4 ∨ k = 21 ∨ (5 ≤ k ∧ k < 20) → i.pass = true → exec (.startStep n i) s = .next { s with boot := go (recorded (if falls then 4 else 1)) }) ∧
    (k = 4 ∨ k = 21 ∨ (5 ≤ k ∧ k < 20) → ¬ falls → i.pass = false → exec (.startStep n i) s = .next { s with boot := go (recorded 2) }) ∧
    (5 ≤ k ∧ k < 20 → falls → i.pass = false → exec (.startStep n i) s = .next { s with boot := { go (recorded 5) with mapped := b.mapped ++ [k - 5] } }) ∧
    (k = 1 ∨ k = 3 ∨ k = 22 ∨ ((k = 4 ∨ k = 21) ∧ falls) → i.pass = false →
      exec (.startStep n i) s = .next { s with boot := { b with steps := recorded (if falls then 5 else 2), next := none }, regs := { s.regs with secStat := s.regs.secStat ||| 8 } }) ∧
    (∀ q, k = 2 → r.fb = false → b.fw = some q → q.ok = true → exec (.startStep n i) s = .next { s with boot := { go (recorded 1) with fw := none, floor := q.floor, fwHash := q.hash } }) ∧
    (∀ q, k = 2 → r.fb = false → b.fw = some q → q.ok = false →
      exec (.startStep n i) s = .next { s with boot := { b with steps := recorded 2, next := none, fw := none }, regs := { s.regs with secStat := s.regs.secStat ||| 8 } }) ∧
    (k = 3 → r.fb = false → i.pass = true → verifies → Config.sha3 i.blobKey = b.owner.getD i.newOwner → 128 ≤ i.ratio.toNat → i.ratio.toNat ≤ 256 → ∃ t, exec (.startStep n i) s = .next t ∧
      t.boot = { go (recorded 1) with owner := if i.state = 0 then none else some (b.owner.getD i.newOwner), blobHash := Config.sha3 i.blob, restore := i.restore } ∧ t.regs.dbgCtl.toNat / 2 ^ 16 % 4 = 0 ∧ bit t.regs.secStat.toNat 2 = false ∧ t.regs.secStat.toNat % 4 = i.state.toNat ∧
      t.regs.cmpCfg.toNat / 2 ^ 8 % 2 ^ 9 = i.ratio.toNat ∧ t.regs.dbgCtl.toNat / 2 ^ 18 % 4 = ([3, 2, 1, 2].getD i.state.toNat 0) ∧ t.regs.secStat.toNat / 2 ^ 6 % 4 = ([3, 2, 1, 2].getD i.state.toNat 0) ∧
      (i.state = 0 → b.owner.isSome = true → t.keys = []) ∧ (i.state ≠ 0 ∨ b.owner = none → t.keys = s.keys) ∧ t.mem = s.mem) ∧
    (k = 3 → r.fb = false → ¬ verifies ∨ Config.sha3 i.blobKey ≠ b.owner.getD i.newOwner ∨ i.ratio.toNat < 128 ∨ 256 < i.ratio.toNat →
      exec (.startStep n i) s = .next { s with boot := { b with steps := recorded 2, next := none }, regs := { s.regs with secStat := s.regs.secStat ||| 8 } }) ∧
    (k = 20 → i.pass = true → b.mapped.length ≠ 16 → ∃ t, exec (.startStep n i) s = .next t ∧ t.boot = { go (recorded (if falls then 4 else 1)) with subst := substTable b.mapped } ∧ t.mem = s.mem ∧ t.regs = s.regs) ∧
    (k = 23 → r.fb = false → r.last ≠ 2 → i.pass = true → exec (.startStep n i) s = .next { s with boot := { go (recorded 1) with cxlEnds := i.cxlEnds.map BitVec.toNat } }) ∧
    (k = 26 → ¬ skips → b.restore = false → exec (.startStep n i) s = .next { s with boot := { b with next := some 27 } }) ∧
    (k = 22 → r.fb = false → i.pass = true → exec (.startStep n i) s = .next { s with boot := { go (recorded 1) with rollback := if b.rollback < b.floor then b.floor else b.rollback } }) ∧
    (k = 25 → r.fb = false → r.last ≠ 2 → i.pass = true → exec (.startStep n i) s = .next { s with boot := go (recorded 1), now := i.time, regs := { s.regs with timeCfg := s.regs.timeCfg ||| 0x100 } }) ∧
    (23 ≤ k → k < 27 → k ≠ 26 → r.fb = false → r.last ≠ 2 → i.pass = false → exec (.startStep n i) s = .next { s with boot := go (recorded 2) }) ∧
    (k = 27 → r.fb = false → r.last ≠ 2 → i.pass = true → exec (.startStep n i) s = .next { s with boot := { b with steps := recorded 1, next := none }, regs := { s.regs with srvCtl := s.regs.srvCtl ||| 1 } })

/-- Firmware loads and attestation (R76, R78, R79, R84): an image within the limits of R78, wholly in the window of the port that loads it, whose signature verifies, is what step 2 will take; any other is refused with ERR; outside steps 1 and 2 a load does nothing, but in limited mode it runs the start again from step 2 (what it clears at once is the model's reading, log entry 91: DEDUCED); a report is written over the host's nonce, and a public key in full, or ERR is set (where no rule names an answer, ERR is the model's choice, log entry 86: DESIGN CHOICE). That LOAD is taken only while step 1 or 2 is next is the model's reading (log entry 63: DEDUCED). -/
def Obligations.FirmwareAndAttestation : Prop :=
  ∀ (s : State) (p : Port) (kind : BitVec 2) (c : Fin 256), Reaches s p →
    let limited := bit s.regs.secStat.toNat 3 = true
    let at_ := s.regs.fwBase.toNat / 2 ^ 3 % 2 ^ 49 * 8
    let f := fun o n => memRead s.mem (at_ + o) n
    let limits := f 0 4 = 1 ∧ s.boot.rollback.toNat ≤ f 4 4 ∧ f 8 4 ≤ f 4 4 ∧ f 12 4 = 0 ∧ 2 ^ 20 ≤ f 16 8 ∧ f 16 8 ≤ 2 ^ 26 ∧ f 24 40 = 0
    let whole := 64 + f 16 8
    let there := regionOf (offOf at_) = .host p.val ∧ regionOf (offOf (at_ + whole + 4626)) = .host p.val ∧ pkgOf at_ = s.pkg
    let load := fun (ok : Bool) => (⟨ok, p.val, BitVec.ofNat 32 (f 8 4), Config.sha3 (memBytes s.mem at_ (whole + 4627))⟩ : FwLoad)
    let verifies := Config.mldsaVerify (Config.sha3 (memBytes s.mem at_ whole)) (memBytes s.mem (at_ + whole) 4627) = true
    let buf := s.regs.attBuf.toNat / 2 ^ 3 % 2 ^ 49 * 8
    let ctl := BitVec.ofNat 64 (setBits (setBits s.regs.attCtl.toNat 0 2 kind.toNat) 8 8 c.val)
    let Written := fun (bs : List (BitVec 8)) => s.mem.wf = true → ∃ t, exec (.attGo p kind c) s = .next t ∧ t.regs = { s.regs with attCtl := ctl ||| 0x20000 } ∧ t.ctxs = s.ctxs ∧
      (∀ j, j < bs.length → memGet t.mem (buf + j) = bs.getD j 0) ∧ ∀ x, x < buf ∨ buf + (bs.length + 3) / 4 * 4 ≤ x → memGet t.mem x = memGet s.mem x
    (HoldsSem s p → ¬ limited → s.boot.next = some 1 ∨ s.boot.next = some 2 →
      (limits ∧ there ∧ verifies → exec (.fwLoad p) s = .next { s with active := s.now, boot := { s.boot with fw := some (load true) } }) ∧
      (¬ (limits ∧ there ∧ verifies) → exec (.fwLoad p) s = .next { s with active := s.now, boot := { s.boot with fw := some (load false) }, regs := { s.regs with fwCtl := s.regs.fwCtl ||| 2 } })) ∧
    (HoldsSem s p → limited → ∃ t, exec (.fwLoad p) s = .next t ∧ t.boot.next = some 2 ∧ t.boot.mapped = [] ∧ t.boot.fw = some (load (decide (limits ∧ there ∧ verifies))) ∧ bit t.regs.secStat.toNat 3 = false ∧
      t.regs.secStat.toNat % 4 = s.regs.secStat.toNat % 4 ∧
      bit t.regs.secStat.toNat 2 = false ∧ t.regs.dbgCtl.toNat / 2 ^ 16 % 4 = 0 ∧ t.mem = s.mem ∧ t.keys = [] ∧ t.kemKey = none ∧ t.ctxs = s.ctxs) ∧
    (HoldsSem s p → ¬ limited → s.boot.next ≠ some 1 → s.boot.next ≠ some 2 → exec (.fwLoad p) s = .next (wrote s id)) ∧
    (s.identified = false ∨ s.windowOk buf (if kind = 2 then 2592 else if kind = 3 then 1568 else 5043) = false ∨ (kind = 1 ∧ (s.ctx c.val).st = 0) ∨ (limited ∧ kind ≠ 0 ∧ kind ≠ 2) →
      exec (.attGo p kind c) s = .next (wrote s fun r => { r with attCtl := ctl ||| 0x40000 })) ∧
    (s.identified = true →
      (kind = 2 → s.windowOk buf 2592 = true → Written s.identityKey) ∧
      (kind = 3 → ¬ limited → s.windowOk buf 1568 = true → Written s.transportKey) ∧
      (kind = 0 → s.windowOk buf 5043 = true → Written (let head := (State.report { s with active := s.now } none (memBytes s.mem (buf + 24) 64)); head ++ exactly 4627 (Config.mldsaSign (s.boot.seed 1) (Config.sha3 head)))) ∧
      (kind = 1 → ¬ limited → (s.ctx c.val).st ≠ 0 → s.windowOk buf 5043 = true →
        Written (let head := (State.report { s with active := s.now } (some c.val) (memBytes s.mem (buf + 24) 64)); head ++ exactly 4627 (Config.mldsaSign (s.boot.seed 1) (Config.sha3 head)))))

/-! Power and debug (R71, R72, R74, R219 to R221), the log (R200 to R210), time (R211, R212) -/

/-- Power and debug levels (R71, R72, R74): every request is refused in Off, a lower level is granted at once, one above DBG_MAX refused, one that the power state does not allow while Idle or Retention lasts begins a wake, any other is granted; TARGET takes the device to Active, Retention or entering Off, or sets REFUSED; an entry to Retention, an idle millisecond and a wake
complete. That STATE 3 takes no management write is the model's reading (log entry 64: DEDUCED), and that a request which waits is granted whatever came after it is its choice (log entry 86: DESIGN CHOICE). -/
def Obligations.PowerAndDebugLevels : Prop :=
  ∀ (s : State) (p : Port) (lv : BitVec 2), s.boot.off = false →
    let r := s.regs
    let mine := s.portIsUp p.val = true ∧ HoldsSem s p
    let power := r.pwrCtl.toNat / 2 ^ 4 % 4
    let level := r.dbgCtl.toNat / 2 ^ 16 % 4
    let max := r.secStat.toNat / 2 ^ 6 % 4
    let answer := fun (l res : Nat) => { r with dbgCtl := BitVec.ofNat 64 (setBits (setBits r.dbgCtl.toNat 16 2 l) 8 3 res) }
    let at_ := fun (st : Nat) => { r with pwrCtl := BitVec.ofNat 64 (setBits r.pwrCtl.toNat 4 2 st) }
    let idle := ∀ q ∈ s.ctxs, q.2.started = 0
    (mine → (power ≠ 3 → lv.toNat < level → exec (.dbgReq p lv) s = .next { s with active := s.now, regs := answer lv.toNat 0 }) ∧
    (level ≤ lv.toNat → power ≠ 3 → max < lv.toNat → exec (.dbgReq p lv) s = .next { s with active := s.now, regs := answer level 1 }) ∧
    (power = 3 → exec (.dbgReq p lv) s = .next { s with active := s.now, regs := answer level 2 }) ∧
    (level ≤ lv.toNat → power ≠ 3 → lv.toNat ≤ max → ¬ (power = 1 ∧ lv = 3) → ¬ (power = 2 ∧ 2 ≤ lv.toNat) → exec (.dbgReq p lv) s = .next { s with active := s.now, regs := answer lv.toNat 0 }) ∧
    (level ≤ lv.toNat → lv.toNat ≤ max → s.waking = none → power = 1 ∧ lv = 3 ∨ power = 2 ∧ 2 ≤ lv.toNat →
      exec (.dbgReq p lv) s = .next { s with active := s.now, regs := answer level 3, waking := some (if lv = 3 then 0 else 1, lv.toNat) }) ∧
    (power = 3 → ∀ j ∈ [Instr.pwrTargetActive p, .pwrTargetRetention p, .pwrTargetOff p], exec j s = .next s) ∧
    (power ≠ 1 → power ≠ 3 → (power = 2 → s.waking = none → exec (.pwrTargetActive p) s = .next { s with active := s.now, waking := some (0, 0) }) ∧
      (power ≠ 2 → exec (.pwrTargetActive p) s = .next (wrote s id)) ∧
      (¬ idle ∨ s.ckptBusy = true ∨ level = 3 → exec (.pwrTargetRetention p) s = .next (wrote s fun r => { r with pwrCtl := r.pwrCtl ||| 0x40 })) ∧
      (idle → s.ckptBusy = false → level ≠ 3 → power = 0 → s.waking = none → exec (.pwrTargetRetention p) s = .next { s with active := s.now, retaining := true }) ∧
      ((∃ q ∈ s.ctxs, q.2.st ≠ 0) ∨ level = 3 → exec (.pwrTargetOff p) s = .next (wrote s fun r => { r with pwrCtl := r.pwrCtl ||| 0x40 })) ∧
      ((∀ q ∈ s.ctxs, q.2.st = 0) → level ≠ 3 → exec (.pwrTargetOff p) s = .next { s with active := s.now, regs := at_ 3, retaining := false, waking := none }))) ∧
    (s.retaining = true → level = 3 → exec .retentionEntered s = .next { s with retaining := false }) ∧
    (s.retaining = true → level ≠ 3 → exec .retentionEntered s = .next { s with regs := at_ 2, retaining := false }) ∧
    (s.retaining = false → exec .retentionEntered s = .next s) ∧
    (let quiet := s.boot.next = none ∧ power = 0 ∧ s.retaining = false ∧ s.waking = none ∧ level ≠ 3 ∧ s.busy = false ∧ 1000000 ≤ (s.now - s.active).toNat;
      (quiet → exec .idleTimeout s = .next { s with regs := at_ 1 }) ∧ (¬ quiet → exec .idleTimeout s = .next s)) ∧
    (∀ t, s.waking = some (t, 0) → exec .wakeComplete s = .next { s with regs := at_ (min t power), waking := none, active := s.now }) ∧
    (∀ t l, s.waking = some (t, l) → l ≠ 0 → l < 4 → ∃ u, exec .wakeComplete s = .next u ∧ u = { s with regs := u.regs, waking := none, active := s.now } ∧ u.regs.pwrCtl.toNat / 2 ^ 4 % 4 = min t power ∧
      u.regs.dbgCtl.toNat / 2 ^ 16 % 4 = l ∧ u.regs.dbgCtl.toNat / 2 ^ 8 % 8 = 0) ∧
    (s.waking = none → exec .wakeComplete s = .next s)

/-- Halts and the log registers under the host (R200 to R202, R210, R219 to R221), for a port that owns the context: HALT from debug level 2 on stops every group of the context and sets HALTED, and tells the other member packages of its launches, RESUME lets them go on, DUMP writes the halted groups' state (its layout is the model's, log entry 19: DESIGN CHOICE) in a state that is not Confidential, or sets RESULT where the context has no key; PROD and
CONS are taken within the ring's limits, or E_BUSY is set; a wait on the log that lasts 100 µs sets LATE once and interrupts; replay that is stuck ends every replaying launch of the context, with replay divergence where no lane has a trap of its own that the log leaves out (log entry 87: DEDUCED); where none runs, each launch whose placement can never meet the record at CONS (log entry 44: DEDUCED) completes with replay divergence, and DIVERGED is set. That the members keep the hit's cause and number is the model's reading (log entry 98: DEDUCED). -/
def Obligations.HaltsAndLogRegisters : Prop :=
  ∀ (s : State) (p : Port) (c : Fin 256) (v : Word),
    let x := s.ctx c.val
    let mine := Reaches s p ∧ x.st ≠ 0 ∧ x.owner = p.val
    let level := s.regs.dbgCtl.toNat / 2 ^ 16 % 4
    let dmp := x.dmp.toNat / 2 ^ 6 % 2 ^ 46 * 64
    let secret := s.regs.secStat.toNat % 4 = 3
    let prod := v.toNat / 2 ^ 32 % 2 ^ 28
    let cons := v.toNat % 2 ^ 28
    let Halts := fun (i : Instr) (b : Bool) => ∃ t, exec i s = .next t ∧ t.mem = s.mem ∧ t.regs = s.regs ∧ t.launches = s.launches ∧
      ∀ a w la, s.warp? a = some w → s.launchOf a = some la → t.warp? a = some (if la.ctx = c.val then { w with halted := b } else w)
    (mine → level < 2 → exec (.ctxHalt p c) s = .next (wrote s id)) ∧
    (mine → 2 ≤ level → Halts (.ctxHalt p c) true ∧ ∃ t, exec (.ctxHalt p c) s = .next t ∧ t.ctx c.val = { x with halted := true, hitCause := 0, hitNum := 0 }) ∧
    (mine → 2 ≤ level → ∀ q ∈ s.memberPkgs c.val, s.pathsTo q ≠ [] → ∃ t link f i, exec (.ctxHalt p c) s = .next t ∧ Msg.flit link f ∈ t.sent ∧ f.msgs = [.halt s.pkg i c.val 0 0]) ∧
    (mine → Halts (.ctxResume p c) false ∧ ∃ t, exec (.ctxResume p c) s = .next t ∧ t.ctx c.val = { x with halted := false }) ∧
    (mine → x.halted = false ∨ level < 2 ∨ s.backed dmp = false → exec (.ctxDump p c) s = .next (wrote s id)) ∧
    (mine → x.halted = true → 2 ≤ level → s.backed dmp = true → ¬ secret → s.mem.wf = true → ∃ t, exec (.ctxDump p c) s = .next t ∧ t.ctx c.val = { x with dumped := true } ∧ t.trays = s.trays ∧ t.regs = s.regs ∧
      ∀ j, j < (s.dumpBytes c.val).length → memGet t.mem (dmp + j) = (s.dumpBytes c.val).getD j 0) ∧
    (mine → x.halted = true → 2 ≤ level → s.backed dmp = true → secret → s.sealKey c.val = none →
      exec (.ctxDump p c) s = .next (wrote s fun r => { r with dbgCtl := BitVec.ofNat 64 (setBits (setBits r.dbgCtl.toNat 16 2 level) 8 3 1) })) ∧
    (mine → let refused := (s.ctxMode c.val = 1 ∧ prod ≠ x.prod) ∨ (s.ctxMode c.val = 2 ∧ cons ≠ x.cons) ∨ x.logCap < (prod + 2 ^ 28 - cons) % 2 ^ 28;
      (refused → exec (.ctxLogpWrite p c v) s = .next (wroteCtx s c.val fun x => { x with err := x.err ||| 8 })) ∧
      (¬ refused → x.held = [] → exec (.ctxLogpWrite p c v) s = .next (wroteCtx s c.val fun x => { x with
        prod := prod, cons := cons, late := x.late && !bit v.toNat 30, diverged := x.diverged && !bit v.toNat 29}))) ∧
    (let late := ∃ q ∈ x.waits, 100000 ≤ (s.now - q.2).toNat ∧ s.stillWaits c.val q.1 = true;
      (late → x.late = false → exec (.logWaitTimeout c) s = .next { s.setCtx c.val { x with late := true } with signals := s.signals ++ [.msix (s.irqPort c.val) c.val] }) ∧
      (¬ late ∨ x.late = true → exec (.logWaitTimeout c) s = .next s)) ∧
    (s.stuck c.val = false → s.placeStuck c.val = false → exec (.replayStuck c) s = .next s) ∧
    (s.stuck c.val = false → s.placeStuck c.val = true → ∃ t, exec (.replayStuck c) s = .next t ∧ (t.ctx c.val).diverged = true ∧
      (∀ g ∈ s.placeWaits c.val, ∀ r, g.record = some r → ∀ q ∈ (t.chain c.val g.chain).recs, q.seq = r.seq → 2 ≤ q.st ∧ q.ending = some 0x02380010)) ∧
    (s.stuck c.val = true → ∃ t, exec (.replayStuck c) s = .next t ∧ (t.ctx c.val).diverged = true ∧ (∀ l ∈ t.launches, l.ctx = c.val → l.f.mode = 2 → l.ending.isSome = true) ∧
      ((∀ ch, 8 ≤ ch → ∀ r ∈ (s.chain c.val ch).recs, r.st ≠ 1) → (∀ y ∈ s.replayers c.val, (y.gone = true ∨ y.logTypeAt = 0) ∧ ∀ l ∈ y.lanes, l.ownCause = none) →
        t = { s.setCtx c.val { x with diverged := true } with launches := s.launches.map fun l => if l.ctx = c.val ∧ l.f.mode = 2 then { l with ending := some (l.ending.getD 0x02380010) } else l }))

/-- The time base's sources (R211, R212): TIME_CFG is taken unless it names a port that is not up; a lost source sets LOST and clears LOCKED; a master sends Sync and Follow_Up on every other port that is up, and answers Delay_Req; a slave takes the four times and keeps half of the difference of the two delays (rounded down, the model's choice, log entry 85: DESIGN CHOICE); a measurement by the host port that is the source keeps the offset, and LOCKED reads 1 when the last eight lie within 20 ns. One message to a flit is the model's choice (log entry 81: DESIGN CHOICE), and the sign of TIME_OFS its reading (log entry 65: DEDUCED). -/
def Obligations.TimeSources : Prop :=
  ∀ (s : State) (p : Port) (v h : Word) (k : Fin 16) (f : Wire),
    let r := s.regs
    let w := r.timeCfg.toNat
    let slave := w % 4 = 3 ∧ w / 2 ^ 12 % 16 = k.val
    let link := fun (t : State) (j : Nat) => t.links.getD j ⟨0, 0, 0, [], 0, 0⟩
    let up := fun (j : Nat) => (r.ablStat.getD j 0).toNat % 4 = 2
    let o := satOfs ((s.now.toNat : Int) - h.toNat)
    let os := (s.offsets ++ [o]).drop (s.offsets.length - 7)
    let close := os.length = 8 ∧ ∀ y ∈ os, -20 ≤ y.toInt ∧ y.toInt ≤ 20
    (Reaches s p → HoldsSem s p →
      (v.toNat % 4 = 3 → ¬ up (v.toNat / 2 ^ 12 % 16) → exec (.timeCfgWrite p v) s = .next (wrote s id)) ∧
      (v.toNat % 4 ≠ 3 ∨ up (v.toNat / 2 ^ 12 % 16) → exec (.timeCfgWrite p v) s = .next (wrote s fun r => { r with timeCfg := (r.timeCfg &&& ~~~ (0xF007 ||| (v &&& 0x200))) ||| (v &&& 0xF007) }))) ∧
    (exec .timeSourceLost s = .next { s with regs := { r with timeCfg := (r.timeCfg ||| 0x200) &&& ~~~ 0x100 } }) ∧
    (w / 4 % 2 = 0 → exec .ptpSyncTick s = .next s) ∧
    (w / 4 % 2 = 1 → s.links.length = 16 → ∃ t, exec .ptpSyncTick s = .next t ∧ t.syncAt = s.now ∧ t.mem = s.mem ∧ t.regs = r ∧ ∀ j, j < 16 →
      if up j ∧ ¬ (w % 4 = 3 ∧ w / 2 ^ 12 % 16 = j) then ∃ a b, (link t j).replay = (link s j).replay ++ [a, b] ∧ a.cls = 5 ∧ b.cls = 5 ∧ a.msgs = [.sync] ∧ b.msgs = [.followUp s.now] ∧
        a.seq = BitVec.ofNat 12 (link s j).next ∧ b.seq = BitVec.ofNat 12 ((link s j).next + 1)
      else link t j = link s j) ∧
    (Arrives s k f → slave → f.msgs = [.sync] → exec (.flitReceive k f) s = .next { arrived s k f with ptp := ⟨some s.now, none, none⟩ }) ∧
    (∀ g, Arrives s k f → slave → f.msgs = [.followUp v] → s.ptp.got = some g → exec (.flitReceive k f) s = .next (State.sendFlit { arrived s k f with ptp := ⟨some g, some v, some s.now⟩ } k.val 5 [.delayReq])) ∧
    (Arrives s k f → w / 4 % 2 = 1 → ¬ slave → f.msgs = [.delayReq] → exec (.flitReceive k f) s = .next ((arrived s k f).sendFlit k.val 5 [.delayResp s.now])) ∧
    (∀ g a, Arrives s k f → slave → f.msgs = [.delayResp v] → s.ptp = ⟨some g, some h, some a⟩ → ∃ t, exec (.flitReceive k f) s = .next t ∧ t.ptp = ⟨none, none, none⟩ ∧ t.mem = s.mem ∧
      t.regs.timeOfs = (satOfs ((((g.toNat : Int) - h.toNat) - ((v.toNat : Int) - a.toNat)) / 2)).setWidth 64) ∧
    (w % 4 ≠ p.val + 1 ∨ s.portIsUp p.val = false ∨ s.boot.off = true → exec (.ptmMeasurement p h) s = .next s) ∧
    (w % 4 = p.val + 1 → s.portIsUp p.val = true → s.boot.off = false → ∃ t, exec (.ptmMeasurement p h) s = .next t ∧ t = { s with offsets := os, regs := { r with timeOfs := o.setWidth 64, timeCfg := t.regs.timeCfg } } ∧
      (bit t.regs.timeCfg.toNat 8 = true ↔ close) ∧ ∀ j, j ≠ 8 → j < 64 → t.regs.timeCfg.getLsbD j = r.timeCfg.getLsbD j)

/-! Launches over several packages and the serving controller (R99 to R104, R119 to R123) -/

/-- Members and coordinators (R99 to R104): a member whose checks pass holds the launch until its cores are reserved, and refuses any other; go begins its trays, abort gives a reservation back, stop and a lost coordinator end it with member lost; an acknowledgement is noted, and with the last one the coordinator's own trays begin and every other member is told;
a refusal or 2 ms without it ends the launch with launch aborted and tells the members; a lost member ends it with member lost, and is no longer waited for; exits are reported, with the status a member's part ended with, by which the launch then ends. That the prepare message brings the record's words, and that a member refuses them where they do not fit the descriptor or declare a bad pipeline, is the model's choice and none of R100's three checks (log entry 21: DESIGN CHOICE). -/
def Obligations.LaunchesOverPackages : Prop :=
  ∀ (s : State) (src pkg : BitVec 6) (d : Descr) (check : BitVec 64) (body : List Word) (c : BitVec 8) (ch : BitVec 6) (seq : BitVec 64) (l : Launch) (rels : List (Agent × Nat)) (status : BitVec 32),
    let f := launchF body
    let takes := (s.ctx d.ctx.toNat).st = 1 ∧ s.localCells f d.ox d.oy ≠ [] ∧ check = descrCheck d ∧ f.dw = d.dw ∧ f.dh = d.dh ∧ f.pw = d.pw ∧ f.ph = d.ph ∧ (s.recPipe f (body.drop 8)).2 = false
    let member := s.memberLaunch? c.toNat ch.toNat seq.toNat = some l
    let unique := (s.launches.map Launch.id).Nodup
    let gone := fun (t : State) => ∀ y, t.launch? l.id = some y → y.phase = .done
    let others := (List.range 64).filter fun p => l.descr.members.getLsbD p && p != s.pkg
    let untold := ∀ m ∈ s.sent, ∀ q, m ≠ .abort q l.id ∧ m ≠ .stop q l.id
    let Aborts := fun (i : Instr) => ∃ t y, exec i s = .next t ∧ t.launch? l.id = some y ∧ y = { l with ending := some 0x0200000B } ∧ t.sent = s.sent ++ others.map (fun q => Msg.abort q l.id) ∧
      t.regs = { s.regs with distCnt := satInc s.regs.distCnt 32 16 } ∧ t.mem = s.mem ∧ t.trays = s.trays
    let waitsAll := s.launch? l.id = some l ∧ l.coord = true ∧ (l.phase = .prepared ∨ l.phase = .reserved) ∧ l.ending = none
    let runs := s.launch? l.id = some l ∧ l.coord = true ∧ l.phase = .running ∧ l.ending = none
    (s.working = false → exec (.prepareReceive src d check body) s = .next s) ∧
    (s.working = true → takes → ∃ t y, exec (.prepareReceive src d check body) s = .next t ∧ t = { s with launches := s.launches ++ [y], nextId := s.nextId + 1 } ∧ y.id = s.nextId ∧ y.phase = .prepared ∧ y.coord = false ∧ y.home = src.toNat ∧
      y.descr = d ∧ y.check = check ∧ y.f = f ∧ y.ox = d.ox ∧ y.oy = d.oy ∧ y.ctx = d.ctx.toNat ∧ y.chain = d.chain.toNat ∧ y.seq = d.seq.toNat) ∧
    (s.working = true → ¬ takes → exec (.prepareReceive src d check body) s = .next { s with sent := s.sent ++ [.refuse d.ctx.toNat d.chain.toNat d.seq.toNat] }) ∧
    (member → unique → l.phase = .reserved → ∃ t y, exec (.goReceive c ch ⟨seq, rels⟩) s = .next t ∧ t.launch? l.id = some y ∧ y.phase = .running ∧ y.placedAt = s.now ∧ y.f = l.f ∧ t.trays = s.trays ∧ t.mem = s.mem ∧
      t.regs = { s.regs with distCnt := satInc s.regs.distCnt 0 16 }) ∧
    (member → l.phase ≠ .reserved → exec (.goReceive c ch ⟨seq, rels⟩) s = .next s) ∧
    (member → unique → l.phase = .prepared ∨ l.phase = .reserved → ∃ t, exec (.abortReceive c ch seq) s = .next t ∧ gone t ∧ ∀ a w, a.launchId = some l.id → t.warp? a = some w → w.gone = true) ∧
    (member → l.phase = .running ∨ l.phase = .sliding → exec (.abortReceive c ch seq) s = .next s) ∧
    (member → unique → ∃ t y, exec (.stopReceive c ch seq) s = .next t ∧ t.launch? l.id = some y ∧ y = { l with ending := some (l.ending.getD 0x02000009) } ∧ t.mem = s.mem ∧ t.trays = s.trays) ∧
    (s.memberLaunch? c.toNat ch.toNat seq.toNat = none → exec (.goReceive c ch ⟨seq, rels⟩) s = .next s ∧ exec (.abortReceive c ch seq) s = .next s ∧ exec (.stopReceive c ch seq) s = .next s) ∧
    (unique → s.launches.filter (fun y => !y.coord && y.home == pkg.toNat && y.phase != .done) = [l] → ∃ t, exec (.coordinatorLost pkg) s = .next t ∧
      (l.phase = .prepared ∨ l.phase = .reserved → gone t) ∧ (l.phase = .running ∨ l.phase = .sliding → t.launch? l.id = some { l with ending := some (l.ending.getD 0x02000009) })) ∧
    (waitsAll → unique → (∃ q, q < 64 ∧ l.descr.members.getLsbD q = true ∧ q ∉ l.acked ∧ q ≠ pkg.toNat) →
      ∃ t, exec (.acknowledgeReceive l.id pkg) s = .next t ∧ t.launch? l.id = some { l with acked := union l.acked [pkg.toNat] } ∧ t.sent = s.sent ∧ t.trays = s.trays) ∧
    (waitsAll → unique → (∀ q, q < 64 → l.descr.members.getLsbD q = true → q ∈ l.acked ∨ q = pkg.toNat) →
      ∃ t y, exec (.acknowledgeReceive l.id pkg) s = .next t ∧ t.launch? l.id = some y ∧ y.phase = .running ∧ t.sent = s.sent ++ others.map (fun q => Msg.go q l.id (s.startRels l.ctx l.f (s.rec? l.ctx l.chain l.seq))) ∧ t.trays = s.trays ∧ t.mem = s.mem) ∧
    (waitsAll → unique → untold → others ≠ [] → (pkg.toNat < 64 → l.descr.members.getLsbD pkg.toNat = true → Aborts (.refusalReceive l.id pkg)) ∧
      (2000000 ≤ (s.now - l.placedAt).toNat → Aborts (.prepareTimeout l.id)) ∧ ((s.now - l.placedAt).toNat < 2000000 → exec (.prepareTimeout l.id) s = .next s)) ∧
    (runs → unique → pkg.toNat ∈ others → s.launchExited l = false ∨ (∃ q ∈ others, q ∉ l.reported) → ∃ t y, exec (.memberLost l.id pkg) s = .next t ∧ t.launch? l.id = some y ∧ y = { l with ending := some 0x02000009, reported := union l.reported [pkg.toNat] } ∧
      t.sent = s.sent ++ (others.filter fun q => q != pkg.toNat).map (fun q => Msg.stop q l.id) ∧ t.regs = { s.regs with distCnt := satInc s.regs.distCnt 16 16 } ∧ t.mem = s.mem ∧ t.trays = s.trays) ∧
    (s.launch? l.id = some l → l.coord = true → l.phase = .running → l.ending.isSome = true → unique → pkg.toNat ∈ others → ∃ t, exec (.memberLost l.id pkg) s = .next t ∧ t.launch? l.id = some { l with reported := union l.reported [pkg.toNat] } ∧ t.sent = s.sent ∧ t.regs = s.regs) ∧
    (runs → unique → pkg.toNat ∈ others → ∃ t, exec (.exitReport l.id ⟨pkg, status⟩) s = .next t ∧ t.mem = s.mem ∧
      (status = 0 → t.launch? l.id = some { l with reported := union l.reported [pkg.toNat] } ∧ t.sent = s.sent) ∧
      (status ≠ 0 → t.launch? l.id = some { l with reported := union l.reported [pkg.toNat], ending := some status } ∧ t.sent = s.sent ++ others.map fun q => Msg.stop q l.id)) ∧
    (s.launch? l.id = some l → unique → l.coord = false → pkg.toNat = s.pkg → l.phase = .running → s.launchDrained l.id = true → l.ending.isSome = true ∨ s.launchExited l = true → l.f.rel = false →
      ∃ t, exec (.exitReport l.id ⟨pkg, status⟩) s = .next t ∧ gone t ∧ t.sent = s.sent ++ [.exitReport l.ctx l.chain l.seq (l.ending.getD 0)])

/-- The serving controller (R119, R122, R123): LEN_EN is not taken over a base that is no backed first-tier offset; a list for a context that is delegated to the controller and open, whose records are backed, appends its records in order; any other sets LIST_ERR and appends none. -/
def Obligations.TheServingController : Prop :=
  ∀ (s : State) (p : Port) (v ltgt : Word), s.boot.off = false → s.power ≠ 3 →
    let r := s.regs
    let base := v.toNat / 2 ^ 16 % 2 ^ 36 * 65536
    let badBase := v.toNat / 2 % 2 = 1 ∧ ¬ (s.backed base = true ∧ regionOf (offOf base) = .first)
    let taken := fun (r : Regs) => { r with srvCtl := (r.srvCtl &&& ~~~ (0xFFFFFFFFF0002 ||| (v &&& 4))) ||| (v &&& 0xFFFFFFFFF0002) }
    let lt : Word := (r.srvLtgt &&& ~~~ 0xFFF3F) ||| (ltgt &&& 0xFFF3F)
    let c := lt.toNat / 2 ^ 8 % 2 ^ 8
    let ch := lt.toNat % 2 ^ 6
    let as := (List.range (lt.toNat / 2 ^ 16 % 2 ^ 4 + 1)).map fun i => v.toNat / 2 ^ 6 % 2 ^ 46 * 64 + 64 * i
    let good := (s.ctx c).st = 1 ∧ bit (r.srvDeleg.getD (c / 64) 0).toNat (c % 64) = true ∧ ∀ a ∈ as, s.backed a = true
    (badBase → exec (.srvCtlWrite none v) s = .next s ∧ (Reaches s p → HoldsSem s p → exec (.srvCtlWrite (some p) v) s = .next (wrote s id))) ∧
    (¬ badBase → exec (.srvCtlWrite none v) s = .next { s with regs := taken r } ∧ (Reaches s p → HoldsSem s p → exec (.srvCtlWrite (some p) v) s = .next (wrote s taken))) ∧
    (exec (.srvList none v) s = exec (.srvList (some r.srvLtgt) v) s) ∧
    (r.srvCtl.toNat % 2 = 0 → exec (.srvList (some ltgt) v) s = .next s) ∧
    (r.srvCtl.toNat % 2 = 1 → ¬ good → exec (.srvList (some ltgt) v) s = .next { s with active := s.now, regs := { r with srvLtgt := lt, srvCtl := r.srvCtl ||| 4 } }) ∧
    (r.srvCtl.toNat % 2 = 1 → good → (s.ctx c).held = [] → (s.ord (.port 2)).outbox = [] → s.ctxMode c = 0 → (s.ctx c).chains.length = 64 → (s.chain c ch).seq + 16 < 2 ^ 64 → s.retaining = false → s.power = 0 →
      ∃ t rs, exec (.srvList (some ltgt) v) s = .next t ∧ t.regs = { r with srvLtgt := lt } ∧ (t.chain c ch).recs = (s.chain c ch).recs ++ rs ∧ rs.map Rec.addr = as ∧
        rs.map Rec.seq = (List.range as.length).map (fun i => (s.chain c ch).seq + 1 + i) ∧ (∀ x ∈ rs, x.st = 0 ∧ x.appender = some (.port 2)) ∧ (t.chain c ch).tail = as.getLast? ∧ ∀ n, n ≠ ch → t.chain c n = s.chain c n)

/-! Engine commands (R63 to R65, R388 to R398) -/

/-- Engine commands start and end (R63, R64, R388, R390 to R398). A record that breaks a limit of its KIND completes at once with status bad record. One that keeps them runs, and when every access answers, ends with status done: copy writes what it reads of its source; stream writes the worked elements; gather writes the row that the index names, or
zeros; select writes the selection; a member of a collective waits for its peers, and the collective of one member writes its own elements; a pass visits its descriptors; a migration of pages begins. copy, stream and gather are said for one row or run within one 4 KiB piece of its destination, demote for one descriptor. That a command runs in one step as far as it can is the model's choice (log entry 22: DESIGN CHOICE), and so is how collectives span packages (log entry 96: DESIGN CHOICE); the pieces of a copy (log entry 41: DEDUCED), the pages that a migrate command passes over (log entry 27: DEDUCED) and the moment at which a demotion is over (log entry 29: DEDUCED) are its readings. -/
def Obligations.EngineCommandsRun : Prop :=
  ∀ (s s1 s2 s3 : State) (c : Fin 256) (ch : Fin 64) (r : Rec) (v x y : Nat),
    let N := fun kind => Next s c.val ch.val kind r
    let e := r.eng c.val ch.val true
    let e' := r.eng c.val ch.val false
    let s0 := s.startCmd c.val ch.val r
    let plain := s.startMode c.val r = 0 ∧ s.dbgLevel = 0 ∧ (s.ctx c.val).st = 1
    let Bad := fun (i : Instr) (kind : Nat) (ok : Bool) => N kind → plain → r.headerOk = false ∨ ok = false → ∃ t, exec i s = .next t ∧ Finished s t c.val ch.val r 0x02000001
    let Does := fun (i : Instr) (kind : Nat) (ok : Bool) (s' : State) => N kind → r.headerOk = true → ok = true → ∃ t, exec i s = .next t ∧ Ran s' t (if kind < 7 then e else e') 0x02000000
    let one := fun (d n : Nat) => cuts d n = [(d, n)]
    let d := r.word 2
    Bad (.copyRecord c ch) 2 (copyOk e r) ∧ Bad (.streamRecord c ch) 3 (streamOk e r) ∧ Bad (.gatherRecord c ch) 4 (gatherOk e r) ∧ Bad (.selectRecord c ch) 5 (selectOk e r) ∧
    Bad (.collRecord c ch) 6 (collOk e r) ∧ Bad (.demoteRecord c ch) 7 (demoteOk e' r) ∧ Bad (.migrateRecord c ch) 8 (migrateOk e' r) ∧
    (r.prog = 0 → r.word 3 / 2 ^ 32 = 1 → let n := r.word 3 % 2 ^ 32
      one d n → copyOverlaps s0 e r = false → engRead e (r.word 5 % 2 ^ 4) (r.word 1) n s0 = .ok (v, s1) → engWrite e (r.word 5 / 2 ^ 4 % 2 ^ 4) d n v s1 = .ok s2 → Does (.copyRecord c ch) 2 (copyOk e r) s2) ∧
    (∀ it ot, streamIn (r.word 3 / 2 ^ 32 % 2 ^ 5) = some it → streamOut (r.word 3 / 2 ^ 37 % 2 ^ 5) = some ot → r.prog = 0 → let n := r.word 3 % 2 ^ 32 * FFmt.bytes ot
      one d n → engRead e 4 (r.word 4) 64 s0 = .ok (x, s1) → streamOpsOk x (r.word 5) = true → streamBytes e r it ot (streamOps x) 0 n (s1.keep e (some (.ops x))) = .ok (v, s2) → engWrite e (r.word 3 / 2 ^ 46 % 2 ^ 4) d n v s2 = .ok s3 →
      Does (.streamRecord c ch) 3 (streamOk e r) s3) ∧
    (r.prog = 0 → r.word 4 / 2 ^ 32 = 1 → let n := r.word 4 % 2 ^ 32
      one d n → engRead e (r.word 5 / 2 ^ 40 % 2 ^ 4) (r.word 3) 4 s0 = .ok (x, s1) → let k := s1.keep e (some (.row x))
      (x = 0xFFFFFFFF → engWrite e (r.word 5 / 2 ^ 36 % 2 ^ 4) d n 0 k = .ok s2 → Does (.gatherRecord c ch) 4 (gatherOk e r) s2) ∧
      (x ≠ 0xFFFFFFFF → engRead e (r.word 5 / 2 ^ 32 % 2 ^ 4) ((r.word 1 + x * (r.word 5 % 2 ^ 32)) % 2 ^ 64) n k = .ok (v, s2) → engWrite e (r.word 5 / 2 ^ 36 % 2 ^ 4) d n v s2 = .ok s3 → Does (.gatherRecord c ch) 4 (gatherOk e r) s3)) ∧
    (∀ l, selectList e r s0 = .ok (l, s1) → engWrite e (r.word 4 / 2 ^ 56 % 2 ^ 4) (r.word 5) 128 (selectOut (r.word 4 / 2 ^ 48 % 2 ^ 5) l) s1 = .ok s2 → Does (.selectRecord c ch) 5 (selectOk e r) s2) ∧
    (N 6 → r.headerOk = true → collOk e r = true → (s.colls.filter fun m => m.ctx == c.val && m.id == r.word 4 % 2 ^ 32) = [] → s.farMembers c.val (r.word 4 % 2 ^ 32) = [] → ∃ t, exec (.collRecord c ch) s = .next t ∧
      t.colls = s.colls ++ [⟨c.val, ch.val, r.seq, r.word 4 % 2 ^ 32, r.word 3 / 2 ^ 48 % 2 ^ 8, r.body, s.now.toNat, none⟩] ∧ t.mem = s0.mem ∧ ∃ r', t.rec? c.val ch.val r.seq = some r' ∧ r'.st = 1 ∧ r'.ending = r.ending) ∧
    (∀ (id : BitVec 32) (m : CollMember) (t : Ty), s.working = true → s.colls.filter (fun m => m.ctx == c.val && m.id == id.toNat) = [m] → m.chain = ch.val → m.seq = r.seq → m.body = r.body → m.rank = 0 → m.data = none → s.farMembers c.val id.toNat = [] → s.rec? c.val ch.val r.seq = some r →
      r.st = 1 → r.ending = none → r.hold = none → r.word 3 / 2 ^ 56 % 2 ^ 8 = 0 → r.word 3 / 2 ^ 37 % 2 ^ 3 ≤ 3 → collTy (r.word 3 / 2 ^ 32 % 2 ^ 5) = some t → let n := r.word 3 % 2 ^ 32 * t.iw / 8
      one d n → engRead e (r.word 3 / 2 ^ 40 % 2 ^ 4) (r.word 1) n s = .ok (v, s1) → engWrite e (r.word 3 / 2 ^ 44 % 2 ^ 4) d n (v % 2 ^ (8 * n)) s1 = .ok s2 → v < 2 ^ (8 * n) → (s.ctx c.val).chains.length = 64 →
      ((s.chain c.val ch.val).recs.map Rec.seq).Nodup → ∃ u, exec (.collectiveRun c id) s = .next u ∧ Ran s2 u e 0x02000000 ∧ ∀ k ∈ u.colls, ¬ (k.ctx = c.val ∧ k.id = id.toNat)) ∧
    (∀ l, r.prog = 0 → r.word 2 / 2 ^ 32 % 2 ^ 16 = 0 → passLists e' (r.word 6) s0 = .ok (l, s1) → let k := s1.keepPass e' r
      k.ringBlocked e' (l.fab.getD 4 0) = false → passLook e' r l 0 k = .ok s2 → passSwap e' r l 0 s2 = .ok s3 → Does (.demoteRecord c ch) 7 (demoteOk e' r) s3) ∧
    (∀ g, N 8 → r.headerOk = true → migrateOk e' r = true → r.word 1 < 2 ^ 56 → r.word 2 % 2 ^ 16 = 0 → (s0.ctx c.val).range (r.word 1) 65536 = some g → g.wr = true → s0.backed (g.fabric (r.word 1)) = true →
      s0.backed (g.fabric (r.word 1) + 65535) = true → let start := s0.startMig (g.fabric (r.word 1) / 65536) (bit (r.word 2) 16) (some (c.val, ch.val, r.seq));
      (start = .passed → ∃ t, exec (.migrateRecord c ch) s = .next t ∧ t = s0.endCommand c.val ch.val r.seq 0x02000000) ∧
      (start = .noSpace → ∃ t, exec (.migrateRecord c ch) s = .next t ∧ t = s0.endCommand c.val ch.val r.seq 0x02000005) ∧
      (start = .busy → ∃ t, exec (.migrateRecord c ch) s = .next t ∧ t = s0.endCommand c.val ch.val r.seq 0x02000006) ∧
      (start = .started s1 → exec (.migrateRecord c ch) s = .next s1)) ∧
    (r.seq < 2 ^ 64 → (∀ x, s.retireReady.rec? c.val ch.val r.seq = some x → x.hold = none) → exec (.listRoomResume c ch (BitVec.ofNat 64 r.seq)) s = .next s.retireReady) ∧
    (∀ fa, r.seq < 2 ^ 64 → s.retireReady.rec? c.val ch.val r.seq = some r → r.hold = some (.list fa) → r.st = 1 → r.ending = none → r.kind = 7 → s.retireReady.working = true →
      exec (.listRoomResume c ch (BitVec.ofNat 64 r.seq)) s = .next (demoteRun e' r s.retireReady))

/-- Records complete (R63 to R67, R89, R104): a launch record that breaks a limit or declares a bad pipeline completes with status bad record, one with a poisoned word with CAUSE 0x14 (R199; that the distributor's own reads end so is the model's reading, log entry 83: DEDUCED), one with a bad dependence with its status, and one whose dependences are met becomes ready; the record of a launch whose trays have all exited and whose outboxes have drained completes, though never before every other member of a launch that has run has reported or is lost (R104); so does a command that
has ended. Said for records that ask for no release, in a launch or context that is neither recorded nor replayed. -/
def Obligations.RecordsComplete : Prop :=
  ∀ (s : State) (c : Fin 256) (ch : Fin 64) (r0 : Rec) (l : Launch) (st : Word32),
    let r := { fetched s r0 with body := (fetched s r0).body ++ s.pipeWords c.val (launchF (fetched s r0).body) }
    let f := launchF r.body
    let pp := s.recPipe f (s.pipeWords c.val f)
    let unique := ((s.chain c.val ch.val).recs.map Rec.seq).Nodup ∧ (s.ctx c.val).chains.length = 64 ∧ (s.ctx c.val).st = 1
    (s.working = true → ch.val < 8 → unique → s.nextRec c.val ch.val = some r0 → r0.body = [] →
      (s.recBad r0.addr = true ∨ s.pipeBad c.val f = true → ∃ t, exec (.launchRecord c ch) s = .next t ∧ Finished s t c.val ch.val r 0x02140010) ∧
      (s.recBad r0.addr = false → s.pipeBad c.val f = false →
      (s.launchLimits c.val f = false ∨ pp.2 = true → ∃ t, exec (.launchRecord c ch) s = .next t ∧ Finished s t c.val ch.val r 0x02000001) ∧
      (s.launchLimits c.val f = true → pp.2 = false → (∃ d ∈ f.deps, s.badDep c.val ch.val r.seq d = true) → ∃ t, exec (.launchRecord c ch) s = .next t ∧ Finished s t c.val ch.val r 0x02000002) ∧
      (s.launchLimits c.val f = true → pp.2 = false → (∀ d ∈ f.deps, s.badDep c.val ch.val r.seq d = false) → r0.readyAt = none → ∃ t x, exec (.launchRecord c ch) s = .next t ∧ t = { s with ctxs := t.ctxs } ∧
        t.rec? c.val ch.val r.seq = some x ∧ x = { r with pipe := pp.1, readyAt := if f.deps.all fun d => decide (d.2 ≤ (s.chain c.val d.1).done) then some s.cycle else none }))) ∧
    (s.launches.find? (fun x => x.ctx == c.val && x.chain == ch.val && x.seq == r0.seq && x.coord && x.phase != .done) = some l → r0.seq < 2 ^ 64 → (s.launches.map Launch.id).Nodup →
      (s.launchOver l = true → l.f.rel = false → l.ending = none → unique → s.rec? c.val ch.val r0.seq = some r0 → (s.ctx c.val).held = [] → (∀ t ∈ s.trays, t.lpDirty = []) → ∃ t, exec (.recordComplete c ch (BitVec.ofNat 64 r0.seq)) s = .next t ∧
        Finished s t c.val ch.val r0 0x02000000 ∧ ∀ y, t.launch? l.id = some y → y.phase = .done) ∧
      (s.launchOver l = false → l.ending = none → exec (.recordComplete c ch (BitVec.ofNat 64 r0.seq)) s = .next s) ∧
      (s.launchOver l = false → exec (.recordComplete c ch (BitVec.ofNat 64 r0.seq)) s = .next (s.tellEnd l)) ∧
      (l.ran = true → (∃ q ∈ l.others s.pkg, q ∉ l.reported) → s.launchOver l = false)) ∧
    (s.launches.find? (fun x => x.ctx == c.val && x.chain == ch.val && x.seq == r0.seq && x.coord && x.phase != .done) = none → r0.seq < 2 ^ 64 → s.rec? c.val ch.val r0.seq = some r0 → unique → r0.st = 1 → r0.ending = some st →
      r0.relFlag = false → (s.who (.engine c.val ch.val r0.seq)).mode = 0 → s.dbgLevel = 0 → ∃ t, exec (.recordComplete c ch (BitVec.ofNat 64 r0.seq)) s = .next t ∧ Finished s t c.val ch.val r0 st)

/-! Placement (R86 to R97, R108, R111 to R118) -/

/-- The distributor's decisions (R88 to R97, R111, R113 to R118), said for launches that are neither recorded nor replayed: the first launch in the order of R90 that waits for cores and fits, whatever stands before it, is placed at the first origin with room, its record started, its trays fresh, its groups at the entry; with nothing waiting nothing is placed; a slide moves every tray of its launch to
the new origin's cores and lets it run on, its groups as they were, and memory too where no lane-private line is dirty; evicted groups return together once their core has room; a flushed tray starts afresh on its core, unless evicted groups of at least its priority or a flushed tray of a higher one are still owed that core; a tray receives the lowest-numbered tiles that are free there (R417); a running pipeline with no move pending has at most one tray marked. That a launch which cannot be placed does not stop a later one is the model's reading (log entry 69: DEDUCED), as is what a core counts as held (log entry 20: DEDUCED). -/
def Obligations.Placement : Prop :=
  ∀ (s : State) (w : Want) (pre ws : List Want) (r : Rec) (ox oy : Nat) (xs : List Spot) (l : Launch) (t : Tray) (x : Slide) (run : Nat) (units : List Nat),
    let s0 := s.freeTrays
    let free_ := s.working = true ∧ s.ckptBusy = false ∧ s.slide = none
    let normal := ∀ p ∈ s0.ctxs, s0.ctxMode p.1 ≠ 2
    let f := launchF r.body
    (free_ → normal → s0.wants = [] → exec .placementDecision s = .next s0) ∧
    (free_ → normal → s0.wants = pre ++ w :: ws → (∀ q ∈ pre, s0.modeBlocked q.ctx q.f = true ∨ (s0.ownWant q = true ∧ s0.fitNow holdsCore q = none)) → w.f = f → w.record = some r → f.mode = 0 → s0.modeBlocked w.ctx f = false → s0.singleAt f = true → s0.fitNow holdsCore w = some ((ox, oy), xs) → (s0.ctx w.ctx).chains.length = 64 → w.chain < 64 →
      ((s0.chain w.ctx w.chain).recs.map Rec.seq).Nodup → r ∈ (s0.chain w.ctx w.chain).recs → (∀ y ∈ s0.launches, y.id ≠ s0.nextId) → (∀ y ∈ s0.trays, y.launch ≠ s0.nextId) → (xs.map Spot.idx).Nodup → ∃ u y r', exec .placementDecision s = .next u ∧
        u.launch? s0.nextId = some y ∧ y.phase = .running ∧ y.f = f ∧ y.ox = ox ∧ y.oy = oy ∧ y.ctx = w.ctx ∧ y.chain = w.chain ∧ y.seq = r.seq ∧ y.coord = true ∧ y.placedAt = s0.now ∧
        u.rec? w.ctx w.chain r.seq = some r' ∧ r'.st = 1 ∧ u.nextId = s0.nextId + 1 ∧ u.regs = { s0.regs with distCnt := satInc s0.regs.distCnt 0 16 } ∧ (∀ z ∈ s0.trays, z ∈ u.trays) ∧
        ∀ p ∈ xs, ∃ z, u.tray? s0.nextId p.idx = some z ∧ z.core = p.core ∧ z.spRun = p.run ∧ z.sp = [] ∧ z.pm = [] ∧ z.lp = [] ∧ z.lpDirty = [] ∧ z.hvec = 0 ∧ z.lplim = f.lpWords ∧ z.published = false ∧ z.warps.length = f.groups ∧
          z.tiles.length = 48 ∧ (∀ j, j < 48 → (z.tiles.getD j Tile.absent).alloc = ((s0.freeTilesAt p.core).take f.tiles).contains j) ∧
          ∀ g, g < f.groups → ∃ v, z.warps[g]? = some v ∧ v.agent = .group s0.nextId p.idx g ∧ v.nregs = f.nregs ∧ v.sreg = ([0, BitVec.ofNat 64 f.param, BitVec.ofNat 64 (stageAt r.pipe p.idx)] : List Word) ++ List.replicate 61 0 ∧
            ∀ k, k < 32 → (v.lane k).st = .ready ∧ (r.pipe = none → (v.lane k).pc = BitVec.ofNat 56 f.entry) ∧ (v.lane k).ident = BitVec.ofNat 16 (32 * g + k) ∧ (v.lane k).p = 0 ∧ (v.lane k).v = List.replicate f.nregs 0) ∧
    (s.slide = none → exec .slideResume s = .next s) ∧
    (s.slide = some x → s.launch? x.launch = some l → (s.launches.map Launch.id).Nodup → State.spots { s with slide := none } (heldBut l.id) l.chain l.f x.nx x.ny = some xs →
      (xs.map Spot.idx).Nodup → (∀ h ∈ (s.ctx x.ctx).chains, ∀ y ∈ h.recs, y.st ≠ 0) → (∀ y ∈ s.launches, y.phase ≠ .prepared) → ∃ u y, exec .slideResume s = .next u ∧ u.slide = none ∧ u.launch? l.id = some y ∧ y.phase = .running ∧
        y.ox = x.nx ∧ y.oy = x.ny ∧ ((∀ z ∈ s.trays, z.launch = l.id → z.lpDirty = []) → u.mem = s.mem) ∧ u.regs = { s.regs with distCnt := satInc s.regs.distCnt 48 16 } ∧
        ∀ p ∈ xs, ∀ z, s.tray? l.id p.idx = some z → u.tray? l.id p.idx = some { z with core := p.core, spRun := p.run, lpDirty := [] }) ∧
    (s.launch? l.id = some l → s.tray? l.id t.idx = some t → l.phase = .running → l.f.mode = 0 → free_ →
      let n := (t.warps.filter fun w => w.evicted && !w.gone).length
      let here := ∃ w ∈ t.warps, w.gone = false ∧ w.evicted = false
      n ≠ 0 → (∀ w ∈ t.warps, (∃ g, w.agent = .group l.id t.idx g) ∧ ∀ y ∈ w.lanes, y.back = none) →
      (here → s.coreRoom holdsCore t.core ⟨n, n * 128 * l.f.nregs, 0, 0⟩ = some run → ∃ u, exec (.evictedReturn l.id t.idx) s = .next u ∧ u.mem = s.mem ∧ u.regs = s.regs ∧
        u.tray? l.id t.idx = some { t with warps := t.warps.map fun w => { w with evicted := false } }) ∧
      (¬ here → s.coreRoom holdsCore t.core ⟨n, n * 128 * l.f.nregs, l.f.tiles, (l.f.spBytes + l.f.pmBytes) / 1024⟩ = some run → ∃ u, exec (.evictedReturn l.id t.idx) s = .next u ∧ u.mem = s.mem ∧ u.regs = s.regs ∧
        u.tray? l.id t.idx = some { t with spRun := run, warps := t.warps.map fun w => { w with evicted := false } }) ∧
      (here → s.coreRoom holdsCore t.core ⟨n, n * 128 * l.f.nregs, 0, 0⟩ = none → exec (.evictedReturn l.id t.idx) s = .next s)) ∧
    (s.launch? l.id = some l → (s.launches.map Launch.id).Nodup → s.tray? l.id t.idx = some t → l.phase = .running → free_ → t.idx ∈ l.replace → s.owedBefore t l.chain = false → lowestUnits (s.lpFree l.ctx) l.f.lpNeed = some units → s.coreRoom holdsCore t.core l.f.need = some run →
      ∃ u z, exec (.trayReplace l.id t.idx) s = .next u ∧ u.tray? l.id t.idx = some z ∧ z = freshTray l.id l.f l.pipe ⟨t.idx, t.core, run⟩ units ((s.freeTilesAt t.core).take l.f.tiles) ∧
        u.launch? l.id = some { l with replace := l.replace.filter fun y => y != t.idx } ∧ u.mem = s.mem ∧ u.regs = s.regs) ∧
    (s.launch? l.id = some l → s.tray? l.id t.idx = some t → s.owedBefore t l.chain = true → exec (.trayReplace l.id t.idx) s = .next s) ∧
    (∃ u, exec .pipelineRebalanceTick s = .next u ∧ u = { s with pipeAt := s.now, launches := u.launches } ∧ u.launches.length = s.launches.length ∧
      ∀ (j : Nat) (y : Launch), s.launches[j]? = some y → ∃ y' : Launch, u.launches[j]? = some y' ∧ (y.pipe = none → y' = y) ∧ ∀ p : Pipe, y.pipe = some p → ∃ p' : Pipe, y'.pipe = some p' ∧ y' = { y with pipe := some p' } ∧ p' = { p with marked := p'.marked } ∧
        (p.marked.isSome = true ∨ y.f.mode = 2 ∨ y.phase ≠ .running → p'.marked = p.marked) ∧
        ∀ tr k, p'.marked = some (tr, k) → p.marked = none → ∃ d, d ≠ k ∧ d + 1 < p.stages.length ∧ 0 < k ∧ k < p.stages.length ∧ (s.stageTrays y.id d).getLast? = some tr ∧
          ((p.stages[d]?).map Stage.min).getD 0 < (s.stageTrays y.id d).length)

/-! A step, decoding, reset, and what every step keeps -/

/-- What one step does (R163, R173, R281; the order of the model's turns is log entry 1: DESIGN CHOICE): the oldest step of the outside world runs alone, with nothing around it; else a step of the device that is due; else, with no group to issue, time passes; else the next group takes the turn,
time passes, and its front's word is fetched, with the walk that this makes (R164, log entry 76: DEDUCED). If the word stands where a word may stand, decodes to i and meets no breakpoint, the step is exec of i, after which the issue is counted; one that meets a breakpoint halts its context, or traps the lanes not exempt unless
exec gives them a lower cause (R218, R142); if fetch faults, if the framing forbids the word, or if it is no instruction, the front traps with the lowest cause that holds (R283), the word being counted unless it is a header (R205). -/
def Obligations.AStepRunsTheDecodedWord : Prop :=
  ∀ s : State,
    (∀ i r, s.inputs = i :: r → Machine.step s = exec i { s with inputs := r }) ∧
    (∀ i, s.inputs = [] → s.due = some i → Machine.step s = exec i s) ∧
    (s.inputs = [] → s.due = none → s.nextWarp = none → Machine.step s = .next s.wait1) ∧
    (∀ (w w1 : Warp) (la : Launch), s.inputs = [] → s.due = none → s.nextWarp = some w →
      let s1 := { s.wait1 with turn := some w.agent, lines := [] }
      s1.warp? w.agent = some w1 →
      let w2 := s1.toIssue w1
      (s1.setWarp w2).launchOf w2.agent = some la →
      let u := (s1.setWarp w2).touchCode la w2.frontPc.toNat
      (∀ c, u.fetch la w2.frontPc.toNat = .fault c → Machine.step s = .next (u.trapFront w2.counted (.at c w2.frontPc.toNat))) ∧
      (∀ x : Word, u.fetch la w2.frontPc.toNat = .word x →
        let major := x.toNat / 2 ^ 56
        let header := major = 0xFF
        let Traps := fun (c : Nat) => Machine.step s = .next (u.trapFront (if header then w2 else w2.counted) (.of c))
        (¬ header → (∀ h n m, w2.frontFrame ≠ .body h n m) → Traps (match decode x with
          | .error .illegal => 0x01
          | .error .reserved => 0x02
          | .ok i => if i.opnds.all w2.holds then 0x03 else 0x02)) ∧
        (header → (∃ h n m, w2.frontFrame = .body h n m) → Traps 0x01) ∧
        (0xC0 ≤ major → major ≤ 0xDF → (∃ h n, w2.frontFrame = .body h n false) → Traps 0x01) ∧
        (frameFault w2.frontFrame major = none →
          (decode x = .error .illegal → Traps 0x01) ∧
          (decode x = .error .reserved → Traps 0x02) ∧
          (∀ i, decode x = .ok i → u.breakAt? w2 = none →
            (∀ t, exec i u = .next t → Machine.step s = .next (afterIssue i u t)) ∧
            (∀ f, exec i u = .fault f → Machine.step s = .fault f) ∧
            (∀ r, exec i u = .refused r → Machine.step s = .refused r)) ∧
          (∀ i n, decode x = .ok i → u.breakAt? w2 = some n → (w2.front.all fun k => (w2.lane k).exempt) = false →
            let halts := bit ((u.ctx la.ctx).bp.getD n 0).toNat 1
            (halts = true → Machine.step s = .next (u.haltHit w2 0x50 n)) ∧
            (halts = false → ∀ t, exec i u = .next t → Machine.step s = .next (u.breakTrap n i t))))))

/-- Words written out from the encodings of the manual are the instructions they stand for (R266 to R278, R281), some of every format. -/
def Obligations.WordsDecode : Prop :=
  let g : Guard := ⟨false, 7⟩
  decode 0x1330404810000102 = .ok (.add ⟨false, 3⟩ .i32 (.v 4) (.v 4) (.imm 1)) ∧
  decode 0x02A0001900000000 = .ok (.bra ⟨true, 2⟩ 25) ∧
  decode 0x1170400A00020000 = .ok (.movi g .n64 (.s 4) 0x20000) ∧
  decode 0x3070103040002100 = .ok (.setp g .lt .none .i32 1 (.v 3) (.v 4)) ∧
  decode 0x4370801020800500 = .ok (.fma g .f32 .rne (.v 8) (.v 1) (.v 2) (.v 8)) ∧
  decode 0x507030200000A600 = .ok (.cvt g .e4m3 .f32 false (.mode .rne) (.v 3) (.v 2)) ∧
  decode 0x7070504810204A82 = .ok (.shfl g .b32 .xor 5 (.v 4) (.imm 1) 2) ∧
  decode 0x8070508004300404 = .ok (.ld g .g .n32 5 ⟨.v 8, .s 0, 4⟩) ∧
  decode 0x8870408004348400 = .ok (.atom g .add (some .device) .g .n32 4 ⟨.v 8, .s 0, 0⟩) ∧
  decode 0x8C70000000041000 = .ok (.fence g .rel .device) ∧
  decode 0xB070000000001000 = .ok (.bar g false .tray) ∧
  decode 0xC070210200831801 = .ok (.mma g true .mx8a .mx8a 2 16 32 8) ∧
  decode 0xE17070530C000000 = .ok (.copy g ⟨.tray, true, false, false⟩ 7 (.s 5) 12) ∧
  decode 0xF570000000010000 = .ok (.rteSkip g) ∧
  decode 0xFF0C0A0001A00002 = .ok (.blockHeader ⟨12, 10, 26, 0, 2⟩) ∧
  decode 0 = .error .illegal ∧
  decode 0x01F0000000000000 = .error .reserved ∧
  decode 0x0170000000000001 = .error .reserved

/-- Encoding loses nothing (R266 to R278): every well-formed word of the instruction set, with every operand at every value its field admits, fits in 64 bits and is what its encoding decodes to. -/
def Obligations.EncodingRoundTrips : Prop :=
  ∀ i : Instr, i.isWord = true → i.wf = true → encode i < 2 ^ 64 ∧ decode (BitVec.ofNat 64 (encode i)) = .ok i

/-- What reset leaves, where the manual's tables give it (R10, R24 to R26, R35, R36, R41, R45, R48, R51 to R60, R72 to R83, R98, R105, R119 to R122, R166, R185, R200, R211 to R220): every management register reads its Reset column, which is zero but for LOW_MARK and RATIO of CMP_CFG, MIN_FREE of CMP_POOL and
LOG2_SIZE of BAL_CTL; all 256 contexts are free; the time base is 0 and start step 1 is next; no sheet holds a chunk, no launch or tray exists. That memory lists nothing, so that every byte reads as zero, is the model's choice (log entry 7: DESIGN CHOICE), as are an empty NOR and links that are up (log entry 6: DESIGN CHOICE). -/
def Obligations.WhatResetLeaves : Prop :=
  let s := State.reset
  (∀ o : Nat, o < 0x100000 → o % 8 = 0 →
    s.regRead o = if o = 0x400 then BitVec.ofNat 64 (0x4000 * 2 ^ 24 + 128 * 2 ^ 8) else if o = 0x410 ∨ o = 0x418 ∨ o = 0x420 ∨ o = 0x428 then BitVec.ofNat 64 (0x400000 * 2 ^ 32) else if o = 0x448 then BitVec.ofNat 64 (8 * 2 ^ 42) else 0) ∧
  (∀ c r : Nat, c < 256 → r < 0x1000 → s.regRead (0x100000 + 0x1000 * c + r) = 0) ∧
  (∀ c, (s.ctx c).st = 0) ∧ s.now = 0 ∧ s.boot.next = some 1 ∧ s.launches = [] ∧ s.trays = [] ∧ s.handlers = [] ∧ s.keys = [] ∧ s.kemKey = none ∧ s.dbgLevel = 0 ∧
  (∀ a, s.sheetChunks a = 0) ∧
  (∀ a, memGet s.mem a = 0) ∧ s.mem.wf = true

/-- Memory keeps its canonical form (addresses strictly rising, no zero byte listed; the form is the model's, log entry 7: DESIGN CHOICE): from every state whose memory has it, whatever the step is (an instruction, a step of a host, of an engine or of the device), a next state's memory has it. -/
def Obligations.EveryStepKeepsMemoryCanonical : Prop :=
  ∀ s t : State, s.mem.wf = true → Machine.step s = .next t → t.mem.wf = true

end
end

