-- ==== Sys2Proof/Laws/State.lean ====
section
/-!
SUPPORT. What the updates of the state leave alone: one lemma for each field and each update.
-/

namespace Sys2Proof.Machine

/-! setTray -/

@[simp] theorem State.setTray_inputs (s : State) (t : Tray) : (s.setTray t).inputs = s.inputs := rfl
@[simp] theorem State.setTray_turn (s : State) (t : Tray) : (s.setTray t).turn = s.turn := rfl
@[simp] theorem State.setTray_paceC (s : State) (t : Tray) : (s.setTray t).paceC = s.paceC := rfl
@[simp] theorem State.setTray_paceNs (s : State) (t : Tray) : (s.setTray t).paceNs = s.paceNs := rfl
@[simp] theorem State.setTray_free (s : State) (t : Tray) : (s.setTray t).free = s.free := rfl
@[simp] theorem State.setTray_cycle (s : State) (t : Tray) : (s.setTray t).cycle = s.cycle := rfl
@[simp] theorem State.setTray_now (s : State) (t : Tray) : (s.setTray t).now = s.now := rfl
@[simp] theorem State.setTray_offsets (s : State) (t : Tray) : (s.setTray t).offsets = s.offsets := rfl
@[simp] theorem State.setTray_mem (s : State) (t : Tray) : (s.setTray t).mem = s.mem := rfl
@[simp] theorem State.setTray_vers (s : State) (t : Tray) : (s.setTray t).vers = s.vers := rfl
@[simp] theorem State.setTray_rels (s : State) (t : Tray) : (s.setTray t).rels = s.rels := rfl
@[simp] theorem State.setTray_ords (s : State) (t : Tray) : (s.setTray t).ords = s.ords := rfl
@[simp] theorem State.setTray_regd (s : State) (t : Tray) : (s.setTray t).regd = s.regd := rfl
@[simp] theorem State.setTray_unregd (s : State) (t : Tray) : (s.setTray t).unregd = s.unregd := rfl
@[simp] theorem State.setTray_cached (s : State) (t : Tray) : (s.setTray t).cached = s.cached := rfl
@[simp] theorem State.setTray_ctxs (s : State) (t : Tray) : (s.setTray t).ctxs = s.ctxs := rfl
@[simp] theorem State.setTray_keys (s : State) (t : Tray) : (s.setTray t).keys = s.keys := rfl
@[simp] theorem State.setTray_kemKey (s : State) (t : Tray) : (s.setTray t).kemKey = s.kemKey := rfl
@[simp] theorem State.setTray_kemIvs (s : State) (t : Tray) : (s.setTray t).kemIvs = s.kemIvs := rfl
@[simp] theorem State.setTray_launches (s : State) (t : Tray) : (s.setTray t).launches = s.launches := rfl
@[simp] theorem State.setTray_gathers (s : State) (t : Tray) : (s.setTray t).gathers = s.gathers := rfl
@[simp] theorem State.setTray_handlers (s : State) (t : Tray) : (s.setTray t).handlers = s.handlers := rfl
@[simp] theorem State.setTray_nextId (s : State) (t : Tray) : (s.setTray t).nextId = s.nextId := rfl
@[simp] theorem State.setTray_slide (s : State) (t : Tray) : (s.setTray t).slide = s.slide := rfl
@[simp] theorem State.setTray_colls (s : State) (t : Tray) : (s.setTray t).colls = s.colls := rfl
@[simp] theorem State.setTray_farColls (s : State) (t : Tray) : (s.setTray t).farColls = s.farColls := rfl
@[simp] theorem State.setTray_regs (s : State) (t : Tray) : (s.setTray t).regs = s.regs := rfl
@[simp] theorem State.setTray_portUp (s : State) (t : Tray) : (s.setTray t).portUp = s.portUp := rfl
@[simp] theorem State.setTray_boot (s : State) (t : Tray) : (s.setTray t).boot = s.boot := rfl
@[simp] theorem State.setTray_active (s : State) (t : Tray) : (s.setTray t).active = s.active := rfl
@[simp] theorem State.setTray_retaining (s : State) (t : Tray) : (s.setTray t).retaining = s.retaining := rfl
@[simp] theorem State.setTray_waking (s : State) (t : Tray) : (s.setTray t).waking = s.waking := rfl
@[simp] theorem State.setTray_links (s : State) (t : Tray) : (s.setTray t).links = s.links := rfl
@[simp] theorem State.setTray_delivered (s : State) (t : Tray) : (s.setTray t).delivered = s.delivered := rfl
@[simp] theorem State.setTray_taken (s : State) (t : Tray) : (s.setTray t).taken = s.taken := rfl
@[simp] theorem State.setTray_chunks (s : State) (t : Tray) : (s.setTray t).chunks = s.chunks := rfl
@[simp] theorem State.setTray_reserved (s : State) (t : Tray) : (s.setTray t).reserved = s.reserved := rfl
@[simp] theorem State.setTray_dirty (s : State) (t : Tray) : (s.setTray t).dirty = s.dirty := rfl
@[simp] theorem State.setTray_frames (s : State) (t : Tray) : (s.setTray t).frames = s.frames := rfl
@[simp] theorem State.setTray_runs (s : State) (t : Tray) : (s.setTray t).runs = s.runs := rfl
@[simp] theorem State.setTray_roomWaits (s : State) (t : Tray) : (s.setTray t).roomWaits = s.roomWaits := rfl
@[simp] theorem State.setTray_migs (s : State) (t : Tray) : (s.setTray t).migs = s.migs := rfl
@[simp] theorem State.setTray_freeFst (s : State) (t : Tray) : (s.setTray t).freeFst = s.freeFst := rfl
@[simp] theorem State.setTray_freeSnd (s : State) (t : Tray) : (s.setTray t).freeSnd = s.freeSnd := rfl
@[simp] theorem State.setTray_passes (s : State) (t : Tray) : (s.setTray t).passes = s.passes := rfl
@[simp] theorem State.setTray_retires (s : State) (t : Tray) : (s.setTray t).retires = s.retires := rfl
@[simp] theorem State.setTray_hostLines (s : State) (t : Tray) : (s.setTray t).hostLines = s.hostLines := rfl
@[simp] theorem State.setTray_safeTier (s : State) (t : Tray) : (s.setTray t).safeTier = s.safeTier := rfl
@[simp] theorem State.setTray_inReset (s : State) (t : Tray) : (s.setTray t).inReset = s.inReset := rfl
@[simp] theorem State.setTray_sampleCnt (s : State) (t : Tray) : (s.setTray t).sampleCnt = s.sampleCnt := rfl
@[simp] theorem State.setTray_lines (s : State) (t : Tray) : (s.setTray t).lines = s.lines := rfl
@[simp] theorem State.setTray_requests (s : State) (t : Tray) : (s.setTray t).requests = s.requests := rfl
@[simp] theorem State.setTray_arriving (s : State) (t : Tray) : (s.setTray t).arriving = s.arriving := rfl
@[simp] theorem State.setTray_signals (s : State) (t : Tray) : (s.setTray t).signals = s.signals := rfl
@[simp] theorem State.setTray_sent (s : State) (t : Tray) : (s.setTray t).sent = s.sent := rfl
@[simp] theorem State.setTray_pipeAt (s : State) (t : Tray) : (s.setTray t).pipeAt = s.pipeAt := rfl
@[simp] theorem State.setTray_syncAt (s : State) (t : Tray) : (s.setTray t).syncAt = s.syncAt := rfl
@[simp] theorem State.setTray_ptp (s : State) (t : Tray) : (s.setTray t).ptp = s.ptp := rfl
@[simp] theorem State.setTray_hostRead (s : State) (t : Tray) : (s.setTray t).hostRead = s.hostRead := rfl
@[simp] theorem State.setTray_hostReads (s : State) (t : Tray) : (s.setTray t).hostReads = s.hostReads := rfl
@[simp] theorem State.setTray_atomOld (s : State) (t : Tray) : (s.setTray t).atomOld = s.atomOld := rfl

/-! modTray -/

@[simp] theorem State.modTray_inputs (s : State) (l i : Nat) (f : Tray → Tray) : (s.modTray l i f).inputs = s.inputs := rfl
@[simp] theorem State.modTray_turn (s : State) (l i : Nat) (f : Tray → Tray) : (s.modTray l i f).turn = s.turn := rfl
@[simp] theorem State.modTray_paceC (s : State) (l i : Nat) (f : Tray → Tray) : (s.modTray l i f).paceC = s.paceC := rfl
@[simp] theorem State.modTray_paceNs (s : State) (l i : Nat) (f : Tray → Tray) : (s.modTray l i f).paceNs = s.paceNs := rfl
@[simp] theorem State.modTray_free (s : State) (l i : Nat) (f : Tray → Tray) : (s.modTray l i f).free = s.free := rfl
@[simp] theorem State.modTray_cycle (s : State) (l i : Nat) (f : Tray → Tray) : (s.modTray l i f).cycle = s.cycle := rfl
@[simp] theorem State.modTray_now (s : State) (l i : Nat) (f : Tray → Tray) : (s.modTray l i f).now = s.now := rfl
@[simp] theorem State.modTray_offsets (s : State) (l i : Nat) (f : Tray → Tray) : (s.modTray l i f).offsets = s.offsets := rfl
@[simp] theorem State.modTray_mem (s : State) (l i : Nat) (f : Tray → Tray) : (s.modTray l i f).mem = s.mem := rfl
@[simp] theorem State.modTray_vers (s : State) (l i : Nat) (f : Tray → Tray) : (s.modTray l i f).vers = s.vers := rfl
@[simp] theorem State.modTray_rels (s : State) (l i : Nat) (f : Tray → Tray) : (s.modTray l i f).rels = s.rels := rfl
@[simp] theorem State.modTray_ords (s : State) (l i : Nat) (f : Tray → Tray) : (s.modTray l i f).ords = s.ords := rfl
@[simp] theorem State.modTray_regd (s : State) (l i : Nat) (f : Tray → Tray) : (s.modTray l i f).regd = s.regd := rfl
@[simp] theorem State.modTray_unregd (s : State) (l i : Nat) (f : Tray → Tray) : (s.modTray l i f).unregd = s.unregd := rfl
@[simp] theorem State.modTray_cached (s : State) (l i : Nat) (f : Tray → Tray) : (s.modTray l i f).cached = s.cached := rfl
@[simp] theorem State.modTray_ctxs (s : State) (l i : Nat) (f : Tray → Tray) : (s.modTray l i f).ctxs = s.ctxs := rfl
@[simp] theorem State.modTray_keys (s : State) (l i : Nat) (f : Tray → Tray) : (s.modTray l i f).keys = s.keys := rfl
@[simp] theorem State.modTray_kemKey (s : State) (l i : Nat) (f : Tray → Tray) : (s.modTray l i f).kemKey = s.kemKey := rfl
@[simp] theorem State.modTray_kemIvs (s : State) (l i : Nat) (f : Tray → Tray) : (s.modTray l i f).kemIvs = s.kemIvs := rfl
@[simp] theorem State.modTray_launches (s : State) (l i : Nat) (f : Tray → Tray) : (s.modTray l i f).launches = s.launches := rfl
@[simp] theorem State.modTray_gathers (s : State) (l i : Nat) (f : Tray → Tray) : (s.modTray l i f).gathers = s.gathers := rfl
@[simp] theorem State.modTray_handlers (s : State) (l i : Nat) (f : Tray → Tray) : (s.modTray l i f).handlers = s.handlers := rfl
@[simp] theorem State.modTray_nextId (s : State) (l i : Nat) (f : Tray → Tray) : (s.modTray l i f).nextId = s.nextId := rfl
@[simp] theorem State.modTray_slide (s : State) (l i : Nat) (f : Tray → Tray) : (s.modTray l i f).slide = s.slide := rfl
@[simp] theorem State.modTray_colls (s : State) (l i : Nat) (f : Tray → Tray) : (s.modTray l i f).colls = s.colls := rfl
@[simp] theorem State.modTray_farColls (s : State) (l i : Nat) (f : Tray → Tray) : (s.modTray l i f).farColls = s.farColls := rfl
@[simp] theorem State.modTray_regs (s : State) (l i : Nat) (f : Tray → Tray) : (s.modTray l i f).regs = s.regs := rfl
@[simp] theorem State.modTray_portUp (s : State) (l i : Nat) (f : Tray → Tray) : (s.modTray l i f).portUp = s.portUp := rfl
@[simp] theorem State.modTray_boot (s : State) (l i : Nat) (f : Tray → Tray) : (s.modTray l i f).boot = s.boot := rfl
@[simp] theorem State.modTray_active (s : State) (l i : Nat) (f : Tray → Tray) : (s.modTray l i f).active = s.active := rfl
@[simp] theorem State.modTray_retaining (s : State) (l i : Nat) (f : Tray → Tray) : (s.modTray l i f).retaining = s.retaining := rfl
@[simp] theorem State.modTray_waking (s : State) (l i : Nat) (f : Tray → Tray) : (s.modTray l i f).waking = s.waking := rfl
@[simp] theorem State.modTray_links (s : State) (l i : Nat) (f : Tray → Tray) : (s.modTray l i f).links = s.links := rfl
@[simp] theorem State.modTray_delivered (s : State) (l i : Nat) (f : Tray → Tray) : (s.modTray l i f).delivered = s.delivered := rfl
@[simp] theorem State.modTray_taken (s : State) (l i : Nat) (f : Tray → Tray) : (s.modTray l i f).taken = s.taken := rfl
@[simp] theorem State.modTray_chunks (s : State) (l i : Nat) (f : Tray → Tray) : (s.modTray l i f).chunks = s.chunks := rfl
@[simp] theorem State.modTray_reserved (s : State) (l i : Nat) (f : Tray → Tray) : (s.modTray l i f).reserved = s.reserved := rfl
@[simp] theorem State.modTray_dirty (s : State) (l i : Nat) (f : Tray → Tray) : (s.modTray l i f).dirty = s.dirty := rfl
@[simp] theorem State.modTray_frames (s : State) (l i : Nat) (f : Tray → Tray) : (s.modTray l i f).frames = s.frames := rfl
@[simp] theorem State.modTray_runs (s : State) (l i : Nat) (f : Tray → Tray) : (s.modTray l i f).runs = s.runs := rfl
@[simp] theorem State.modTray_roomWaits (s : State) (l i : Nat) (f : Tray → Tray) : (s.modTray l i f).roomWaits = s.roomWaits := rfl
@[simp] theorem State.modTray_migs (s : State) (l i : Nat) (f : Tray → Tray) : (s.modTray l i f).migs = s.migs := rfl
@[simp] theorem State.modTray_freeFst (s : State) (l i : Nat) (f : Tray → Tray) : (s.modTray l i f).freeFst = s.freeFst := rfl
@[simp] theorem State.modTray_freeSnd (s : State) (l i : Nat) (f : Tray → Tray) : (s.modTray l i f).freeSnd = s.freeSnd := rfl
@[simp] theorem State.modTray_passes (s : State) (l i : Nat) (f : Tray → Tray) : (s.modTray l i f).passes = s.passes := rfl
@[simp] theorem State.modTray_retires (s : State) (l i : Nat) (f : Tray → Tray) : (s.modTray l i f).retires = s.retires := rfl
@[simp] theorem State.modTray_hostLines (s : State) (l i : Nat) (f : Tray → Tray) : (s.modTray l i f).hostLines = s.hostLines := rfl
@[simp] theorem State.modTray_safeTier (s : State) (l i : Nat) (f : Tray → Tray) : (s.modTray l i f).safeTier = s.safeTier := rfl
@[simp] theorem State.modTray_inReset (s : State) (l i : Nat) (f : Tray → Tray) : (s.modTray l i f).inReset = s.inReset := rfl
@[simp] theorem State.modTray_sampleCnt (s : State) (l i : Nat) (f : Tray → Tray) : (s.modTray l i f).sampleCnt = s.sampleCnt := rfl
@[simp] theorem State.modTray_lines (s : State) (l i : Nat) (f : Tray → Tray) : (s.modTray l i f).lines = s.lines := rfl
@[simp] theorem State.modTray_requests (s : State) (l i : Nat) (f : Tray → Tray) : (s.modTray l i f).requests = s.requests := rfl
@[simp] theorem State.modTray_arriving (s : State) (l i : Nat) (f : Tray → Tray) : (s.modTray l i f).arriving = s.arriving := rfl
@[simp] theorem State.modTray_signals (s : State) (l i : Nat) (f : Tray → Tray) : (s.modTray l i f).signals = s.signals := rfl
@[simp] theorem State.modTray_sent (s : State) (l i : Nat) (f : Tray → Tray) : (s.modTray l i f).sent = s.sent := rfl
@[simp] theorem State.modTray_pipeAt (s : State) (l i : Nat) (f : Tray → Tray) : (s.modTray l i f).pipeAt = s.pipeAt := rfl
@[simp] theorem State.modTray_syncAt (s : State) (l i : Nat) (f : Tray → Tray) : (s.modTray l i f).syncAt = s.syncAt := rfl
@[simp] theorem State.modTray_ptp (s : State) (l i : Nat) (f : Tray → Tray) : (s.modTray l i f).ptp = s.ptp := rfl
@[simp] theorem State.modTray_hostRead (s : State) (l i : Nat) (f : Tray → Tray) : (s.modTray l i f).hostRead = s.hostRead := rfl
@[simp] theorem State.modTray_hostReads (s : State) (l i : Nat) (f : Tray → Tray) : (s.modTray l i f).hostReads = s.hostReads := rfl
@[simp] theorem State.modTray_atomOld (s : State) (l i : Nat) (f : Tray → Tray) : (s.modTray l i f).atomOld = s.atomOld := rfl

/-! setHandler -/

@[simp] theorem State.setHandler_inputs (s : State) (h : Handler) : (s.setHandler h).inputs = s.inputs := rfl
@[simp] theorem State.setHandler_turn (s : State) (h : Handler) : (s.setHandler h).turn = s.turn := rfl
@[simp] theorem State.setHandler_paceC (s : State) (h : Handler) : (s.setHandler h).paceC = s.paceC := rfl
@[simp] theorem State.setHandler_paceNs (s : State) (h : Handler) : (s.setHandler h).paceNs = s.paceNs := rfl
@[simp] theorem State.setHandler_free (s : State) (h : Handler) : (s.setHandler h).free = s.free := rfl
@[simp] theorem State.setHandler_cycle (s : State) (h : Handler) : (s.setHandler h).cycle = s.cycle := rfl
@[simp] theorem State.setHandler_now (s : State) (h : Handler) : (s.setHandler h).now = s.now := rfl
@[simp] theorem State.setHandler_offsets (s : State) (h : Handler) : (s.setHandler h).offsets = s.offsets := rfl
@[simp] theorem State.setHandler_mem (s : State) (h : Handler) : (s.setHandler h).mem = s.mem := rfl
@[simp] theorem State.setHandler_vers (s : State) (h : Handler) : (s.setHandler h).vers = s.vers := rfl
@[simp] theorem State.setHandler_rels (s : State) (h : Handler) : (s.setHandler h).rels = s.rels := rfl
@[simp] theorem State.setHandler_ords (s : State) (h : Handler) : (s.setHandler h).ords = s.ords := rfl
@[simp] theorem State.setHandler_regd (s : State) (h : Handler) : (s.setHandler h).regd = s.regd := rfl
@[simp] theorem State.setHandler_unregd (s : State) (h : Handler) : (s.setHandler h).unregd = s.unregd := rfl
@[simp] theorem State.setHandler_cached (s : State) (h : Handler) : (s.setHandler h).cached = s.cached := rfl
@[simp] theorem State.setHandler_ctxs (s : State) (h : Handler) : (s.setHandler h).ctxs = s.ctxs := rfl
@[simp] theorem State.setHandler_keys (s : State) (h : Handler) : (s.setHandler h).keys = s.keys := rfl
@[simp] theorem State.setHandler_kemKey (s : State) (h : Handler) : (s.setHandler h).kemKey = s.kemKey := rfl
@[simp] theorem State.setHandler_kemIvs (s : State) (h : Handler) : (s.setHandler h).kemIvs = s.kemIvs := rfl
@[simp] theorem State.setHandler_launches (s : State) (h : Handler) : (s.setHandler h).launches = s.launches := rfl
@[simp] theorem State.setHandler_trays (s : State) (h : Handler) : (s.setHandler h).trays = s.trays := rfl
@[simp] theorem State.setHandler_gathers (s : State) (h : Handler) : (s.setHandler h).gathers = s.gathers := rfl
@[simp] theorem State.setHandler_nextId (s : State) (h : Handler) : (s.setHandler h).nextId = s.nextId := rfl
@[simp] theorem State.setHandler_slide (s : State) (h : Handler) : (s.setHandler h).slide = s.slide := rfl
@[simp] theorem State.setHandler_colls (s : State) (h : Handler) : (s.setHandler h).colls = s.colls := rfl
@[simp] theorem State.setHandler_farColls (s : State) (h : Handler) : (s.setHandler h).farColls = s.farColls := rfl
@[simp] theorem State.setHandler_regs (s : State) (h : Handler) : (s.setHandler h).regs = s.regs := rfl
@[simp] theorem State.setHandler_portUp (s : State) (h : Handler) : (s.setHandler h).portUp = s.portUp := rfl
@[simp] theorem State.setHandler_boot (s : State) (h : Handler) : (s.setHandler h).boot = s.boot := rfl
@[simp] theorem State.setHandler_active (s : State) (h : Handler) : (s.setHandler h).active = s.active := rfl
@[simp] theorem State.setHandler_retaining (s : State) (h : Handler) : (s.setHandler h).retaining = s.retaining := rfl
@[simp] theorem State.setHandler_waking (s : State) (h : Handler) : (s.setHandler h).waking = s.waking := rfl
@[simp] theorem State.setHandler_links (s : State) (h : Handler) : (s.setHandler h).links = s.links := rfl
@[simp] theorem State.setHandler_delivered (s : State) (h : Handler) : (s.setHandler h).delivered = s.delivered := rfl
@[simp] theorem State.setHandler_taken (s : State) (h : Handler) : (s.setHandler h).taken = s.taken := rfl
@[simp] theorem State.setHandler_chunks (s : State) (h : Handler) : (s.setHandler h).chunks = s.chunks := rfl
@[simp] theorem State.setHandler_reserved (s : State) (h : Handler) : (s.setHandler h).reserved = s.reserved := rfl
@[simp] theorem State.setHandler_dirty (s : State) (h : Handler) : (s.setHandler h).dirty = s.dirty := rfl
@[simp] theorem State.setHandler_frames (s : State) (h : Handler) : (s.setHandler h).frames = s.frames := rfl
@[simp] theorem State.setHandler_runs (s : State) (h : Handler) : (s.setHandler h).runs = s.runs := rfl
@[simp] theorem State.setHandler_roomWaits (s : State) (h : Handler) : (s.setHandler h).roomWaits = s.roomWaits := rfl
@[simp] theorem State.setHandler_migs (s : State) (h : Handler) : (s.setHandler h).migs = s.migs := rfl
@[simp] theorem State.setHandler_freeFst (s : State) (h : Handler) : (s.setHandler h).freeFst = s.freeFst := rfl
@[simp] theorem State.setHandler_freeSnd (s : State) (h : Handler) : (s.setHandler h).freeSnd = s.freeSnd := rfl
@[simp] theorem State.setHandler_passes (s : State) (h : Handler) : (s.setHandler h).passes = s.passes := rfl
@[simp] theorem State.setHandler_retires (s : State) (h : Handler) : (s.setHandler h).retires = s.retires := rfl
@[simp] theorem State.setHandler_hostLines (s : State) (h : Handler) : (s.setHandler h).hostLines = s.hostLines := rfl
@[simp] theorem State.setHandler_safeTier (s : State) (h : Handler) : (s.setHandler h).safeTier = s.safeTier := rfl
@[simp] theorem State.setHandler_inReset (s : State) (h : Handler) : (s.setHandler h).inReset = s.inReset := rfl
@[simp] theorem State.setHandler_sampleCnt (s : State) (h : Handler) : (s.setHandler h).sampleCnt = s.sampleCnt := rfl
@[simp] theorem State.setHandler_lines (s : State) (h : Handler) : (s.setHandler h).lines = s.lines := rfl
@[simp] theorem State.setHandler_requests (s : State) (h : Handler) : (s.setHandler h).requests = s.requests := rfl
@[simp] theorem State.setHandler_arriving (s : State) (h : Handler) : (s.setHandler h).arriving = s.arriving := rfl
@[simp] theorem State.setHandler_signals (s : State) (h : Handler) : (s.setHandler h).signals = s.signals := rfl
@[simp] theorem State.setHandler_sent (s : State) (h : Handler) : (s.setHandler h).sent = s.sent := rfl
@[simp] theorem State.setHandler_pipeAt (s : State) (h : Handler) : (s.setHandler h).pipeAt = s.pipeAt := rfl
@[simp] theorem State.setHandler_syncAt (s : State) (h : Handler) : (s.setHandler h).syncAt = s.syncAt := rfl
@[simp] theorem State.setHandler_ptp (s : State) (h : Handler) : (s.setHandler h).ptp = s.ptp := rfl
@[simp] theorem State.setHandler_hostRead (s : State) (h : Handler) : (s.setHandler h).hostRead = s.hostRead := rfl
@[simp] theorem State.setHandler_hostReads (s : State) (h : Handler) : (s.setHandler h).hostReads = s.hostReads := rfl
@[simp] theorem State.setHandler_atomOld (s : State) (h : Handler) : (s.setHandler h).atomOld = s.atomOld := rfl

/-! setLaunch -/

@[simp] theorem State.setLaunch_inputs (s : State) (l : Launch) : (s.setLaunch l).inputs = s.inputs := rfl
@[simp] theorem State.setLaunch_turn (s : State) (l : Launch) : (s.setLaunch l).turn = s.turn := rfl
@[simp] theorem State.setLaunch_paceC (s : State) (l : Launch) : (s.setLaunch l).paceC = s.paceC := rfl
@[simp] theorem State.setLaunch_paceNs (s : State) (l : Launch) : (s.setLaunch l).paceNs = s.paceNs := rfl
@[simp] theorem State.setLaunch_free (s : State) (l : Launch) : (s.setLaunch l).free = s.free := rfl
@[simp] theorem State.setLaunch_cycle (s : State) (l : Launch) : (s.setLaunch l).cycle = s.cycle := rfl
@[simp] theorem State.setLaunch_now (s : State) (l : Launch) : (s.setLaunch l).now = s.now := rfl
@[simp] theorem State.setLaunch_offsets (s : State) (l : Launch) : (s.setLaunch l).offsets = s.offsets := rfl
@[simp] theorem State.setLaunch_mem (s : State) (l : Launch) : (s.setLaunch l).mem = s.mem := rfl
@[simp] theorem State.setLaunch_vers (s : State) (l : Launch) : (s.setLaunch l).vers = s.vers := rfl
@[simp] theorem State.setLaunch_rels (s : State) (l : Launch) : (s.setLaunch l).rels = s.rels := rfl
@[simp] theorem State.setLaunch_ords (s : State) (l : Launch) : (s.setLaunch l).ords = s.ords := rfl
@[simp] theorem State.setLaunch_regd (s : State) (l : Launch) : (s.setLaunch l).regd = s.regd := rfl
@[simp] theorem State.setLaunch_unregd (s : State) (l : Launch) : (s.setLaunch l).unregd = s.unregd := rfl
@[simp] theorem State.setLaunch_cached (s : State) (l : Launch) : (s.setLaunch l).cached = s.cached := rfl
@[simp] theorem State.setLaunch_ctxs (s : State) (l : Launch) : (s.setLaunch l).ctxs = s.ctxs := rfl
@[simp] theorem State.setLaunch_keys (s : State) (l : Launch) : (s.setLaunch l).keys = s.keys := rfl
@[simp] theorem State.setLaunch_kemKey (s : State) (l : Launch) : (s.setLaunch l).kemKey = s.kemKey := rfl
@[simp] theorem State.setLaunch_kemIvs (s : State) (l : Launch) : (s.setLaunch l).kemIvs = s.kemIvs := rfl
@[simp] theorem State.setLaunch_trays (s : State) (l : Launch) : (s.setLaunch l).trays = s.trays := rfl
@[simp] theorem State.setLaunch_gathers (s : State) (l : Launch) : (s.setLaunch l).gathers = s.gathers := rfl
@[simp] theorem State.setLaunch_handlers (s : State) (l : Launch) : (s.setLaunch l).handlers = s.handlers := rfl
@[simp] theorem State.setLaunch_nextId (s : State) (l : Launch) : (s.setLaunch l).nextId = s.nextId := rfl
@[simp] theorem State.setLaunch_slide (s : State) (l : Launch) : (s.setLaunch l).slide = s.slide := rfl
@[simp] theorem State.setLaunch_colls (s : State) (l : Launch) : (s.setLaunch l).colls = s.colls := rfl
@[simp] theorem State.setLaunch_farColls (s : State) (l : Launch) : (s.setLaunch l).farColls = s.farColls := rfl
@[simp] theorem State.setLaunch_regs (s : State) (l : Launch) : (s.setLaunch l).regs = s.regs := rfl
@[simp] theorem State.setLaunch_portUp (s : State) (l : Launch) : (s.setLaunch l).portUp = s.portUp := rfl
@[simp] theorem State.setLaunch_boot (s : State) (l : Launch) : (s.setLaunch l).boot = s.boot := rfl
@[simp] theorem State.setLaunch_active (s : State) (l : Launch) : (s.setLaunch l).active = s.active := rfl
@[simp] theorem State.setLaunch_retaining (s : State) (l : Launch) : (s.setLaunch l).retaining = s.retaining := rfl
@[simp] theorem State.setLaunch_waking (s : State) (l : Launch) : (s.setLaunch l).waking = s.waking := rfl
@[simp] theorem State.setLaunch_links (s : State) (l : Launch) : (s.setLaunch l).links = s.links := rfl
@[simp] theorem State.setLaunch_delivered (s : State) (l : Launch) : (s.setLaunch l).delivered = s.delivered := rfl
@[simp] theorem State.setLaunch_taken (s : State) (l : Launch) : (s.setLaunch l).taken = s.taken := rfl
@[simp] theorem State.setLaunch_chunks (s : State) (l : Launch) : (s.setLaunch l).chunks = s.chunks := rfl
@[simp] theorem State.setLaunch_reserved (s : State) (l : Launch) : (s.setLaunch l).reserved = s.reserved := rfl
@[simp] theorem State.setLaunch_dirty (s : State) (l : Launch) : (s.setLaunch l).dirty = s.dirty := rfl
@[simp] theorem State.setLaunch_frames (s : State) (l : Launch) : (s.setLaunch l).frames = s.frames := rfl
@[simp] theorem State.setLaunch_runs (s : State) (l : Launch) : (s.setLaunch l).runs = s.runs := rfl
@[simp] theorem State.setLaunch_roomWaits (s : State) (l : Launch) : (s.setLaunch l).roomWaits = s.roomWaits := rfl
@[simp] theorem State.setLaunch_migs (s : State) (l : Launch) : (s.setLaunch l).migs = s.migs := rfl
@[simp] theorem State.setLaunch_freeFst (s : State) (l : Launch) : (s.setLaunch l).freeFst = s.freeFst := rfl
@[simp] theorem State.setLaunch_freeSnd (s : State) (l : Launch) : (s.setLaunch l).freeSnd = s.freeSnd := rfl
@[simp] theorem State.setLaunch_passes (s : State) (l : Launch) : (s.setLaunch l).passes = s.passes := rfl
@[simp] theorem State.setLaunch_retires (s : State) (l : Launch) : (s.setLaunch l).retires = s.retires := rfl
@[simp] theorem State.setLaunch_hostLines (s : State) (l : Launch) : (s.setLaunch l).hostLines = s.hostLines := rfl
@[simp] theorem State.setLaunch_safeTier (s : State) (l : Launch) : (s.setLaunch l).safeTier = s.safeTier := rfl
@[simp] theorem State.setLaunch_inReset (s : State) (l : Launch) : (s.setLaunch l).inReset = s.inReset := rfl
@[simp] theorem State.setLaunch_sampleCnt (s : State) (l : Launch) : (s.setLaunch l).sampleCnt = s.sampleCnt := rfl
@[simp] theorem State.setLaunch_lines (s : State) (l : Launch) : (s.setLaunch l).lines = s.lines := rfl
@[simp] theorem State.setLaunch_requests (s : State) (l : Launch) : (s.setLaunch l).requests = s.requests := rfl
@[simp] theorem State.setLaunch_arriving (s : State) (l : Launch) : (s.setLaunch l).arriving = s.arriving := rfl
@[simp] theorem State.setLaunch_signals (s : State) (l : Launch) : (s.setLaunch l).signals = s.signals := rfl
@[simp] theorem State.setLaunch_sent (s : State) (l : Launch) : (s.setLaunch l).sent = s.sent := rfl
@[simp] theorem State.setLaunch_pipeAt (s : State) (l : Launch) : (s.setLaunch l).pipeAt = s.pipeAt := rfl
@[simp] theorem State.setLaunch_syncAt (s : State) (l : Launch) : (s.setLaunch l).syncAt = s.syncAt := rfl
@[simp] theorem State.setLaunch_ptp (s : State) (l : Launch) : (s.setLaunch l).ptp = s.ptp := rfl
@[simp] theorem State.setLaunch_hostRead (s : State) (l : Launch) : (s.setLaunch l).hostRead = s.hostRead := rfl
@[simp] theorem State.setLaunch_hostReads (s : State) (l : Launch) : (s.setLaunch l).hostReads = s.hostReads := rfl
@[simp] theorem State.setLaunch_atomOld (s : State) (l : Launch) : (s.setLaunch l).atomOld = s.atomOld := rfl

/-! modLaunch -/

@[simp] theorem State.modLaunch_inputs (s : State) (l : Nat) (f : Launch → Launch) : (s.modLaunch l f).inputs = s.inputs := rfl
@[simp] theorem State.modLaunch_turn (s : State) (l : Nat) (f : Launch → Launch) : (s.modLaunch l f).turn = s.turn := rfl
@[simp] theorem State.modLaunch_paceC (s : State) (l : Nat) (f : Launch → Launch) : (s.modLaunch l f).paceC = s.paceC := rfl
@[simp] theorem State.modLaunch_paceNs (s : State) (l : Nat) (f : Launch → Launch) : (s.modLaunch l f).paceNs = s.paceNs := rfl
@[simp] theorem State.modLaunch_free (s : State) (l : Nat) (f : Launch → Launch) : (s.modLaunch l f).free = s.free := rfl
@[simp] theorem State.modLaunch_cycle (s : State) (l : Nat) (f : Launch → Launch) : (s.modLaunch l f).cycle = s.cycle := rfl
@[simp] theorem State.modLaunch_now (s : State) (l : Nat) (f : Launch → Launch) : (s.modLaunch l f).now = s.now := rfl
@[simp] theorem State.modLaunch_offsets (s : State) (l : Nat) (f : Launch → Launch) : (s.modLaunch l f).offsets = s.offsets := rfl
@[simp] theorem State.modLaunch_mem (s : State) (l : Nat) (f : Launch → Launch) : (s.modLaunch l f).mem = s.mem := rfl
@[simp] theorem State.modLaunch_vers (s : State) (l : Nat) (f : Launch → Launch) : (s.modLaunch l f).vers = s.vers := rfl
@[simp] theorem State.modLaunch_rels (s : State) (l : Nat) (f : Launch → Launch) : (s.modLaunch l f).rels = s.rels := rfl
@[simp] theorem State.modLaunch_ords (s : State) (l : Nat) (f : Launch → Launch) : (s.modLaunch l f).ords = s.ords := rfl
@[simp] theorem State.modLaunch_regd (s : State) (l : Nat) (f : Launch → Launch) : (s.modLaunch l f).regd = s.regd := rfl
@[simp] theorem State.modLaunch_unregd (s : State) (l : Nat) (f : Launch → Launch) : (s.modLaunch l f).unregd = s.unregd := rfl
@[simp] theorem State.modLaunch_cached (s : State) (l : Nat) (f : Launch → Launch) : (s.modLaunch l f).cached = s.cached := rfl
@[simp] theorem State.modLaunch_ctxs (s : State) (l : Nat) (f : Launch → Launch) : (s.modLaunch l f).ctxs = s.ctxs := rfl
@[simp] theorem State.modLaunch_keys (s : State) (l : Nat) (f : Launch → Launch) : (s.modLaunch l f).keys = s.keys := rfl
@[simp] theorem State.modLaunch_kemKey (s : State) (l : Nat) (f : Launch → Launch) : (s.modLaunch l f).kemKey = s.kemKey := rfl
@[simp] theorem State.modLaunch_kemIvs (s : State) (l : Nat) (f : Launch → Launch) : (s.modLaunch l f).kemIvs = s.kemIvs := rfl
@[simp] theorem State.modLaunch_trays (s : State) (l : Nat) (f : Launch → Launch) : (s.modLaunch l f).trays = s.trays := rfl
@[simp] theorem State.modLaunch_gathers (s : State) (l : Nat) (f : Launch → Launch) : (s.modLaunch l f).gathers = s.gathers := rfl
@[simp] theorem State.modLaunch_handlers (s : State) (l : Nat) (f : Launch → Launch) : (s.modLaunch l f).handlers = s.handlers := rfl
@[simp] theorem State.modLaunch_nextId (s : State) (l : Nat) (f : Launch → Launch) : (s.modLaunch l f).nextId = s.nextId := rfl
@[simp] theorem State.modLaunch_slide (s : State) (l : Nat) (f : Launch → Launch) : (s.modLaunch l f).slide = s.slide := rfl
@[simp] theorem State.modLaunch_colls (s : State) (l : Nat) (f : Launch → Launch) : (s.modLaunch l f).colls = s.colls := rfl
@[simp] theorem State.modLaunch_farColls (s : State) (l : Nat) (f : Launch → Launch) : (s.modLaunch l f).farColls = s.farColls := rfl
@[simp] theorem State.modLaunch_regs (s : State) (l : Nat) (f : Launch → Launch) : (s.modLaunch l f).regs = s.regs := rfl
@[simp] theorem State.modLaunch_portUp (s : State) (l : Nat) (f : Launch → Launch) : (s.modLaunch l f).portUp = s.portUp := rfl
@[simp] theorem State.modLaunch_boot (s : State) (l : Nat) (f : Launch → Launch) : (s.modLaunch l f).boot = s.boot := rfl
@[simp] theorem State.modLaunch_active (s : State) (l : Nat) (f : Launch → Launch) : (s.modLaunch l f).active = s.active := rfl
@[simp] theorem State.modLaunch_retaining (s : State) (l : Nat) (f : Launch → Launch) : (s.modLaunch l f).retaining = s.retaining := rfl
@[simp] theorem State.modLaunch_waking (s : State) (l : Nat) (f : Launch → Launch) : (s.modLaunch l f).waking = s.waking := rfl
@[simp] theorem State.modLaunch_links (s : State) (l : Nat) (f : Launch → Launch) : (s.modLaunch l f).links = s.links := rfl
@[simp] theorem State.modLaunch_delivered (s : State) (l : Nat) (f : Launch → Launch) : (s.modLaunch l f).delivered = s.delivered := rfl
@[simp] theorem State.modLaunch_taken (s : State) (l : Nat) (f : Launch → Launch) : (s.modLaunch l f).taken = s.taken := rfl
@[simp] theorem State.modLaunch_chunks (s : State) (l : Nat) (f : Launch → Launch) : (s.modLaunch l f).chunks = s.chunks := rfl
@[simp] theorem State.modLaunch_reserved (s : State) (l : Nat) (f : Launch → Launch) : (s.modLaunch l f).reserved = s.reserved := rfl
@[simp] theorem State.modLaunch_dirty (s : State) (l : Nat) (f : Launch → Launch) : (s.modLaunch l f).dirty = s.dirty := rfl
@[simp] theorem State.modLaunch_frames (s : State) (l : Nat) (f : Launch → Launch) : (s.modLaunch l f).frames = s.frames := rfl
@[simp] theorem State.modLaunch_runs (s : State) (l : Nat) (f : Launch → Launch) : (s.modLaunch l f).runs = s.runs := rfl
@[simp] theorem State.modLaunch_roomWaits (s : State) (l : Nat) (f : Launch → Launch) : (s.modLaunch l f).roomWaits = s.roomWaits := rfl
@[simp] theorem State.modLaunch_migs (s : State) (l : Nat) (f : Launch → Launch) : (s.modLaunch l f).migs = s.migs := rfl
@[simp] theorem State.modLaunch_freeFst (s : State) (l : Nat) (f : Launch → Launch) : (s.modLaunch l f).freeFst = s.freeFst := rfl
@[simp] theorem State.modLaunch_freeSnd (s : State) (l : Nat) (f : Launch → Launch) : (s.modLaunch l f).freeSnd = s.freeSnd := rfl
@[simp] theorem State.modLaunch_passes (s : State) (l : Nat) (f : Launch → Launch) : (s.modLaunch l f).passes = s.passes := rfl
@[simp] theorem State.modLaunch_retires (s : State) (l : Nat) (f : Launch → Launch) : (s.modLaunch l f).retires = s.retires := rfl
@[simp] theorem State.modLaunch_hostLines (s : State) (l : Nat) (f : Launch → Launch) : (s.modLaunch l f).hostLines = s.hostLines := rfl
@[simp] theorem State.modLaunch_safeTier (s : State) (l : Nat) (f : Launch → Launch) : (s.modLaunch l f).safeTier = s.safeTier := rfl
@[simp] theorem State.modLaunch_inReset (s : State) (l : Nat) (f : Launch → Launch) : (s.modLaunch l f).inReset = s.inReset := rfl
@[simp] theorem State.modLaunch_sampleCnt (s : State) (l : Nat) (f : Launch → Launch) : (s.modLaunch l f).sampleCnt = s.sampleCnt := rfl
@[simp] theorem State.modLaunch_lines (s : State) (l : Nat) (f : Launch → Launch) : (s.modLaunch l f).lines = s.lines := rfl
@[simp] theorem State.modLaunch_requests (s : State) (l : Nat) (f : Launch → Launch) : (s.modLaunch l f).requests = s.requests := rfl
@[simp] theorem State.modLaunch_arriving (s : State) (l : Nat) (f : Launch → Launch) : (s.modLaunch l f).arriving = s.arriving := rfl
@[simp] theorem State.modLaunch_signals (s : State) (l : Nat) (f : Launch → Launch) : (s.modLaunch l f).signals = s.signals := rfl
@[simp] theorem State.modLaunch_sent (s : State) (l : Nat) (f : Launch → Launch) : (s.modLaunch l f).sent = s.sent := rfl
@[simp] theorem State.modLaunch_pipeAt (s : State) (l : Nat) (f : Launch → Launch) : (s.modLaunch l f).pipeAt = s.pipeAt := rfl
@[simp] theorem State.modLaunch_syncAt (s : State) (l : Nat) (f : Launch → Launch) : (s.modLaunch l f).syncAt = s.syncAt := rfl
@[simp] theorem State.modLaunch_ptp (s : State) (l : Nat) (f : Launch → Launch) : (s.modLaunch l f).ptp = s.ptp := rfl
@[simp] theorem State.modLaunch_hostRead (s : State) (l : Nat) (f : Launch → Launch) : (s.modLaunch l f).hostRead = s.hostRead := rfl
@[simp] theorem State.modLaunch_hostReads (s : State) (l : Nat) (f : Launch → Launch) : (s.modLaunch l f).hostReads = s.hostReads := rfl
@[simp] theorem State.modLaunch_atomOld (s : State) (l : Nat) (f : Launch → Launch) : (s.modLaunch l f).atomOld = s.atomOld := rfl

/-! setCtx -/

@[simp] theorem State.setCtx_inputs (s : State) (c : Nat) (x : Context) : (s.setCtx c x).inputs = s.inputs := rfl
@[simp] theorem State.setCtx_turn (s : State) (c : Nat) (x : Context) : (s.setCtx c x).turn = s.turn := rfl
@[simp] theorem State.setCtx_paceC (s : State) (c : Nat) (x : Context) : (s.setCtx c x).paceC = s.paceC := rfl
@[simp] theorem State.setCtx_paceNs (s : State) (c : Nat) (x : Context) : (s.setCtx c x).paceNs = s.paceNs := rfl
@[simp] theorem State.setCtx_free (s : State) (c : Nat) (x : Context) : (s.setCtx c x).free = s.free := rfl
@[simp] theorem State.setCtx_cycle (s : State) (c : Nat) (x : Context) : (s.setCtx c x).cycle = s.cycle := rfl
@[simp] theorem State.setCtx_now (s : State) (c : Nat) (x : Context) : (s.setCtx c x).now = s.now := rfl
@[simp] theorem State.setCtx_offsets (s : State) (c : Nat) (x : Context) : (s.setCtx c x).offsets = s.offsets := rfl
@[simp] theorem State.setCtx_mem (s : State) (c : Nat) (x : Context) : (s.setCtx c x).mem = s.mem := rfl
@[simp] theorem State.setCtx_vers (s : State) (c : Nat) (x : Context) : (s.setCtx c x).vers = s.vers := rfl
@[simp] theorem State.setCtx_rels (s : State) (c : Nat) (x : Context) : (s.setCtx c x).rels = s.rels := rfl
@[simp] theorem State.setCtx_ords (s : State) (c : Nat) (x : Context) : (s.setCtx c x).ords = s.ords := rfl
@[simp] theorem State.setCtx_regd (s : State) (c : Nat) (x : Context) : (s.setCtx c x).regd = s.regd := rfl
@[simp] theorem State.setCtx_unregd (s : State) (c : Nat) (x : Context) : (s.setCtx c x).unregd = s.unregd := rfl
@[simp] theorem State.setCtx_cached (s : State) (c : Nat) (x : Context) : (s.setCtx c x).cached = s.cached := rfl
@[simp] theorem State.setCtx_keys (s : State) (c : Nat) (x : Context) : (s.setCtx c x).keys = s.keys := rfl
@[simp] theorem State.setCtx_kemKey (s : State) (c : Nat) (x : Context) : (s.setCtx c x).kemKey = s.kemKey := rfl
@[simp] theorem State.setCtx_kemIvs (s : State) (c : Nat) (x : Context) : (s.setCtx c x).kemIvs = s.kemIvs := rfl
@[simp] theorem State.setCtx_launches (s : State) (c : Nat) (x : Context) : (s.setCtx c x).launches = s.launches := rfl
@[simp] theorem State.setCtx_trays (s : State) (c : Nat) (x : Context) : (s.setCtx c x).trays = s.trays := rfl
@[simp] theorem State.setCtx_gathers (s : State) (c : Nat) (x : Context) : (s.setCtx c x).gathers = s.gathers := rfl
@[simp] theorem State.setCtx_handlers (s : State) (c : Nat) (x : Context) : (s.setCtx c x).handlers = s.handlers := rfl
@[simp] theorem State.setCtx_nextId (s : State) (c : Nat) (x : Context) : (s.setCtx c x).nextId = s.nextId := rfl
@[simp] theorem State.setCtx_slide (s : State) (c : Nat) (x : Context) : (s.setCtx c x).slide = s.slide := rfl
@[simp] theorem State.setCtx_colls (s : State) (c : Nat) (x : Context) : (s.setCtx c x).colls = s.colls := rfl
@[simp] theorem State.setCtx_farColls (s : State) (c : Nat) (x : Context) : (s.setCtx c x).farColls = s.farColls := rfl
@[simp] theorem State.setCtx_regs (s : State) (c : Nat) (x : Context) : (s.setCtx c x).regs = s.regs := rfl
@[simp] theorem State.setCtx_portUp (s : State) (c : Nat) (x : Context) : (s.setCtx c x).portUp = s.portUp := rfl
@[simp] theorem State.setCtx_boot (s : State) (c : Nat) (x : Context) : (s.setCtx c x).boot = s.boot := rfl
@[simp] theorem State.setCtx_active (s : State) (c : Nat) (x : Context) : (s.setCtx c x).active = s.active := rfl
@[simp] theorem State.setCtx_retaining (s : State) (c : Nat) (x : Context) : (s.setCtx c x).retaining = s.retaining := rfl
@[simp] theorem State.setCtx_waking (s : State) (c : Nat) (x : Context) : (s.setCtx c x).waking = s.waking := rfl
@[simp] theorem State.setCtx_links (s : State) (c : Nat) (x : Context) : (s.setCtx c x).links = s.links := rfl
@[simp] theorem State.setCtx_delivered (s : State) (c : Nat) (x : Context) : (s.setCtx c x).delivered = s.delivered := rfl
@[simp] theorem State.setCtx_taken (s : State) (c : Nat) (x : Context) : (s.setCtx c x).taken = s.taken := rfl
@[simp] theorem State.setCtx_chunks (s : State) (c : Nat) (x : Context) : (s.setCtx c x).chunks = s.chunks := rfl
@[simp] theorem State.setCtx_reserved (s : State) (c : Nat) (x : Context) : (s.setCtx c x).reserved = s.reserved := rfl
@[simp] theorem State.setCtx_dirty (s : State) (c : Nat) (x : Context) : (s.setCtx c x).dirty = s.dirty := rfl
@[simp] theorem State.setCtx_frames (s : State) (c : Nat) (x : Context) : (s.setCtx c x).frames = s.frames := rfl
@[simp] theorem State.setCtx_runs (s : State) (c : Nat) (x : Context) : (s.setCtx c x).runs = s.runs := rfl
@[simp] theorem State.setCtx_roomWaits (s : State) (c : Nat) (x : Context) : (s.setCtx c x).roomWaits = s.roomWaits := rfl
@[simp] theorem State.setCtx_migs (s : State) (c : Nat) (x : Context) : (s.setCtx c x).migs = s.migs := rfl
@[simp] theorem State.setCtx_freeFst (s : State) (c : Nat) (x : Context) : (s.setCtx c x).freeFst = s.freeFst := rfl
@[simp] theorem State.setCtx_freeSnd (s : State) (c : Nat) (x : Context) : (s.setCtx c x).freeSnd = s.freeSnd := rfl
@[simp] theorem State.setCtx_passes (s : State) (c : Nat) (x : Context) : (s.setCtx c x).passes = s.passes := rfl
@[simp] theorem State.setCtx_retires (s : State) (c : Nat) (x : Context) : (s.setCtx c x).retires = s.retires := rfl
@[simp] theorem State.setCtx_hostLines (s : State) (c : Nat) (x : Context) : (s.setCtx c x).hostLines = s.hostLines := rfl
@[simp] theorem State.setCtx_safeTier (s : State) (c : Nat) (x : Context) : (s.setCtx c x).safeTier = s.safeTier := rfl
@[simp] theorem State.setCtx_inReset (s : State) (c : Nat) (x : Context) : (s.setCtx c x).inReset = s.inReset := rfl
@[simp] theorem State.setCtx_sampleCnt (s : State) (c : Nat) (x : Context) : (s.setCtx c x).sampleCnt = s.sampleCnt := rfl
@[simp] theorem State.setCtx_lines (s : State) (c : Nat) (x : Context) : (s.setCtx c x).lines = s.lines := rfl
@[simp] theorem State.setCtx_requests (s : State) (c : Nat) (x : Context) : (s.setCtx c x).requests = s.requests := rfl
@[simp] theorem State.setCtx_arriving (s : State) (c : Nat) (x : Context) : (s.setCtx c x).arriving = s.arriving := rfl
@[simp] theorem State.setCtx_signals (s : State) (c : Nat) (x : Context) : (s.setCtx c x).signals = s.signals := rfl
@[simp] theorem State.setCtx_sent (s : State) (c : Nat) (x : Context) : (s.setCtx c x).sent = s.sent := rfl
@[simp] theorem State.setCtx_pipeAt (s : State) (c : Nat) (x : Context) : (s.setCtx c x).pipeAt = s.pipeAt := rfl
@[simp] theorem State.setCtx_syncAt (s : State) (c : Nat) (x : Context) : (s.setCtx c x).syncAt = s.syncAt := rfl
@[simp] theorem State.setCtx_ptp (s : State) (c : Nat) (x : Context) : (s.setCtx c x).ptp = s.ptp := rfl
@[simp] theorem State.setCtx_hostRead (s : State) (c : Nat) (x : Context) : (s.setCtx c x).hostRead = s.hostRead := rfl
@[simp] theorem State.setCtx_hostReads (s : State) (c : Nat) (x : Context) : (s.setCtx c x).hostReads = s.hostReads := rfl
@[simp] theorem State.setCtx_atomOld (s : State) (c : Nat) (x : Context) : (s.setCtx c x).atomOld = s.atomOld := rfl

/-! modCtx -/

@[simp] theorem State.modCtx_inputs (s : State) (c : Nat) (f : Context → Context) : (s.modCtx c f).inputs = s.inputs := rfl
@[simp] theorem State.modCtx_turn (s : State) (c : Nat) (f : Context → Context) : (s.modCtx c f).turn = s.turn := rfl
@[simp] theorem State.modCtx_paceC (s : State) (c : Nat) (f : Context → Context) : (s.modCtx c f).paceC = s.paceC := rfl
@[simp] theorem State.modCtx_paceNs (s : State) (c : Nat) (f : Context → Context) : (s.modCtx c f).paceNs = s.paceNs := rfl
@[simp] theorem State.modCtx_free (s : State) (c : Nat) (f : Context → Context) : (s.modCtx c f).free = s.free := rfl
@[simp] theorem State.modCtx_cycle (s : State) (c : Nat) (f : Context → Context) : (s.modCtx c f).cycle = s.cycle := rfl
@[simp] theorem State.modCtx_now (s : State) (c : Nat) (f : Context → Context) : (s.modCtx c f).now = s.now := rfl
@[simp] theorem State.modCtx_offsets (s : State) (c : Nat) (f : Context → Context) : (s.modCtx c f).offsets = s.offsets := rfl
@[simp] theorem State.modCtx_mem (s : State) (c : Nat) (f : Context → Context) : (s.modCtx c f).mem = s.mem := rfl
@[simp] theorem State.modCtx_vers (s : State) (c : Nat) (f : Context → Context) : (s.modCtx c f).vers = s.vers := rfl
@[simp] theorem State.modCtx_rels (s : State) (c : Nat) (f : Context → Context) : (s.modCtx c f).rels = s.rels := rfl
@[simp] theorem State.modCtx_ords (s : State) (c : Nat) (f : Context → Context) : (s.modCtx c f).ords = s.ords := rfl
@[simp] theorem State.modCtx_regd (s : State) (c : Nat) (f : Context → Context) : (s.modCtx c f).regd = s.regd := rfl
@[simp] theorem State.modCtx_unregd (s : State) (c : Nat) (f : Context → Context) : (s.modCtx c f).unregd = s.unregd := rfl
@[simp] theorem State.modCtx_cached (s : State) (c : Nat) (f : Context → Context) : (s.modCtx c f).cached = s.cached := rfl
@[simp] theorem State.modCtx_keys (s : State) (c : Nat) (f : Context → Context) : (s.modCtx c f).keys = s.keys := rfl
@[simp] theorem State.modCtx_kemKey (s : State) (c : Nat) (f : Context → Context) : (s.modCtx c f).kemKey = s.kemKey := rfl
@[simp] theorem State.modCtx_kemIvs (s : State) (c : Nat) (f : Context → Context) : (s.modCtx c f).kemIvs = s.kemIvs := rfl
@[simp] theorem State.modCtx_launches (s : State) (c : Nat) (f : Context → Context) : (s.modCtx c f).launches = s.launches := rfl
@[simp] theorem State.modCtx_trays (s : State) (c : Nat) (f : Context → Context) : (s.modCtx c f).trays = s.trays := rfl
@[simp] theorem State.modCtx_gathers (s : State) (c : Nat) (f : Context → Context) : (s.modCtx c f).gathers = s.gathers := rfl
@[simp] theorem State.modCtx_handlers (s : State) (c : Nat) (f : Context → Context) : (s.modCtx c f).handlers = s.handlers := rfl
@[simp] theorem State.modCtx_nextId (s : State) (c : Nat) (f : Context → Context) : (s.modCtx c f).nextId = s.nextId := rfl
@[simp] theorem State.modCtx_slide (s : State) (c : Nat) (f : Context → Context) : (s.modCtx c f).slide = s.slide := rfl
@[simp] theorem State.modCtx_colls (s : State) (c : Nat) (f : Context → Context) : (s.modCtx c f).colls = s.colls := rfl
@[simp] theorem State.modCtx_farColls (s : State) (c : Nat) (f : Context → Context) : (s.modCtx c f).farColls = s.farColls := rfl
@[simp] theorem State.modCtx_regs (s : State) (c : Nat) (f : Context → Context) : (s.modCtx c f).regs = s.regs := rfl
@[simp] theorem State.modCtx_portUp (s : State) (c : Nat) (f : Context → Context) : (s.modCtx c f).portUp = s.portUp := rfl
@[simp] theorem State.modCtx_boot (s : State) (c : Nat) (f : Context → Context) : (s.modCtx c f).boot = s.boot := rfl
@[simp] theorem State.modCtx_active (s : State) (c : Nat) (f : Context → Context) : (s.modCtx c f).active = s.active := rfl
@[simp] theorem State.modCtx_retaining (s : State) (c : Nat) (f : Context → Context) : (s.modCtx c f).retaining = s.retaining := rfl
@[simp] theorem State.modCtx_waking (s : State) (c : Nat) (f : Context → Context) : (s.modCtx c f).waking = s.waking := rfl
@[simp] theorem State.modCtx_links (s : State) (c : Nat) (f : Context → Context) : (s.modCtx c f).links = s.links := rfl
@[simp] theorem State.modCtx_delivered (s : State) (c : Nat) (f : Context → Context) : (s.modCtx c f).delivered = s.delivered := rfl
@[simp] theorem State.modCtx_taken (s : State) (c : Nat) (f : Context → Context) : (s.modCtx c f).taken = s.taken := rfl
@[simp] theorem State.modCtx_chunks (s : State) (c : Nat) (f : Context → Context) : (s.modCtx c f).chunks = s.chunks := rfl
@[simp] theorem State.modCtx_reserved (s : State) (c : Nat) (f : Context → Context) : (s.modCtx c f).reserved = s.reserved := rfl
@[simp] theorem State.modCtx_dirty (s : State) (c : Nat) (f : Context → Context) : (s.modCtx c f).dirty = s.dirty := rfl
@[simp] theorem State.modCtx_frames (s : State) (c : Nat) (f : Context → Context) : (s.modCtx c f).frames = s.frames := rfl
@[simp] theorem State.modCtx_runs (s : State) (c : Nat) (f : Context → Context) : (s.modCtx c f).runs = s.runs := rfl
@[simp] theorem State.modCtx_roomWaits (s : State) (c : Nat) (f : Context → Context) : (s.modCtx c f).roomWaits = s.roomWaits := rfl
@[simp] theorem State.modCtx_migs (s : State) (c : Nat) (f : Context → Context) : (s.modCtx c f).migs = s.migs := rfl
@[simp] theorem State.modCtx_freeFst (s : State) (c : Nat) (f : Context → Context) : (s.modCtx c f).freeFst = s.freeFst := rfl
@[simp] theorem State.modCtx_freeSnd (s : State) (c : Nat) (f : Context → Context) : (s.modCtx c f).freeSnd = s.freeSnd := rfl
@[simp] theorem State.modCtx_passes (s : State) (c : Nat) (f : Context → Context) : (s.modCtx c f).passes = s.passes := rfl
@[simp] theorem State.modCtx_retires (s : State) (c : Nat) (f : Context → Context) : (s.modCtx c f).retires = s.retires := rfl
@[simp] theorem State.modCtx_hostLines (s : State) (c : Nat) (f : Context → Context) : (s.modCtx c f).hostLines = s.hostLines := rfl
@[simp] theorem State.modCtx_safeTier (s : State) (c : Nat) (f : Context → Context) : (s.modCtx c f).safeTier = s.safeTier := rfl
@[simp] theorem State.modCtx_inReset (s : State) (c : Nat) (f : Context → Context) : (s.modCtx c f).inReset = s.inReset := rfl
@[simp] theorem State.modCtx_sampleCnt (s : State) (c : Nat) (f : Context → Context) : (s.modCtx c f).sampleCnt = s.sampleCnt := rfl
@[simp] theorem State.modCtx_lines (s : State) (c : Nat) (f : Context → Context) : (s.modCtx c f).lines = s.lines := rfl
@[simp] theorem State.modCtx_requests (s : State) (c : Nat) (f : Context → Context) : (s.modCtx c f).requests = s.requests := rfl
@[simp] theorem State.modCtx_arriving (s : State) (c : Nat) (f : Context → Context) : (s.modCtx c f).arriving = s.arriving := rfl
@[simp] theorem State.modCtx_signals (s : State) (c : Nat) (f : Context → Context) : (s.modCtx c f).signals = s.signals := rfl
@[simp] theorem State.modCtx_sent (s : State) (c : Nat) (f : Context → Context) : (s.modCtx c f).sent = s.sent := rfl
@[simp] theorem State.modCtx_pipeAt (s : State) (c : Nat) (f : Context → Context) : (s.modCtx c f).pipeAt = s.pipeAt := rfl
@[simp] theorem State.modCtx_syncAt (s : State) (c : Nat) (f : Context → Context) : (s.modCtx c f).syncAt = s.syncAt := rfl
@[simp] theorem State.modCtx_ptp (s : State) (c : Nat) (f : Context → Context) : (s.modCtx c f).ptp = s.ptp := rfl
@[simp] theorem State.modCtx_hostRead (s : State) (c : Nat) (f : Context → Context) : (s.modCtx c f).hostRead = s.hostRead := rfl
@[simp] theorem State.modCtx_hostReads (s : State) (c : Nat) (f : Context → Context) : (s.modCtx c f).hostReads = s.hostReads := rfl
@[simp] theorem State.modCtx_atomOld (s : State) (c : Nat) (f : Context → Context) : (s.modCtx c f).atomOld = s.atomOld := rfl

/-! setOrd -/

@[simp] theorem State.setOrd_inputs (s : State) (a : Agent) (o : Ord) : (s.setOrd a o).inputs = s.inputs := rfl
@[simp] theorem State.setOrd_turn (s : State) (a : Agent) (o : Ord) : (s.setOrd a o).turn = s.turn := rfl
@[simp] theorem State.setOrd_paceC (s : State) (a : Agent) (o : Ord) : (s.setOrd a o).paceC = s.paceC := rfl
@[simp] theorem State.setOrd_paceNs (s : State) (a : Agent) (o : Ord) : (s.setOrd a o).paceNs = s.paceNs := rfl
@[simp] theorem State.setOrd_free (s : State) (a : Agent) (o : Ord) : (s.setOrd a o).free = s.free := rfl
@[simp] theorem State.setOrd_cycle (s : State) (a : Agent) (o : Ord) : (s.setOrd a o).cycle = s.cycle := rfl
@[simp] theorem State.setOrd_now (s : State) (a : Agent) (o : Ord) : (s.setOrd a o).now = s.now := rfl
@[simp] theorem State.setOrd_offsets (s : State) (a : Agent) (o : Ord) : (s.setOrd a o).offsets = s.offsets := rfl
@[simp] theorem State.setOrd_mem (s : State) (a : Agent) (o : Ord) : (s.setOrd a o).mem = s.mem := rfl
@[simp] theorem State.setOrd_vers (s : State) (a : Agent) (o : Ord) : (s.setOrd a o).vers = s.vers := rfl
@[simp] theorem State.setOrd_rels (s : State) (a : Agent) (o : Ord) : (s.setOrd a o).rels = s.rels := rfl
@[simp] theorem State.setOrd_regd (s : State) (a : Agent) (o : Ord) : (s.setOrd a o).regd = s.regd := rfl
@[simp] theorem State.setOrd_unregd (s : State) (a : Agent) (o : Ord) : (s.setOrd a o).unregd = s.unregd := rfl
@[simp] theorem State.setOrd_cached (s : State) (a : Agent) (o : Ord) : (s.setOrd a o).cached = s.cached := rfl
@[simp] theorem State.setOrd_ctxs (s : State) (a : Agent) (o : Ord) : (s.setOrd a o).ctxs = s.ctxs := rfl
@[simp] theorem State.setOrd_keys (s : State) (a : Agent) (o : Ord) : (s.setOrd a o).keys = s.keys := rfl
@[simp] theorem State.setOrd_kemKey (s : State) (a : Agent) (o : Ord) : (s.setOrd a o).kemKey = s.kemKey := rfl
@[simp] theorem State.setOrd_kemIvs (s : State) (a : Agent) (o : Ord) : (s.setOrd a o).kemIvs = s.kemIvs := rfl
@[simp] theorem State.setOrd_launches (s : State) (a : Agent) (o : Ord) : (s.setOrd a o).launches = s.launches := rfl
@[simp] theorem State.setOrd_trays (s : State) (a : Agent) (o : Ord) : (s.setOrd a o).trays = s.trays := rfl
@[simp] theorem State.setOrd_gathers (s : State) (a : Agent) (o : Ord) : (s.setOrd a o).gathers = s.gathers := rfl
@[simp] theorem State.setOrd_handlers (s : State) (a : Agent) (o : Ord) : (s.setOrd a o).handlers = s.handlers := rfl
@[simp] theorem State.setOrd_nextId (s : State) (a : Agent) (o : Ord) : (s.setOrd a o).nextId = s.nextId := rfl
@[simp] theorem State.setOrd_slide (s : State) (a : Agent) (o : Ord) : (s.setOrd a o).slide = s.slide := rfl
@[simp] theorem State.setOrd_colls (s : State) (a : Agent) (o : Ord) : (s.setOrd a o).colls = s.colls := rfl
@[simp] theorem State.setOrd_farColls (s : State) (a : Agent) (o : Ord) : (s.setOrd a o).farColls = s.farColls := rfl
@[simp] theorem State.setOrd_regs (s : State) (a : Agent) (o : Ord) : (s.setOrd a o).regs = s.regs := rfl
@[simp] theorem State.setOrd_portUp (s : State) (a : Agent) (o : Ord) : (s.setOrd a o).portUp = s.portUp := rfl
@[simp] theorem State.setOrd_boot (s : State) (a : Agent) (o : Ord) : (s.setOrd a o).boot = s.boot := rfl
@[simp] theorem State.setOrd_active (s : State) (a : Agent) (o : Ord) : (s.setOrd a o).active = s.active := rfl
@[simp] theorem State.setOrd_retaining (s : State) (a : Agent) (o : Ord) : (s.setOrd a o).retaining = s.retaining := rfl
@[simp] theorem State.setOrd_waking (s : State) (a : Agent) (o : Ord) : (s.setOrd a o).waking = s.waking := rfl
@[simp] theorem State.setOrd_links (s : State) (a : Agent) (o : Ord) : (s.setOrd a o).links = s.links := rfl
@[simp] theorem State.setOrd_delivered (s : State) (a : Agent) (o : Ord) : (s.setOrd a o).delivered = s.delivered := rfl
@[simp] theorem State.setOrd_taken (s : State) (a : Agent) (o : Ord) : (s.setOrd a o).taken = s.taken := rfl
@[simp] theorem State.setOrd_chunks (s : State) (a : Agent) (o : Ord) : (s.setOrd a o).chunks = s.chunks := rfl
@[simp] theorem State.setOrd_reserved (s : State) (a : Agent) (o : Ord) : (s.setOrd a o).reserved = s.reserved := rfl
@[simp] theorem State.setOrd_dirty (s : State) (a : Agent) (o : Ord) : (s.setOrd a o).dirty = s.dirty := rfl
@[simp] theorem State.setOrd_frames (s : State) (a : Agent) (o : Ord) : (s.setOrd a o).frames = s.frames := rfl
@[simp] theorem State.setOrd_runs (s : State) (a : Agent) (o : Ord) : (s.setOrd a o).runs = s.runs := rfl
@[simp] theorem State.setOrd_roomWaits (s : State) (a : Agent) (o : Ord) : (s.setOrd a o).roomWaits = s.roomWaits := rfl
@[simp] theorem State.setOrd_migs (s : State) (a : Agent) (o : Ord) : (s.setOrd a o).migs = s.migs := rfl
@[simp] theorem State.setOrd_freeFst (s : State) (a : Agent) (o : Ord) : (s.setOrd a o).freeFst = s.freeFst := rfl
@[simp] theorem State.setOrd_freeSnd (s : State) (a : Agent) (o : Ord) : (s.setOrd a o).freeSnd = s.freeSnd := rfl
@[simp] theorem State.setOrd_passes (s : State) (a : Agent) (o : Ord) : (s.setOrd a o).passes = s.passes := rfl
@[simp] theorem State.setOrd_retires (s : State) (a : Agent) (o : Ord) : (s.setOrd a o).retires = s.retires := rfl
@[simp] theorem State.setOrd_hostLines (s : State) (a : Agent) (o : Ord) : (s.setOrd a o).hostLines = s.hostLines := rfl
@[simp] theorem State.setOrd_safeTier (s : State) (a : Agent) (o : Ord) : (s.setOrd a o).safeTier = s.safeTier := rfl
@[simp] theorem State.setOrd_inReset (s : State) (a : Agent) (o : Ord) : (s.setOrd a o).inReset = s.inReset := rfl
@[simp] theorem State.setOrd_sampleCnt (s : State) (a : Agent) (o : Ord) : (s.setOrd a o).sampleCnt = s.sampleCnt := rfl
@[simp] theorem State.setOrd_lines (s : State) (a : Agent) (o : Ord) : (s.setOrd a o).lines = s.lines := rfl
@[simp] theorem State.setOrd_requests (s : State) (a : Agent) (o : Ord) : (s.setOrd a o).requests = s.requests := rfl
@[simp] theorem State.setOrd_arriving (s : State) (a : Agent) (o : Ord) : (s.setOrd a o).arriving = s.arriving := rfl
@[simp] theorem State.setOrd_signals (s : State) (a : Agent) (o : Ord) : (s.setOrd a o).signals = s.signals := rfl
@[simp] theorem State.setOrd_sent (s : State) (a : Agent) (o : Ord) : (s.setOrd a o).sent = s.sent := rfl
@[simp] theorem State.setOrd_pipeAt (s : State) (a : Agent) (o : Ord) : (s.setOrd a o).pipeAt = s.pipeAt := rfl
@[simp] theorem State.setOrd_syncAt (s : State) (a : Agent) (o : Ord) : (s.setOrd a o).syncAt = s.syncAt := rfl
@[simp] theorem State.setOrd_ptp (s : State) (a : Agent) (o : Ord) : (s.setOrd a o).ptp = s.ptp := rfl
@[simp] theorem State.setOrd_hostRead (s : State) (a : Agent) (o : Ord) : (s.setOrd a o).hostRead = s.hostRead := rfl
@[simp] theorem State.setOrd_hostReads (s : State) (a : Agent) (o : Ord) : (s.setOrd a o).hostReads = s.hostReads := rfl
@[simp] theorem State.setOrd_atomOld (s : State) (a : Agent) (o : Ord) : (s.setOrd a o).atomOld = s.atomOld := rfl

/-! setWarp -/

/-- A group put back changes trays and handler groups only. -/
theorem State.setWarp_rest (s : State) (w : Warp) : s.setWarp w = { s with trays := (s.setWarp w).trays, handlers := (s.setWarp w).handlers } := by
  unfold State.setWarp; split <;> rfl

@[simp] theorem State.setWarp_inputs (s : State) (w : Warp) : (s.setWarp w).inputs = s.inputs := by rw [State.setWarp_rest]
@[simp] theorem State.setWarp_turn (s : State) (w : Warp) : (s.setWarp w).turn = s.turn := by rw [State.setWarp_rest]
@[simp] theorem State.setWarp_paceC (s : State) (w : Warp) : (s.setWarp w).paceC = s.paceC := by rw [State.setWarp_rest]
@[simp] theorem State.setWarp_paceNs (s : State) (w : Warp) : (s.setWarp w).paceNs = s.paceNs := by rw [State.setWarp_rest]
@[simp] theorem State.setWarp_free (s : State) (w : Warp) : (s.setWarp w).free = s.free := by rw [State.setWarp_rest]
@[simp] theorem State.setWarp_cycle (s : State) (w : Warp) : (s.setWarp w).cycle = s.cycle := by rw [State.setWarp_rest]
@[simp] theorem State.setWarp_now (s : State) (w : Warp) : (s.setWarp w).now = s.now := by rw [State.setWarp_rest]
@[simp] theorem State.setWarp_offsets (s : State) (w : Warp) : (s.setWarp w).offsets = s.offsets := by rw [State.setWarp_rest]
@[simp] theorem State.setWarp_mem (s : State) (w : Warp) : (s.setWarp w).mem = s.mem := by rw [State.setWarp_rest]
@[simp] theorem State.setWarp_vers (s : State) (w : Warp) : (s.setWarp w).vers = s.vers := by rw [State.setWarp_rest]
@[simp] theorem State.setWarp_rels (s : State) (w : Warp) : (s.setWarp w).rels = s.rels := by rw [State.setWarp_rest]
@[simp] theorem State.setWarp_ords (s : State) (w : Warp) : (s.setWarp w).ords = s.ords := by rw [State.setWarp_rest]
@[simp] theorem State.setWarp_regd (s : State) (w : Warp) : (s.setWarp w).regd = s.regd := by rw [State.setWarp_rest]
@[simp] theorem State.setWarp_unregd (s : State) (w : Warp) : (s.setWarp w).unregd = s.unregd := by rw [State.setWarp_rest]
@[simp] theorem State.setWarp_cached (s : State) (w : Warp) : (s.setWarp w).cached = s.cached := by rw [State.setWarp_rest]
@[simp] theorem State.setWarp_ctxs (s : State) (w : Warp) : (s.setWarp w).ctxs = s.ctxs := by rw [State.setWarp_rest]
@[simp] theorem State.setWarp_keys (s : State) (w : Warp) : (s.setWarp w).keys = s.keys := by rw [State.setWarp_rest]
@[simp] theorem State.setWarp_kemKey (s : State) (w : Warp) : (s.setWarp w).kemKey = s.kemKey := by rw [State.setWarp_rest]
@[simp] theorem State.setWarp_kemIvs (s : State) (w : Warp) : (s.setWarp w).kemIvs = s.kemIvs := by rw [State.setWarp_rest]
@[simp] theorem State.setWarp_launches (s : State) (w : Warp) : (s.setWarp w).launches = s.launches := by rw [State.setWarp_rest]
@[simp] theorem State.setWarp_gathers (s : State) (w : Warp) : (s.setWarp w).gathers = s.gathers := by rw [State.setWarp_rest]
@[simp] theorem State.setWarp_nextId (s : State) (w : Warp) : (s.setWarp w).nextId = s.nextId := by rw [State.setWarp_rest]
@[simp] theorem State.setWarp_slide (s : State) (w : Warp) : (s.setWarp w).slide = s.slide := by rw [State.setWarp_rest]
@[simp] theorem State.setWarp_colls (s : State) (w : Warp) : (s.setWarp w).colls = s.colls := by rw [State.setWarp_rest]
@[simp] theorem State.setWarp_farColls (s : State) (w : Warp) : (s.setWarp w).farColls = s.farColls := by rw [State.setWarp_rest]
@[simp] theorem State.setWarp_regs (s : State) (w : Warp) : (s.setWarp w).regs = s.regs := by rw [State.setWarp_rest]
@[simp] theorem State.setWarp_portUp (s : State) (w : Warp) : (s.setWarp w).portUp = s.portUp := by rw [State.setWarp_rest]
@[simp] theorem State.setWarp_boot (s : State) (w : Warp) : (s.setWarp w).boot = s.boot := by rw [State.setWarp_rest]
@[simp] theorem State.setWarp_active (s : State) (w : Warp) : (s.setWarp w).active = s.active := by rw [State.setWarp_rest]
@[simp] theorem State.setWarp_retaining (s : State) (w : Warp) : (s.setWarp w).retaining = s.retaining := by rw [State.setWarp_rest]
@[simp] theorem State.setWarp_waking (s : State) (w : Warp) : (s.setWarp w).waking = s.waking := by rw [State.setWarp_rest]
@[simp] theorem State.setWarp_links (s : State) (w : Warp) : (s.setWarp w).links = s.links := by rw [State.setWarp_rest]
@[simp] theorem State.setWarp_delivered (s : State) (w : Warp) : (s.setWarp w).delivered = s.delivered := by rw [State.setWarp_rest]
@[simp] theorem State.setWarp_taken (s : State) (w : Warp) : (s.setWarp w).taken = s.taken := by rw [State.setWarp_rest]
@[simp] theorem State.setWarp_chunks (s : State) (w : Warp) : (s.setWarp w).chunks = s.chunks := by rw [State.setWarp_rest]
@[simp] theorem State.setWarp_reserved (s : State) (w : Warp) : (s.setWarp w).reserved = s.reserved := by rw [State.setWarp_rest]
@[simp] theorem State.setWarp_dirty (s : State) (w : Warp) : (s.setWarp w).dirty = s.dirty := by rw [State.setWarp_rest]
@[simp] theorem State.setWarp_frames (s : State) (w : Warp) : (s.setWarp w).frames = s.frames := by rw [State.setWarp_rest]
@[simp] theorem State.setWarp_runs (s : State) (w : Warp) : (s.setWarp w).runs = s.runs := by rw [State.setWarp_rest]
@[simp] theorem State.setWarp_roomWaits (s : State) (w : Warp) : (s.setWarp w).roomWaits = s.roomWaits := by rw [State.setWarp_rest]
@[simp] theorem State.setWarp_migs (s : State) (w : Warp) : (s.setWarp w).migs = s.migs := by rw [State.setWarp_rest]
@[simp] theorem State.setWarp_freeFst (s : State) (w : Warp) : (s.setWarp w).freeFst = s.freeFst := by rw [State.setWarp_rest]
@[simp] theorem State.setWarp_freeSnd (s : State) (w : Warp) : (s.setWarp w).freeSnd = s.freeSnd := by rw [State.setWarp_rest]
@[simp] theorem State.setWarp_passes (s : State) (w : Warp) : (s.setWarp w).passes = s.passes := by rw [State.setWarp_rest]
@[simp] theorem State.setWarp_retires (s : State) (w : Warp) : (s.setWarp w).retires = s.retires := by rw [State.setWarp_rest]
@[simp] theorem State.setWarp_hostLines (s : State) (w : Warp) : (s.setWarp w).hostLines = s.hostLines := by rw [State.setWarp_rest]
@[simp] theorem State.setWarp_safeTier (s : State) (w : Warp) : (s.setWarp w).safeTier = s.safeTier := by rw [State.setWarp_rest]
@[simp] theorem State.setWarp_inReset (s : State) (w : Warp) : (s.setWarp w).inReset = s.inReset := by rw [State.setWarp_rest]
@[simp] theorem State.setWarp_sampleCnt (s : State) (w : Warp) : (s.setWarp w).sampleCnt = s.sampleCnt := by rw [State.setWarp_rest]
@[simp] theorem State.setWarp_lines (s : State) (w : Warp) : (s.setWarp w).lines = s.lines := by rw [State.setWarp_rest]
@[simp] theorem State.setWarp_requests (s : State) (w : Warp) : (s.setWarp w).requests = s.requests := by rw [State.setWarp_rest]
@[simp] theorem State.setWarp_arriving (s : State) (w : Warp) : (s.setWarp w).arriving = s.arriving := by rw [State.setWarp_rest]
@[simp] theorem State.setWarp_signals (s : State) (w : Warp) : (s.setWarp w).signals = s.signals := by rw [State.setWarp_rest]
@[simp] theorem State.setWarp_sent (s : State) (w : Warp) : (s.setWarp w).sent = s.sent := by rw [State.setWarp_rest]
@[simp] theorem State.setWarp_pipeAt (s : State) (w : Warp) : (s.setWarp w).pipeAt = s.pipeAt := by rw [State.setWarp_rest]
@[simp] theorem State.setWarp_syncAt (s : State) (w : Warp) : (s.setWarp w).syncAt = s.syncAt := by rw [State.setWarp_rest]
@[simp] theorem State.setWarp_ptp (s : State) (w : Warp) : (s.setWarp w).ptp = s.ptp := by rw [State.setWarp_rest]
@[simp] theorem State.setWarp_hostRead (s : State) (w : Warp) : (s.setWarp w).hostRead = s.hostRead := by rw [State.setWarp_rest]
@[simp] theorem State.setWarp_hostReads (s : State) (w : Warp) : (s.setWarp w).hostReads = s.hostReads := by rw [State.setWarp_rest]
@[simp] theorem State.setWarp_atomOld (s : State) (w : Warp) : (s.setWarp w).atomOld = s.atomOld := by rw [State.setWarp_rest]

end Sys2Proof.Machine
end

