-- ==== Sys2Proof/Laws/Group.lean ====
section
/-!
SUPPORT. What putting a group back does, and what an instruction that acts lane by lane or once for its group does: one lemma for each shared operation.
-/

namespace Sys2Proof.Machine

/-! A group put back and found again -/

theorem find_map_agent (ws : List Warp) (w : Warp) (b : Agent) (hw : ws.find? (fun x => x.agent == w.agent) ≠ none) :
    (ws.map fun x => if x.agent == w.agent then w else x).find? (fun x => x.agent == b) =
      if b = w.agent then some w else ws.find? (fun x => x.agent == b) := by
  induction ws with
  | nil => simp at hw
  | cons x xs ih =>
    by_cases hx : x.agent = w.agent
    · by_cases hb : b = w.agent
      · subst hb
        simp [hx]
      · have hwb : (w.agent == b) = false := by simpa using fun h => hb h.symm
        have hxb : (x.agent == b) = false := by rw [hx]; exact hwb
        simp only [List.map_cons, hx, beq_self_eq_true, if_true, List.find?_cons, hwb, hxb, if_neg hb]
        clear ih hw
        induction xs with
        | nil => rfl
        | cons y ys ih2 =>
          by_cases hy : y.agent = w.agent
          · have hyb : (y.agent == b) = false := by rw [hy]; exact hwb
            simp only [List.map_cons, hy, beq_self_eq_true, if_true, List.find?_cons, hwb, hyb]
            exact ih2
          · simp only [List.map_cons, List.find?_cons]
            rw [if_neg (by simpa using hy)]
            split
            · rfl
            · exact ih2
    · have hxf : (x.agent == w.agent) = false := by simpa using hx
      simp only [List.map_cons, hxf, Bool.false_eq_true, if_false, List.find?_cons]
      rw [List.find?_cons, hxf] at hw
      have hih := ih hw
      by_cases hb : b = w.agent
      · subst hb
        rw [hxf]
        simpa using hih
      · by_cases hxb : x.agent = b
        · simp [hxb, hb]
        · have : (x.agent == b) = false := by simpa using hxb
          rw [this]
          exact hih

theorem find_map_tray (ts : List Tray) (l i l' i' : Nat) (f : Tray → Tray) (hl : ∀ t, (f t).launch = t.launch) (hi : ∀ t, (f t).idx = t.idx) :
    (ts.map fun x => if x.launch == l && x.idx == i then f x else x).find? (fun t => t.launch == l' && t.idx == i') =
      (ts.find? fun t => t.launch == l' && t.idx == i').map fun x => if x.launch == l && x.idx == i then f x else x := by
  rw [List.find?_map]
  congr 1
  apply congrArg (fun p => List.find? p ts)
  funext x
  simp only [Function.comp]
  split <;> simp [hl, hi]

/-- A group that stands in the state, put back changed, is what is found there, and every other group is found as before. -/
theorem State.warp?_setWarp {s : State} {w : Warp} (h : s.warp? w.agent ≠ none) (b : Agent) :
    (s.setWarp w).warp? b = if b = w.agent then some w else s.warp? b := by
  cases ha : w.agent with
  | group l t g =>
    rw [ha] at h
    simp only [State.warp?, ne_eq] at h
    have hset : s.setWarp w = s.modTray l t fun tr => { tr with warps := tr.warps.map fun x => if x.agent == w.agent then w else x } := by
      simp only [State.setWarp, ha]
    rw [hset]
    cases b with
    | group l' t' g' =>
      simp only [State.warp?, State.tray?, State.modTray]
      rw [find_map_tray s.trays l t l' t' (fun tr => { tr with warps := tr.warps.map fun x => if x.agent == w.agent then w else x }) (fun _ => rfl) (fun _ => rfl)]
      by_cases hlt : l' = l ∧ t' = t
      · obtain ⟨rfl, rfl⟩ := hlt
        cases htr : s.trays.find? fun x => x.launch == l' && x.idx == t' with
        | none =>
          exfalso; apply h
          simp [State.tray?, htr]
        | some tr =>
          have hp := List.find?_some htr
          simp only [Option.map_some, hp, if_true, Option.bind_some]
          have hne : tr.warps.find? (fun x => x.agent == w.agent) ≠ none := by
            intro hn
            apply h
            simp only [State.tray?, htr, Option.bind_some, ← ha]
            exact hn
          rw [find_map_agent tr.warps w _ hne, ha]
      · have hb : ¬ (Agent.group l' t' g' = Agent.group l t g) := by
          intro he; injection he with h1 h2; exact hlt ⟨h1, h2⟩
        rw [if_neg hb]
        cases htr : s.trays.find? fun x => x.launch == l' && x.idx == t' with
        | none => rfl
        | some tr =>
          have hp := List.find?_some htr
          simp only [Bool.and_eq_true, beq_iff_eq] at hp
          have : (tr.launch == l && tr.idx == t) = false := by
            rw [hp.1, hp.2]
            by_contra hc
            simp only [Bool.not_eq_false, Bool.and_eq_true, beq_iff_eq] at hc
            exact hlt hc
          simp only [Option.map_some, this, Bool.false_eq_true, if_false]
    | handler l' n' => simp [State.warp?, State.handler?, State.modTray]
    | engine c ch q => simp [State.warp?]
    | port p => simp [State.warp?]
  | handler l n =>
    rw [ha] at h
    have hset : s.setWarp w = { s with handlers := s.handlers.map fun x => if x.launch == l && x.n == n then { x with warp := w } else x } := by
      simp only [State.setWarp, ha]
    rw [hset]
    cases b with
    | handler l' n' =>
      simp only [State.warp?, State.handler?] at h ⊢
      rw [List.find?_map]
      have hc : ((fun h : Handler => h.launch == l' && h.n == n') ∘ fun x => if x.launch == l && x.n == n then { x with warp := w } else x) =
          fun h => h.launch == l' && h.n == n' := by
        funext x
        simp only [Function.comp]
        split <;> rfl
      rw [hc]
      by_cases hln : l' = l ∧ n' = n
      · obtain ⟨rfl, rfl⟩ := hln
        cases hf : s.handlers.find? fun x => x.launch == l' && x.n == n' with
        | none => simp [hf] at h
        | some x =>
          have hp := List.find?_some hf
          simp only [Option.map_some, hp, if_true]
          simp [ha]
      · have hb : ¬ (Agent.handler l' n' = Agent.handler l n) := by
          intro he; injection he with h1 h2; exact hln ⟨h1, h2⟩
        rw [if_neg hb]
        cases hf : s.handlers.find? fun x => x.launch == l' && x.n == n' with
        | none => rfl
        | some x =>
          have hp := List.find?_some hf
          simp only [Bool.and_eq_true, beq_iff_eq] at hp
          have : (x.launch == l && x.n == n) = false := by
            rw [hp.1, hp.2]
            by_contra hc
            simp only [Bool.not_eq_false, Bool.and_eq_true, beq_iff_eq] at hc
            exact hln hc
          simp only [Option.map_some, this, Bool.false_eq_true, if_false]
    | group l' t' g' => simp [State.warp?, State.tray?]
    | engine c ch q => simp [State.warp?]
    | port p => simp [State.warp?]
  | engine c ch q => simp [ha, State.warp?] at h
  | port p => simp [ha, State.warp?] at h

/-- A group put back is the only change. -/
theorem onlyGroup_setWarp {s : State} {w' : Warp} (h : s.warp? w'.agent ≠ none) : OnlyGroup s (s.setWarp w') w'.agent w' where
  itself := by rw [State.warp?_setWarp h]; simp
  others := fun b hb => by rw [State.warp?_setWarp h, if_neg hb]
  trays := by
    unfold State.setWarp
    split
    · simp only [State.modTray, List.map_map]
      apply List.map_congr_left
      intro x _
      simp only [Function.comp]
      split <;> rfl
    · rfl
    · rfl
    · rfl
  handlers := by
    unfold State.setWarp
    split
    · rfl
    · simp only [List.map_map]
      apply List.map_congr_left
      intro x _
      simp only [Function.comp]
      split <;> rfl
    · rfl
    · rfl
  rest := State.setWarp_rest s w'

/-! Lanes -/

theorem Warp.lane_setLane (w : Warp) (k j : Nat) (l : Lane) : (w.setLane k l).lane j = if j = k ∧ k < w.lanes.length then l else w.lane j := by
  simp only [Warp.lane, Warp.setLane, List.getD_eq_getElem?_getD, List.getElem?_set]
  by_cases hjk : k = j
  · subst hjk
    by_cases hlt : k < w.lanes.length <;> simp [hlt]
  · rw [if_neg hjk, if_neg fun h : j = k ∧ _ => hjk h.1.symm]

@[simp] theorem Warp.setLane_length (w : Warp) (k : Nat) (l : Lane) : (w.setLane k l).lanes.length = w.lanes.length := by simp [Warp.setLane]

/-- Lanes changed one after another: each lane of the list once, the others not. -/
theorem Warp.mapLanes_spec (ks : List Nat) (hn : ks.Nodup) (f : Nat → Lane → Lane) : ∀ w : Warp,
    (w.mapLanes ks f).lanes.length = w.lanes.length ∧ w.mapLanes ks f = { w with lanes := (w.mapLanes ks f).lanes } ∧
      ∀ j, j < w.lanes.length → (w.mapLanes ks f).lane j = if ks.contains j then f j (w.lane j) else w.lane j := by
  induction ks with
  | nil => intro w; exact ⟨rfl, rfl, fun j _ => by simp [Warp.mapLanes]⟩
  | cons k ks ih =>
    intro w
    have hk : k ∉ ks := (List.nodup_cons.mp hn).1
    obtain ⟨h1, h2, h3⟩ := ih (List.nodup_cons.mp hn).2 (w.setLane k (f k (w.lane k)))
    have hm : w.mapLanes (k :: ks) f = (w.setLane k (f k (w.lane k))).mapLanes ks f := rfl
    refine ⟨by rw [hm, h1, Warp.setLane_length], by rw [hm]; exact h2, ?_⟩
    intro j hj
    rw [hm, h3 j (by simpa using hj), Warp.lane_setLane]
    by_cases hjk : j = k
    · subst hjk
      have : ks.contains j = false := by simpa using hk
      rw [this]
      simp [hj]
    · have : (j == k) = false := by simpa using hjk
      simp only [List.contains_cons, this, Bool.false_or, hjk, false_and, if_false]

theorem Warp.front_nodup (w : Warp) : w.front.Nodup := by
  have hr : w.ready.Nodup := List.Nodup.filter _ List.nodup_range
  have he : w.eligible.Nodup := by
    unfold Warp.eligible
    split
    · exact hr.filter _
    · exact hr
  unfold Warp.front
  split
  all_goals first
    | (split <;> first | exact List.nodup_nil | exact he.filter _)
    | exact hr.filter _

theorem Warp.front_lt (w : Warp) {k : Nat} (h : k ∈ w.front) : k < w.lanes.length := by
  have hr : ∀ k, k ∈ w.ready → k < w.lanes.length := fun k hk => by
    simpa using (List.mem_filter.mp hk).1
  have he : ∀ k, k ∈ w.eligible → k < w.lanes.length := fun k hk => by
    unfold Warp.eligible at hk
    split at hk
    · exact hr k (List.mem_filter.mp hk).1
    · exact hr k hk
  unfold Warp.front at h
  split at h
  all_goals first
    | (split at h
       · simp at h
       · exact he k (List.mem_filter.mp h).1)
    | exact hr k (List.mem_filter.mp h).1

/-! The forms in which instructions act -/

theorem Warp.minPc_congr {w w' : Warp} (hl : w'.lanes = w.lanes) (ks : List Nat) : w'.minPc ks = w.minPc ks := by
  induction ks with
  | nil => rfl
  | cons k ks ih =>
    simp only [Warp.minPc, ih, Warp.lane, hl]
    split <;> rfl

/-- The front depends on the lanes, the slice and what the group waits with. -/
theorem Warp.front_congr {w w' : Warp} (hl : w'.lanes = w.lanes) (hs : w'.slice = w.slice) (hw : w'.wait = w.wait) (hf : w'.waitF = w.waitF) : w'.front = w.front := by
  have hr : w'.ready = w.ready := by simp only [Warp.ready, Warp.lane, hl]
  have he : w'.eligible = w.eligible := by simp only [Warp.eligible, hr, hs]
  have hi : w'.issueAddr = w.issueAddr := by simp only [Warp.issueAddr, he, Warp.minPc_congr hl]
  have hn : ∀ k, w'.lane k = w.lane k := fun k => by simp only [Warp.lane, hl]
  unfold Warp.front
  rw [hw, hi, he, hr, hf]
  simp only [hn]

/-- The front does not depend on the scalar registers. -/
theorem Warp.front_sreg (w : Warp) (x : List Word) : ({ w with sreg := x } : Warp).front = w.front := Warp.front_congr rfl rfl rfl rfl

theorem Warp.mem_passing {w : Warp} {g : Guard} {k : Nat} : k ∈ w.passing g ↔ k ∈ w.front ∧ (w.lane k).passes g = true := List.mem_filter

/-- Once for the group (R266): f acts if a front lane passes, and every front lane is past the word. f leaves lanes, fstat and what a group waits for alone. -/
theorem groupwise_effect {s : State} {w : Warp} {g : Guard} {f : Warp → Warp} {sreg : List Word} (hf : f w = { w with sreg := sreg }) :
    groupwise s w g f = s.setWarp ({ w with sreg := if (w.passing g).isEmpty then w.sreg else sreg }).done := by
  unfold groupwise
  split
  · rename_i h; simp [h]
  · rw [hf]

theorem Warp.done_effect (w : Warp) (g : Guard) : GroupEffect w w.done w.sreg w.fstat (stepped w g fun _ l => l) := by
  obtain ⟨h1, h2, h3⟩ := Warp.mapLanes_spec w.front w.front_nodup (fun _ l => l.advance) w
  refine ⟨?_, h1, ?_⟩
  · show (w.mapLanes w.front _).unwait = _
    rw [h2]
    rfl
  · intro k hk
    show (w.mapLanes w.front _).lane k = _
    rw [h3 k hk]
    unfold stepped
    split <;> simp

/-- The word reaches its effect. -/
theorem word_next {s : State} {w : Warp} {i : Instr} (h : Issues s w i) (k : Warp → State) : word i s k = .next (k w) := by
  unfold word
  rw [h.turn]
  simp only [Option.bind_some, h.there, h.wf, h.holds, h.known]
  rfl

/-- Without a trap, the fates of the front applied are the lanes each completed with and the flags raised. -/
theorem applyFates_done (s : State) (w : Warp) (fs : List (Nat × Lane × Nat)) :
    applyFates s w (fs.map fun p => (p.1, .done p.2.1 p.2.2)) =
      s.setWarp ((fs.foldl (fun (w : Warp) p => (w.setLane p.1 p.2.1.advance).raise p.2.2) w).unwait) := by
  unfold applyFates
  rw [List.foldl_map]
  have h : ∀ F : Nat × Fate → Option (Nat × Trap), (∀ k l fl, F (k, .done l fl) = none) →
      (fs.map fun p => (p.1, Fate.done p.2.1 p.2.2)).filterMap F = [] := by
    intro F hF
    induction fs with
    | nil => rfl
    | cons p ps ih => simp only [List.map_cons, List.filterMap_cons, hF]; exact ih
  dsimp only
  rw [h _ fun _ _ _ => rfl]
  rfl

theorem foldl_done_spec (fs : List (Nat × Lane × Nat)) : ∀ w : Warp, (fs.map Prod.fst).Nodup →
    let w' := fs.foldl (fun (w : Warp) p => (w.setLane p.1 p.2.1.advance).raise p.2.2) w
    w' = { w with lanes := w'.lanes, fstat := raised w.fstat (fs.map fun p => p.2.2) } ∧ w'.lanes.length = w.lanes.length ∧
      (∀ p ∈ fs, p.1 < w.lanes.length → w'.lane p.1 = p.2.1.advance) ∧ ∀ j, j ∉ fs.map Prod.fst → w'.lane j = w.lane j := by
  induction fs with
  | nil => intro w _; exact ⟨rfl, rfl, fun p hp => by simp at hp, fun j _ => rfl⟩
  | cons p ps ih =>
    intro w hn
    have hp : p.1 ∉ ps.map Prod.fst := (List.nodup_cons.mp hn).1
    obtain ⟨h1, h2, h3, h4⟩ := ih ((w.setLane p.1 p.2.1.advance).raise p.2.2) (List.nodup_cons.mp hn).2
    refine ⟨h1, by rw [List.foldl_cons, h2]; exact Warp.setLane_length _ _ _, ?_, ?_⟩
    · intro q hq hlt
      rcases List.mem_cons.mp hq with rfl | hq
      · rw [List.foldl_cons, h4 _ hp]
        show (w.setLane q.1 q.2.1.advance).lane q.1 = _
        rw [Warp.lane_setLane]; simp [hlt]
      · rw [List.foldl_cons]; exact h3 q hq (by simpa [Warp.raise] using hlt)
    · intro j hj
      simp only [List.map_cons, List.mem_cons, not_or] at hj
      rw [List.foldl_cons, h4 j hj.2]
      show (w.setLane p.1 p.2.1.advance).lane j = _
      rw [Warp.lane_setLane, if_neg fun h => hj.1 h.1]

/-- Lane by lane without a trap (R266): each passing front lane as f leaves it, the flags of all raised. -/
theorem lanewise_effect {s : State} {w : Warp} (h : s.warp? w.agent = some w) (g : Guard) (f : Nat → Lane → Lane) (fl : Nat → Lane → Nat) :
    ∃ w', lanewise s w g (fun k l => .done (f k l) (fl k l)) = s.setWarp w' ∧ OnlyGroup s (s.setWarp w') w.agent w' ∧
      GroupEffect w w' w.sreg (raised w.fstat (w.front.map fun k => if (w.lane k).passes g then fl k (w.lane k) else 0)) (stepped w g f) := by
  let fs : List (Nat × Lane × Nat) := w.front.map fun k =>
    (k, if (w.lane k).passes g then f k (w.lane k) else w.lane k, if (w.lane k).passes g then fl k (w.lane k) else 0)
  have hfst : fs.map Prod.fst = w.front := by simp [fs, Function.comp_def]
  have hl : lanewise s w g (fun k l => .done (f k l) (fl k l)) = applyFates s w (fs.map fun p => (p.1, .done p.2.1 p.2.2)) := by
    unfold lanewise
    congr 1
    simp only [fs, List.map_map]
    apply List.map_congr_left
    intro k _
    simp only [Function.comp]
    split <;> rfl
  obtain ⟨h1, h2, h3, h4⟩ := foldl_done_spec fs w (by rw [hfst]; exact w.front_nodup)
  refine ⟨_, by rw [hl, applyFates_done], ?_, ⟨?_, ?_, ?_⟩⟩
  · have := onlyGroup_setWarp (s := s) (w' := (fs.foldl (fun (w : Warp) p => (w.setLane p.1 p.2.1.advance).raise p.2.2) w).unwait)
    have ha : ((fs.foldl (fun (w : Warp) p => (w.setLane p.1 p.2.1.advance).raise p.2.2) w).unwait).agent = w.agent := by
      rw [h1]; rfl
    rw [ha] at this
    exact this (by rw [h]; simp)
  · conv_lhs => rw [h1]
    simp [Warp.unwait, fs, Function.comp_def]
  · exact h2
  · intro k hk
    show (fs.foldl _ w).lane k = _
    unfold stepped
    by_cases hf : k ∈ w.front
    · have hc : w.front.contains k = true := by simpa using hf
      rw [if_pos hc]
      have hm : (k, (if (w.lane k).passes g then f k (w.lane k) else w.lane k), if (w.lane k).passes g then fl k (w.lane k) else 0) ∈ fs := List.mem_map.mpr ⟨k, hf, rfl⟩
      exact h3 _ hm hk
    · have hc : w.front.contains k = false := by simpa using hf
      rw [hc, h4 k (by rw [hfst]; exact hf)]
      simp

theorem setWarp_completes {s : State} {w w' : Warp} {i : Instr} {sreg : List Word} {fstat : Word32} {lane : Nat → Lane} (h : s.warp? w.agent = some w)
    (ha : w'.agent = w.agent) (hx : exec i s = .next (s.setWarp w')) (he : GroupEffect w w' sreg fstat lane) : Completes s w i sreg fstat lane :=
  ⟨_, w', hx, by rw [← ha]; exact onlyGroup_setWarp (by rw [ha, h]; simp), he⟩

/-- An instruction that only passes: every front lane is past it and nothing else changed. -/
theorem done_completes {s : State} {w : Warp} {i : Instr} (g : Guard) (h : s.warp? w.agent = some w) (hx : exec i s = .next (s.setWarp w.done)) :
    Completes s w i w.sreg w.fstat (stepped w g fun _ l => l) := by
  have he := w.done_effect g
  exact setWarp_completes h (by rw [he.rest]) hx he

/-- The scalar form of a result. -/
theorem sset_completes {s : State} {w : Warp} {i : Instr} {g : Guard} {f : Warp → Warp} {n : Nat} {x : Word} (h : s.warp? w.agent = some w) (hf : f w = w.sset n x)
    (hx : exec i s = .next (groupwise s w g f)) :
    Completes s w i (if (w.passing g).isEmpty then w.sreg else putS w.sreg n x) w.fstat (stepped w g fun _ l => l) := by
  have hs : w.sset n x = { w with sreg := putS w.sreg n x } := by
    unfold Warp.sset putS
    by_cases hn : n = 0 <;> simp [hn]
  rw [groupwise_effect (hf.trans hs)] at hx
  have he := ({ w with sreg := if (w.passing g).isEmpty then w.sreg else putS w.sreg n x } : Warp).done_effect g
  refine setWarp_completes h (by rw [he.rest]) hx ⟨he.rest, he.count, fun k hk => ?_⟩
  rw [he.lanes k hk]
  unfold stepped
  rw [Warp.front_sreg]
  rfl

theorem raised_zeros (x : Word32) (l : List Nat) : raised x (l.map fun _ => 0) = x := by
  unfold raised
  induction l with
  | nil => rfl
  | cons a l ih => simpa using ih

/-- Only the passing lanes raise flags. -/
theorem raised_passing (w : Warp) (g : Guard) (fl : Nat → Nat) (x : Word32) :
    raised x (w.front.map fun k => if (w.lane k).passes g then fl k else 0) = raised x ((w.passing g).map fl) := by
  unfold Warp.passing
  generalize w.front = ks
  induction ks generalizing x with
  | nil => rfl
  | cons k ks ih =>
    by_cases hp : (w.lane k).passes g
    · rw [List.filter_cons_of_pos (by simpa using hp)]
      simp only [List.map_cons, hp, if_true]
      exact ih _
    · rw [List.filter_cons_of_neg (by simpa using hp)]
      have : (w.lane k).passes g = false := by simpa using hp
      simp only [List.map_cons, this, Bool.false_eq_true, if_false]
      have hz : raised x (0 :: ks.map fun k => if (w.lane k).passes g then fl k else 0) = raised x (ks.map fun k => if (w.lane k).passes g then fl k else 0) := by
        simp [raised]
      show raised x _ = _
      rw [hz]
      exact ih _

theorem lanewise_completes {s : State} {w : Warp} {i : Instr} {g : Guard} {f : Nat → Lane → Lane} (h : s.warp? w.agent = some w)
    (hx : exec i s = .next (lanewise s w g fun k l => .done (f k l) 0)) : Completes s w i w.sreg w.fstat (stepped w g f) := by
  obtain ⟨w', h1, h2, h3⟩ := lanewise_effect h g f (fun _ _ => 0)
  rw [raised_passing w g (fun _ => 0), raised_zeros] at h3
  exact ⟨_, w', by rw [hx, h1], h2, h3⟩

theorem put_eq_withV (l : Lane) (e : Ext) (n : BitVec 8) (r : Nat) : l.put e n r = l.withV e.is64 n.toNat r := by
  unfold Lane.put Lane.withV putV Lane.dset Lane.vset
  split <;> simp [Nat.shiftRight_eq_div_pow]

theorem BitVec.ofNat_of_width {n m : Nat} (h : n = m) (v : BitVec n) : BitVec.ofNat m v.toNat = v.setWidth m := by subst h; simp

theorem ext_word_sgn {e : Ext} {n : Nat} (v : BitVec n) (hn : n = if e.is64 then 64 else 32) : e.word v.toNat = if e = .sx32 then v.signExtend 64 else v.setWidth 64 := by
  cases e with
  | w64 => have : n = 64 := hn; subst this; simp [Ext.word]
  | zx32 =>
    have : n = 32 := hn; subst this
    have := v.isLt
    apply BitVec.eq_of_toNat_eq
    simp only [Ext.word, BitVec.toNat_ofNat, BitVec.toNat_setWidth, reduceCtorEq, if_false]
    omega
  | sx32 =>
    have : n = 32 := hn; subst this
    have hlt := v.isLt
    simp only [Ext.word, if_true, BitVec.signExtend]
    congr 1
    unfold signed
    rw [BitVec.toInt_eq_toNat_cond, Nat.mod_eq_of_lt hlt]
    split <;> split <;> first | rfl | (exfalso; omega)

/-- A result that raises no flag, said in bits. -/
theorem compute0_writes {s : State} {w : Warp} {i : Instr} {g : Guard} {d : Reg} {e : Ext} {f : Lane → Nat} {n : Nat} (h : s.warp? w.agent = some w)
    (hx : exec i s = .next (compute0 s w g d e f)) (sgn : Bool) (val : Lane → BitVec n) (hn : n = if e.is64 then 64 else 32) (hs : sgn = true ↔ e = .sx32 ∨ (e = .w64 ∧ sgn))
    (hv : ∀ l, f l = (val l).toNat) : Writes s w i g d sgn val := by
  have hn' : (n == 64) = e.is64 := by
    cases e <;> simp only [Ext.is64] at hn ⊢ <;> subst hn <;> rfl
  unfold Writes
  cases d with
  | v r =>
    simp only
    have hx' : exec i s = .next (lanewise s w g fun _ l => .done (l.withV (n == 64) r.toNat (val l).toNat) 0) := by
      rw [hx]
      simp only [compute0, put_eq_withV, hv, hn']
    exact lanewise_completes (f := fun _ l => l.withV (n == 64) r.toNat (val l).toNat) h hx'
  | s r =>
    simp only
    have hw : (if sgn then (val Lane.vacant).signExtend 64 else (val Lane.vacant).setWidth 64) = e.word (f Lane.vacant) := by
      rw [hv, ext_word_sgn _ hn]
      cases e with
      | sx32 => have : sgn = true := hs.mpr (.inl rfl); simp [this]
      | zx32 =>
        have : sgn = false := by
          by_contra hc
          rcases hs.mp (by simpa using hc) with h | h
          · cases h
          · cases h.1
        simp [this]
      | w64 =>
        have h64 : n = 64 := hn
        subst h64
        cases sgn <;> simp
    rw [hw]
    exact sset_completes (f := fun w => w.sset r.toNat (e.word (f Lane.vacant))) h rfl hx

/-- A predicate written lane by lane. -/
theorem computeP_writes {s : State} {w : Warp} {i : Instr} {g : Guard} {d : BitVec 3} {f : Lane → Bool × Nat} (h : s.warp? w.agent = some w)
    (hx : exec i s = .next (computeP s w g d f)) (val : Lane → Bool) (hv : ∀ l, f l = (val l, 0)) : WritesP s w i g d val := by
  apply lanewise_completes (f := fun _ l => l.setPred d (val l)) h
  rw [hx]
  simp [computeP, hv, Warp.traps]

end Sys2Proof.Machine
end

