-- ==== Sys2Proof/Laws/Memory.lean ====
section
/-!
SUPPORT. The laws of memory: every write keeps the canonical form, a read after a write to the same byte gives the byte, and a write leaves every other byte alone.
-/

namespace Sys2Proof.Machine

/-! The canonical form -/

theorem Memory.above_weaken {lo lo' : Nat} (h : lo' ≤ lo) : {m : Memory} → Memory.above lo m = true → Memory.above lo' m = true
  | [], _ => rfl
  | (k, v) :: r, hm => by
    simp only [Memory.above, Bool.and_eq_true, decide_eq_true_eq] at hm ⊢
    exact ⟨⟨by omega, hm.1.2⟩, hm.2⟩

theorem Memory.above_memPut {lo a : Nat} (b : Byte) (ha : lo ≤ a) : (m : Memory) → Memory.above lo m = true → Memory.above lo (memPut m a b) = true := by
  intro m
  induction m generalizing lo with
  | nil =>
    intro _
    simp only [memPut]
    split
    · rfl
    · rename_i hb
      simp only [Memory.above, Bool.and_eq_true, decide_eq_true_eq]
      exact ⟨⟨ha, by simpa using hb⟩, trivial⟩
  | cons c r ih =>
    obtain ⟨k, v⟩ := c
    intro h
    simp only [Memory.above, Bool.and_eq_true, decide_eq_true_eq] at h
    obtain ⟨⟨hk, hv⟩, hr⟩ := h
    simp only [memPut]
    split
    · split
      · simp only [Memory.above, Bool.and_eq_true, decide_eq_true_eq]
        exact ⟨⟨hk, hv⟩, hr⟩
      · rename_i hb
        simp only [Memory.above, Bool.and_eq_true, decide_eq_true_eq]
        refine ⟨⟨ha, by simpa using hb⟩, ⟨by omega, hv⟩, hr⟩
    · split
      · subst_vars
        split
        · exact Memory.above_weaken (by omega) hr
        · rename_i hb
          simp only [Memory.above, Bool.and_eq_true, decide_eq_true_eq]
          exact ⟨⟨hk, by simpa using hb⟩, hr⟩
      · simp only [Memory.above, Bool.and_eq_true, decide_eq_true_eq]
        exact ⟨⟨hk, hv⟩, ih (by omega) hr⟩

/-- One byte written keeps the canonical form. -/
theorem memPut_wf {m : Memory} (h : m.wf = true) (a : Nat) (b : Byte) : (memPut m a b).wf = true :=
  Memory.above_memPut b (Nat.zero_le a) m h

/-- A run of bytes written keeps the canonical form. -/
theorem memWrite_wf {m : Memory} (h : m.wf = true) (a n v : Nat) : (memWrite m a n v).wf = true := by
  induction n generalizing m a v with
  | zero => exact h
  | succ n ih => exact ih (memPut_wf h _ _) _ _

/-- A masked word written keeps the canonical form. -/
theorem memMask_wf {m : Memory} (h : m.wf = true) (a : Nat) (mask : BitVec 4) (v : Word32) : (memMask m a mask v).wf = true := by
  have step : ∀ (js : List Nat) (m : Memory), m.wf = true →
      (js.foldl (fun m j => if mask.getLsbD j then memPut m (a + j) (BitVec.ofNat 8 (bits v.toNat (8 * j) 8)) else m) m).wf = true := by
    intro js
    induction js with
    | nil => intro m h; exact h
    | cons j js ih =>
      intro m h
      refine ih _ ?_
      dsimp only
      split
      · exact memPut_wf h _ _
      · exact h
  exact step _ _ h

/-- Reset memory has the canonical form. -/
theorem reset_mem_wf : State.reset.mem.wf = true := rfl

/-! Reading what was written -/

theorem memGet_below {lo a : Nat} (ha : a < lo) : {m : Memory} → Memory.above lo m = true → memGet m a = 0
  | [], _ => rfl
  | (k, v) :: r, h => by
    simp only [Memory.above, Bool.and_eq_true, decide_eq_true_eq] at h
    simp only [memGet]
    rw [if_pos (by omega)]

theorem memGet_memPut_above {lo : Nat} (a x : Nat) (b : Byte) : (m : Memory) → Memory.above lo m = true →
    memGet (memPut m a b) x = if x = a then b else memGet m x := by
  intro m
  induction m generalizing lo with
  | nil =>
    intro _
    by_cases hb : b = 0
    · simp [memPut, hb, memGet]
    · simp only [memPut, hb, if_false, memGet]
      by_cases hx : x = a
      · simp [hx]
      · by_cases hlt : x < a <;> simp [hx, hlt]
  | cons c r ih =>
    obtain ⟨k, v⟩ := c
    intro h
    simp only [Memory.above, Bool.and_eq_true, decide_eq_true_eq] at h
    obtain ⟨⟨hk, hv⟩, hr⟩ := h
    simp only [memPut]
    by_cases h1 : a < k
    · rw [if_pos h1]
      by_cases hb : b = 0
      · rw [if_pos hb]
        by_cases hx : x = a
        · subst hx hb
          simp [memGet, h1]
        · simp [hx]
      · rw [if_neg hb]
        simp only [memGet]
        by_cases hx : x = a
        · simp [hx]
        · by_cases hlt : x < a
          · rw [if_pos hlt, if_neg hx, if_pos (by omega)]
          · simp [hlt, hx]
    · rw [if_neg h1]
      by_cases h2 : a = k
      · subst h2
        rw [if_pos rfl]
        by_cases hb : b = 0
        · rw [if_pos hb]
          by_cases hx : x = a
          · subst hx hb
            simp only [if_true]
            exact memGet_below (by omega) hr
          · simp only [hx, if_false, memGet]
            by_cases hlt : x < a
            · rw [if_pos hlt]; exact memGet_below (by omega) hr
            · rw [if_neg hlt]
        · rw [if_neg hb]
          simp only [memGet]
          by_cases hx : x = a
          · simp [hx]
          · simp [hx]
      · rw [if_neg h2]
        simp only [memGet]
        by_cases hx : x = a
        · subst hx
          simp only [if_neg h1, if_neg h2, if_true]
          rw [ih hr]; simp
        · by_cases hlt : x < k
          · simp [hlt, hx]
          · by_cases hxk : x = k
            · subst hxk; simp [hx]
            · simp only [if_neg hlt, if_neg hxk, if_neg hx]
              rw [ih hr]; simp [hx]

/-- A read after a write: the byte written, and every other byte as before. -/
theorem memGet_memPut {m : Memory} (h : m.wf = true) (a x : Nat) (b : Byte) : memGet (memPut m a b) x = if x = a then b else memGet m x :=
  memGet_memPut_above (lo := 0) a x b m h

/-- A run of bytes written leaves the bytes outside it alone. -/
theorem memGet_memWrite_out {m : Memory} (h : m.wf = true) (a n v x : Nat) (hx : x < a ∨ a + n ≤ x) : memGet (memWrite m a n v) x = memGet m x := by
  induction n generalizing m a v with
  | zero => rfl
  | succ n ih =>
    simp only [memWrite]
    rw [ih (memPut_wf h _ _) _ _ (by omega), memGet_memPut h, if_neg (by omega)]

/-- A run of bytes read after it was written. -/
theorem memRead_memWrite {m : Memory} (h : m.wf = true) (a n v : Nat) : memRead (memWrite m a n v) a n = v % 256 ^ n := by
  induction n generalizing m a v with
  | zero => simp [memRead, Nat.mod_one]
  | succ n ih =>
    simp only [memRead, memWrite]
    rw [ih (memPut_wf h _ _), memGet_memWrite_out (memPut_wf h _ _) _ _ _ _ (by omega), memGet_memPut h, if_pos rfl]
    have h1 : (BitVec.ofNat 8 (v % 256)).toNat = v % 256 := by simp
    rw [h1, Nat.pow_succ, Nat.mul_comm (256 ^ n) 256, Nat.mod_mul]

/-- Equal memories in canonical form: the same bytes everywhere mean the same list. -/
theorem memory_ext_above {lo : Nat} : {m m' : Memory} → Memory.above lo m = true → Memory.above lo m' = true → (∀ x, memGet m x = memGet m' x) → m = m'
  | [], [], _, _, _ => rfl
  | [], (k, v) :: r, _, h, e => by
    simp only [Memory.above, Bool.and_eq_true, decide_eq_true_eq] at h
    have := e k
    simp only [memGet, lt_irrefl, if_false, if_true] at this
    simp [← this] at h
  | (k, v) :: r, [], h, _, e => by
    simp only [Memory.above, Bool.and_eq_true, decide_eq_true_eq] at h
    have := e k
    simp only [memGet, lt_irrefl, if_false, if_true] at this
    simp [this] at h
  | (k, v) :: r, (k', v') :: r', h, h', e => by
    simp only [Memory.above, Bool.and_eq_true, decide_eq_true_eq] at h h'
    have hk : k = k' := by
      rcases Nat.lt_trichotomy k k' with hlt | heq | hgt
      · have := e k
        simp only [memGet, lt_irrefl, if_false, if_true, hlt] at this
        simp [this] at h
      · exact heq
      · have := e k'
        simp only [memGet, lt_irrefl, if_false, if_true, hgt] at this
        simp [← this] at h'
    subst hk
    have hv : v = v' := by
      have := e k
      simpa [memGet] using this
    subst hv
    have hr : r = r' := by
      refine memory_ext_above h.2 h'.2 fun x => ?_
      by_cases hx : k < x
      · have := e x
        simp only [memGet, if_neg (Nat.lt_asymm hx), if_neg (Nat.ne_of_gt hx)] at this
        exact this
      · rw [memGet_below (by omega) h.2, memGet_below (by omega) h'.2]
    rw [hr]

/-- Memories in canonical form that read alike are equal. -/
theorem memory_ext {m m' : Memory} (h : m.wf = true) (h' : m'.wf = true) (e : ∀ x, memGet m x = memGet m' x) : m = m' :=
  memory_ext_above (lo := 0) h h' e

end Sys2Proof.Machine
end

