-- ==== Sys2Proof/Tests/Slice0.lean ====
section
/-!
SUPPORT. Tests: the checks of WellFormed, words decoded, single steps whose results are the manual's, and for the statements a state and operands that meet their hypotheses.
-/

namespace Sys2Proof.Tests

open Machine

-- The kernel evaluations one after another, each on the one thread.
set_option Elab.async false

/-! A small machine: one launch, one tray, one group of two lanes with 16 vector registers -/

/-- A guard that lets every lane pass. -/
def all : Guard := ⟨false, 7⟩

/-- A lane with its registers v0, v1, … given, in the body of the block at 0x100000. -/
def lane (id : Nat) (v : List Nat) : Lane :=
  { Lane.vacant with
    st := .ready
    pc := 0x100008
    frame := .body 0x100000 1 true
    v := (v ++ List.replicate (16 - v.length) 0).map (BitVec.ofNat 32)
    ident := BitVec.ofNat 16 id }

/-- A group with its scalar registers s0, s1, … and its lanes given. -/
def group (s : List Nat) (ls : List Lane) : Warp :=
  { Warp.fresh (.group 0 0 0) 16 ls ((s ++ List.replicate (64 - s.length) 0).map (BitVec.ofNat 64)) with mreg := List.replicate 8 0 }

/-- The launch of a placed word, with a header at 0x100000 and the word nop after it. -/
def launch : Launch :=
  { wordLaunch 0 with code := memWrite (memWrite [] 0x100000 8 0xFF01100000000001) 0x100008 8 0x0170000000000000 }

/-- A machine with its tray given, in which a group is about to have an instruction executed. -/
def machineT (w : Warp) (t : Tray) : State := { State.reset.placeWord 0 with launches := [launch], trays := [{ t with warps := [w] }], turn := some w.agent }

/-- The same with the tray of a placed word. -/
def machine (w : Warp) : State := machineT w (wordTray 0)

/-- Issues, as a computation. -/
def issuesB (s : State) (w : Warp) (i : Instr) : Bool :=
  s.turn == some w.agent && s.warp? w.agent == some w && i.wf && i.opnds.all w.holds && !i.opnds.any w.pendingOpnd

theorem issues_of {s : State} {w : Warp} {i : Instr} (h : issuesB s w i = true) : Issues s w i := by
  simp only [issuesB, Bool.and_eq_true, beq_iff_eq, Bool.not_eq_true'] at h
  exact ⟨h.1.1.1.1, h.1.1.1.2, h.1.1.2, h.1.2, h.2⟩

theorem issues_all {s : State} {w : Warp} {l : List Instr} (h : (l.all (issuesB s w)) = true) : ∀ i ∈ l, Issues s w i :=
  fun i hi => issues_of (List.all_eq_true.1 h i hi)

/-- Lanes in turn, as a computation. -/
def runTurn (f : State → Nat → Option (State × Nat)) : State → List Nat → Option (State × List Nat)
  | s, [] => some (s, [])
  | s, k :: ks => (f s k).bind fun r => (runTurn f r.1 ks).map fun q => (q.1, r.2 :: q.2)

theorem inTurn_of {P : State → Nat → State → Nat → Prop} {f : State → Nat → Option (State × Nat)} (hf : ∀ s k s' v, f s k = some (s', v) → P s k s' v) :
    ∀ {ks s s' vs}, runTurn f s ks = some (s', vs) → InTurn P s ks s' vs
  | [], s, s', vs, h => by simp only [runTurn, Option.some.injEq, Prod.mk.injEq] at h; obtain ⟨rfl, rfl⟩ := h; exact .nil _
  | k :: ks, s, s', vs, h => by
    simp only [runTurn, Option.bind_eq_some_iff, Option.map_eq_some_iff] at h
    obtain ⟨⟨s1, v⟩, h1, ⟨s2, ws⟩, h2, h3⟩ := h
    simp only [Prod.mk.injEq] at h3
    obtain ⟨rfl, rfl⟩ := h3
    exact .cons (hf _ _ _ _ h1) (inTurn_of hf h2)

/-- The group of most tests: s1 = 5, s2 = 0x100000; v0 = 7 and 9, v2 = 64 and 128. -/
def g2 : Warp := group [0, 5, 0x100000] [lane 0 [7, 3, 64], lane 1 [9, 4, 128]]
/-- Its machine. -/
def m2 : State := machine g2

theorem ok_of {ε α : Type} {x : Except ε α} (h : x.isOk = true) : ∃ a, x = .ok a := by
  cases x with
  | error e => cases h
  | ok a => exact ⟨a, rfl⟩

theorem ex_of {ε α : Type} {x : Except ε α} (Q : α → Prop) (B : α → Bool) (hB : ∀ a, B a = true → Q a) (h : (match x with | .ok a => B a | .error _ => false) = true) : ∃ a, x = .ok a ∧ Q a := by
  cases x with
  | error e => cases h
  | ok a => exact ⟨a, rfl, hB a h⟩

theorem some_of {α : Type} {x : Option α} (h : x.isSome = true) : ∃ a, x = some a := Option.isSome_iff_exists.1 h

theorem inTurn_ex {P : State → Nat → State → Nat → Prop} {f : State → Nat → Option (State × Nat)} (hf : ∀ s k s' v, f s k = some (s', v) → P s k s' v)
    {ks : List Nat} {s : State} (h : (runTurn f s ks).isSome = true) : ∃ s' vs, InTurn P s ks s' vs := by
  obtain ⟨⟨s', vs⟩, e⟩ := some_of h
  exact ⟨s', vs, inTurn_of hf e⟩

theorem bits32 (p : Nat → Bool) : ∃ x : BitVec 32, ∀ j, j < 32 → x.getLsbD j = p j :=
  ⟨BitVec.ofFnLE fun i : Fin 32 => p i, fun j hj => by simp [hj]⟩


/-! States that meet the hypotheses of the statements -/

theorem witness_ArithmeticLogicShifts : ∀ i ∈ [
    Instr.add all .i32 (.v 4) (.v 0) (.imm 1), .div all .i64 (.s 3) (.s 1) (.s 2), .addi all .n32 (.s 3) (.s 1) 9, .abs all .i32 (.v 4) (.v 0), .clamp all .i32 (.v 4) (.v 0) (.imm 0) (.s 1),
    .mov all .b64 (.v 4) (.v 0), .movi all .i64 (.s 3) 7, .movih all (.v 4) 7, .shl all .b32 (.v 4) (.v 0) (.imm 32), .sari all .b64 (.s 3) (.s 1) 64], Issues m2 g2 i :=
  issues_all (by decide +kernel)

theorem witness_BitFieldsAndWidths : (∀ i ∈ [Instr.bfe all .n32 (.v 4) (.v 0) (.imm 4) (.imm 8), .bfi all .b32 (.v 4) (.v 0) (.imm 4) (.imm 8), .popc all .b32 (.v 4) (.v 0), .clz all .b64 (.s 3) (.s 1),
      .ctz all .b32 (.v 4) (.v 0), .brev all .b32 (.v 4) (.v 0), .bswap all .b32 (.v 4) (.v 0), .cvti all .i32 .i8 false (.v 4) (.v 0), .lea all 2 (.v 4) (.s 1) (.v 0)], Issues m2 g2 i) ∧
    (∃ f : Lane → BitVec 32, ∀ l, (f l).toNat = (((List.range 32).filter fun k => (opd g2 l 32 (.v 0)).getLsbD k)).length) ∧
    (∃ f : Lane → BitVec 32, ∀ l k, k < 32 → (f l).getLsbD (31 - k) = (opd g2 l 32 (.v 0)).getLsbD k) := by
  refine ⟨issues_all (by decide +kernel), ⟨fun l => BitVec.ofNat 32 ((List.range 32).filter fun k => (opd g2 l 32 (.v 0)).getLsbD k).length, fun l => ?_⟩,
    ⟨fun l => (opd g2 l 32 (.v 0)).reverse, fun l k hk => ?_⟩⟩
  · rw [BitVec.toNat_ofNat, Nat.mod_eq_of_lt]
    exact lt_of_le_of_lt (List.length_filter_le _ _) (by simp)
  · rw [BitVec.getLsbD_reverse, BitVec.getMsbD_eq_getLsbD]
    simp [show 31 - k < 32 by omega, show 32 - 1 - (31 - k) = k by omega]

theorem witness_PredicatesAndSelection : ∀ i ∈ [
    Instr.setp all .lt (.and 2) .i32 1 (.v 0) (.v 1), .setp all .lt .none .n64 7 (.s 1) (.imm 0), .setpi all .geu 1 (.v 0) 8, .pset all .not 3 7 0, .sel all .b32 4 (.v 0) (.imm 0) 3,
    .smov all .b32 9 0 none, .smov all .b32 9 0 (some (.imm 31))], Issues m2 g2 i :=
  issues_all (by decide +kernel)

/-- The group with all enables of fstat set. -/
def enabled : Warp := { group [] [lane 0 [0x3F800000, 0x3F800000], lane 1 [0x7F7FFFFF, 0x7F7FFFFF]] with fstat := 0x1F00 }
/-- A machine whose tray has a handler vector. -/
def handled (w : Warp) : State := machineT w { wordTray 0 with hvec := 0x100000 }

theorem witness_FloatResults : (∀ i ∈ [Instr.fadd all .f32 .rne (.v 4) (.v 0) (.v 1), .fma all .f64 .rz (.v 4) (.v 0) (.v 2) (.s 1), .fneg all .f64 (.v 6) (.v 6), .fclass all .f32 (.v 4) (.v 0),
      .fmovi all .f32 (.v 1) 0x3FC00000, .fdot2 all true .rne (.v 9) (.v 4) (.v 5) (.v 9), .fsetp all .lt (.or 1) .f32 2 (.v 0) (.v 1)], Issues m2 g2 i) ∧
    (∀ x : Nat, ∀ k ∈ g2.passing all, bits g2.fstat.toNat 8 5 &&& x = 0) :=
  ⟨issues_all (by decide +kernel), fun _ _ _ => Nat.zero_and _⟩

theorem witness_ArithmeticIsCorrectlyRounded : ∃ a b : ℚ, valQ .f32 0x3F800001 = some a ∧ valQ .f32 0x40000000 = some b ∧ b ≠ 0 := by
  have h1 : FFmt.f32.dec 0x3F800001 = .fin false 0x800001 (-23) := by decide +kernel
  have h2 : FFmt.f32.dec 0x40000000 = .fin false 0x800000 (-22) := by decide +kernel
  exact ⟨_, _, by rw [valQ, h1], by rw [valQ, h2], by norm_num⟩

theorem witness_SpecialCasesOfArithmetic : (FFmt.f32.dec 0x7F800001).isNan = true ∧ (FFmt.f32.dec 0).isNan = false ∧ FFmt.f32.dec 0x7F800000 = .inf false ∧ FFmt.f32.dec 0xFF800000 = .inf true ∧
    (FFmt.f32.dec 0x80000000).isZero = true ∧ FFmt.f32.dec 1 = .fin false 1 (-149) := by decide +kernel

theorem witness_EnabledFlagTrapsItsLanes : let i := Instr.fadd all .f32 .rne (.v 4) (.v 0) (.v 1)
    Issues (handled enabled) enabled i ∧ enabled.agent = .group 0 0 0 ∧ ∃ tr, (handled enabled).tray? 0 0 = some tr ∧ tr.hvec ≠ 0 ∧
      (1 ∈ enabled.passing all ∧ bits enabled.fstat.toNat 8 5 &&& (FFmt.f32.add .rne 0x7F7FFFFF 0x7F7FFFFF).2 ≠ 0) ∧ rdF enabled (enabled.lane 1) .f32 (.v 0) = 0x7F7FFFFF :=
  ⟨issues_of (by decide +kernel), rfl, _, rfl, by decide +kernel, by decide +kernel, by decide +kernel⟩

theorem witness_ConversionsAndFunctions : (∀ i ∈ [Instr.exp2 all .rne (.v 4) (.v 0), .cvt all .e4m3 .f32 false (.mode .rne) (.v 3) (.v 2), .cvt all .e4m3 .f32 true (.rsto (.s 1) (.v 1)) (.v 3) (.v 2),
      .cvtblk all .mxi8 .f32 (.mode .rne) (.v 4) (.v 0) (.s 1), .cvtblk all .e4m3 .bf16 (.rsto (.s 2)) (.s 4) (.s 0) (.s 1), .cvtsc all .e4m3 .f32 3 (.v 0), .pack all .e2m3 4 (.v 0), .unpack all .i4 4 (.v 0)],
      Issues m2 g2 i) ∧ (g2.passing all).isEmpty = false ∧ (∀ x : Nat, bits g2.fstat.toNat 8 5 &&& x = 0) ∧
    (∃ f : Nat → BitVec 32, ∀ k j, j < 32 → (f k).getLsbD j = (if (32 * k + j) / 4 ∈ g2.passing all then opd g2 (g2.lane ((32 * k + j) / 4)) 32 (.v 0) else 0).getLsbD ((32 * k + j) % 4)) := by
  choose f hf using fun k => bits32 fun j => (if (32 * k + j) / 4 ∈ g2.passing all then opd g2 (g2.lane ((32 * k + j) / 4)) 32 (.v 0) else 0).getLsbD ((32 * k + j) % 4)
  exact ⟨issues_all (by decide +kernel), by decide +kernel, fun _ => Nat.zero_and _, f, hf⟩

theorem witness_CrossLaneResults : (∀ i ∈ [Instr.shfl all .b32 .xor 5 (.v 0) (.imm 1) 2, .vote all .any 1 2, .ballot all (.s 3) 7, .matchLanes all none .b32 4 (.v 0), .matchLanes all (some 1) .b32 4 (.v 0),
      .leaven all true (.v 4) (.v 0) (.v 1), .reduce all .add .i32 .rne (.v 4) (.v 0), .reduce all .min .n32 .rne (.s 3) (.v 0), .scan all .add true .n32 .rne 4 (.v 0), .sample all (.s 3) (.v 0) (.v 1) 1], Issues m2 g2 i) ∧
    contributions g2 all .i32 (.v 0) = [7, 9] ∧ bits g2.fstat.toNat 8 5 &&& stepFlags .add .i32 .rne 7 [9] = 0 ∧
    SourceLane g2 .xor 0 1 1 := by
  exact ⟨issues_all (by decide +kernel), by decide +kernel, by decide +kernel, by decide +kernel, by decide +kernel, by decide +kernel, by decide +kernel⟩

/-! Memory -/

/-- LoadOne, as a computation. -/
def loadB (w : Warp) (spc : Space) (width : Nat) (addr : Lane → Nat) (mask : Nat → Word32) (s : State) (k : Nat) : Option (State × Nat) :=
  match s.check w k spc .load false true (addr (w.lane k)) width mask with
  | .error _ => none
  | .ok (t, s1) =>
    let r := s1.readAt w.agent t width true
    if t.fab.all (fun fa => s.side fa == .served) && !r.1.poison then some (r.2.sampled w k t 1 (s1.servedBy w.agent t), r.1.val) else none

theorem served_of {s : State} {o : Option Nat} (h : o.all (fun fa => s.side fa == .served) = true) : ∀ fa, o = some fa → s.side fa = .served := by
  rintro fa rfl
  simpa using h

theorem loadB_ok {w : Warp} {spc : Space} {width : Nat} {addr : Lane → Nat} {mask : Nat → Word32} (s : State) (k : Nat) (s' : State) (v : Nat)
    (h : loadB w spc width addr mask s k = some (s', v)) : LoadOne w spc width addr mask s k s' v := by
  simp only [loadB] at h
  split at h
  · cases h
  · rename_i t s1 hc
    split at h
    · rename_i hb
      simp only [Bool.and_eq_true, Bool.not_eq_true'] at hb
      simp only [Option.some.injEq, Prod.mk.injEq] at h
      exact ⟨t, s1, hc, served_of hb.1, hb.2, h.2.symm, h.1.symm⟩
    · cases h

/-- StoreOne, as a computation. -/
def storeB (w : Warp) (spc : Space) (width : Nat) (addr : Lane → Nat) (mask : Nat → Word32) (get : Lane → Nat) (s : State) (k : Nat) : Option (State × Nat) :=
  match s.check w k spc .store false true (addr (w.lane k)) width mask with
  | .error _ => none
  | .ok (t, s1) => some (((s1.storeAt w.agent (w.lane k) k t (get (w.lane k))).publishFor w.agent spc).sampled w k t 2 (s1.servedBy w.agent t), 0)

theorem storeB_ok {w : Warp} {spc : Space} {width : Nat} {addr : Lane → Nat} {mask : Nat → Word32} {get : Lane → Nat} (s : State) (k : Nat) (s' : State) (v : Nat)
    (h : storeB w spc width addr mask get s k = some (s', v)) : StoreOne w spc width addr mask get s k s' v := by
  simp only [storeB] at h
  split at h
  · cases h
  · rename_i t s1 hc
    simp only [Option.some.injEq, Prod.mk.injEq] at h
    exact ⟨t, s1, hc, h.1.symm⟩

/-- ReleaseOne, as a computation. -/
def releaseB (w : Warp) (spc : Space) (width : Nat) (sc : Scope) (addr : Lane → Nat) (mask : Nat → Word32) (get : Lane → Nat) (s : State) (k : Nat) : Option State :=
  match s.check w k spc .store false false (addr (w.lane k)) width mask with
  | .error _ => none
  | .ok (t, s1) =>
    let op := writeOp (w.lane k) k t (get (w.lane k))
    match s1.roomFor op with
    | none => none
    | some s2 =>
      if ((s.warp? w.agent).bind Warp.dsr).isNone && !(s.ord w.agent).hasWrite && (s1.writeInHold op).isNone && (s1.writeFails op).isNone && (s1.writeAbsent op).isNone then
        some ((((s2.walkLines op).push w.agent (.release sc (some op)) true).publishFor w.agent spc).sampled w k t 2 (s1.servedBy w.agent t)) else none

theorem releaseB_ok {w : Warp} {spc : Space} {width : Nat} {sc : Scope} {addr : Lane → Nat} {mask : Nat → Word32} {get : Lane → Nat} {s : State} {k : Nat}
    (h : (releaseB w spc width sc addr mask get s k).isSome = true) : ∃ s', ReleaseOne w spc width sc addr mask get s k s' := by
  obtain ⟨s', h⟩ := some_of h
  simp only [releaseB] at h
  split at h
  · cases h
  · rename_i t s1 hc
    split at h
    · cases h
    · rename_i s2 hr
      split at h
      · rename_i hb
        simp only [Bool.and_eq_true, Bool.not_eq_true', Option.isNone_iff_eq_none] at hb
        simp only [Option.some.injEq] at h
        exact ⟨s', t, s1, s2, hc, hb.1.1.1.1, hb.1.1.1.2, hb.1.1.2, hb.1.2, hb.2, hr, h.symm⟩
      · cases h

/-- AcquireOne, as a computation. -/
def acquireB (w : Warp) (spc : Space) (width : Nat) (sc : Scope) (addr : Lane → Nat) (mask : Nat → Word32) (s : State) (k : Nat) : Option (State × Nat) :=
  match s.check w k spc .load false false (addr (w.lane k)) width mask with
  | .error _ => none
  | .ok (t, s1) =>
    let r := s1.readAt w.agent t width false
    if t.fab.all (fun fa => s.side fa == .served) && !r.1.poison && !(s.ord w.agent).hasRelease && (s.who w.agent).mode == 0 then
      some ((r.2.acquire w.agent sc (if (s1.verName (r.1.vers.headD ⟨0, none, .init, false⟩)).2.2 then [] else r.1.pubs)).sampled w k t 1 (s1.servedBy w.agent t), r.1.val) else none

theorem acquireB_ok {w : Warp} {spc : Space} {width : Nat} {sc : Scope} {addr : Lane → Nat} {mask : Nat → Word32} (s : State) (k : Nat) (s' : State) (v : Nat)
    (h : acquireB w spc width sc addr mask s k = some (s', v)) : AcquireOne w spc width sc addr mask s k s' v := by
  simp only [acquireB] at h
  split at h
  · cases h
  · rename_i t s1 hc
    split at h
    · rename_i hb
      simp only [Bool.and_eq_true, Bool.not_eq_true', beq_iff_eq] at hb
      simp only [Option.some.injEq, Prod.mk.injEq] at h
      exact ⟨hb.1.2, hb.2, t, s1, hc, served_of hb.1.1.1, hb.1.1.2, h.2.symm, h.1.symm⟩
    · cases h

/-- The address operands v2 + s0 and s2 + v2. -/
def at2 : MemOpd := ⟨.v 2, .s 0, 0⟩
/-- A global address: s2 holds 0x100000, in the range of the machine. -/
def atG : MemOpd := ⟨.s 2, .v 2, 0⟩

/-- A group of one lane. -/
def oneLane : Warp := group [0, 5, 0x100000] [lane 0 [7, 3, 64]]

theorem translated_m2 (fa : Nat) : m2.translated fa = false := by
  simp [State.translated, show bit m2.regs.mtRoot.toNat 0 = false by decide +kernel]

theorem witness_LoadsAndStoresComplete :
    (Issues m2 g2 (.ld all .sp .n32 4 at2) ∧ m2.haltWatch g2 all .sp .load false 4 (fun l => ea g2 l .sp at2 4) = none ∧
      ∃ s' vs, InTurn (LoadOne g2 .sp 4 (fun l => ea g2 l .sp at2 4) (m2.boundMask g2 all .sp 4 fun l => ea g2 l .sp at2 4)) m2 (g2.passing all) s' vs) ∧
    (Issues m2 g2 (.ld all .g .n64 4 atG) ∧ ∃ s' vs, InTurn (LoadOne g2 .g 8 (fun l => ea g2 l .g atG 8) (m2.boundMask g2 all .g 8 fun l => ea g2 l .g atG 8)) m2 (g2.passing all) s' vs) ∧
    (Issues m2 g2 (.st all .g .n64 4 atG) ∧ m2.haltWatch g2 all .g .store false 8 (fun l => ea g2 l .g atG 8) = none ∧
      ∃ s' vs, InTurn (StoreOne g2 .g 8 (fun l => ea g2 l .g atG 8) (m2.boundMask g2 all .g 8 fun l => ea g2 l .g atG 8) fun l => l.storeVal 4 8) m2 (g2.passing all) s' vs) ∧
    (Issues m2 g2 (.ldacq all .g .n32 .device 4 atG) ∧
      ∃ s' vs, InTurn (AcquireOne g2 .g 4 .device (fun l => ea g2 l .g atG 4) (m2.boundMask g2 all .g 4 fun l => ea g2 l .g atG 4)) m2 (g2.passing all) s' vs) ∧
    (let s0 := m2.publish g2.agent;
      let addr := fun l => ea g2 l .g atG 4
      let mask := s0.boundMask g2 all .g 4 addr
      Issues m2 g2 (.strel all .g .n32 .device 4 atG) ∧ m2.haltWatch g2 all .g .store false 4 addr = none ∧ g2.passing all = [0, 1] ∧
      ((releaseB g2 .g 4 .device addr mask (fun l => l.storeVal 4 4) s0 0).all fun s' => (s'.check g2 1 .g .store false false (addr (g2.lane 1)) 4 mask).isOk) = true ∧
      ∃ s', ReleaseOne g2 .g 4 .device addr mask (fun l => l.storeVal 4 4) s0 0 s') ∧
    (let s0 := (machine oneLane).publish oneLane.agent;
      let addr := fun l => ea oneLane l .g atG 4
      Issues (machine oneLane) oneLane (.strel all .g .n32 .device 4 atG) ∧ (machine oneLane).haltWatch oneLane all .g .store false 4 addr = none ∧ oneLane.passing all = [0] ∧
      ∃ s', ReleaseOne oneLane .g 4 .device addr (s0.boundMask oneLane all .g 4 addr) (fun l => l.storeVal 4 4) s0 0 s') ∧
    oneLane.passing ⟨true, 6⟩ = [0] ∧ oneLane.passing ⟨false, 6⟩ = [] ∧ (∀ fa, m2.translated fa = false) :=
  ⟨⟨issues_of (by decide +kernel), by decide +kernel, inTurn_ex loadB_ok (by decide +kernel)⟩, ⟨issues_of (by decide +kernel), inTurn_ex loadB_ok (by decide +kernel)⟩,
    ⟨issues_of (by decide +kernel), by decide +kernel, inTurn_ex storeB_ok (by decide +kernel)⟩, ⟨issues_of (by decide +kernel), inTurn_ex acquireB_ok (by decide +kernel)⟩,
    ⟨issues_of (by decide +kernel), by decide +kernel, by decide +kernel, by decide +kernel, releaseB_ok (by decide +kernel)⟩,
    ⟨issues_of (by decide +kernel), by decide +kernel, by decide +kernel, releaseB_ok (by decide +kernel)⟩, by decide +kernel, by decide +kernel, translated_m2⟩

/-- The group with m3: BASE 0, SIZE 4 units of 16 bytes, OFF 16, INC 4. -/
def ring : Warp := { g2 with mreg := (List.replicate 8 0).set 3 (BitVec.ofNat 64 (4 * 2 ^ 15 + 16 * 2 ^ 30 + 4 * 2 ^ 49)) }

theorem witness_CircularBuffers :
    (let r := ring.mreg.getD 3 0
      let size := 16 * ((r.toNat / 2 ^ 15) % 2 ^ 15)
      let off := (r.toNat / 2 ^ 30) % 2 ^ 19
      let addr := fun (l : Lane) => 16 * (r.toNat % 2 ^ 15) + (off + (opd ring l 32 (.imm 0)).toNat) % size
      off < size ∧ (ring.passing all).isEmpty = false ∧
      (Issues (machine ring) ring (.ldm all .n32 4 3 (.imm 0)) ∧ ∃ s' vs, InTurn (LoadOne ring .sp 4 addr ((machine ring).boundMask ring all .sp 4 addr)) (machine ring) (ring.passing all) s' vs) ∧
      (Issues (machine ring) ring (.stm all .n32 4 3 (.imm 0)) ∧
        ∃ s' vs, InTurn (StoreOne ring .sp 4 addr ((machine ring).boundMask ring all .sp 4 addr) fun l => l.storeVal 4 4) (machine ring) (ring.passing all) s' vs)) ∧
    (∀ i ∈ [Instr.mset all 3 (.s 1), .mget all 4 3, .ldm all .n32 4 2 (.imm 0), .stm all .n32 4 2 (.imm 0)], Issues (machine ring) ring i) ∧ ring.mreg.getD 2 0 = 0 :=
  ⟨⟨by decide +kernel, by decide +kernel, ⟨issues_of (by decide +kernel), inTurn_ex loadB_ok (by decide +kernel)⟩, ⟨issues_of (by decide +kernel), inTurn_ex storeB_ok (by decide +kernel)⟩⟩,
    issues_all (by decide +kernel), by decide +kernel⟩

/-- AtomicOne, as a computation. -/
def atomicB (w : Warp) (spc : Space) (width : Nat) (addr : Lane → Nat) (mask : Nat → Word32) (ret flt : Bool) (o : AtomOrd) (upd : Lane → Nat → Option Nat) (s : State) (k : Nat) : Option (State × Nat) :=
  match s.check w k spc (if ret then .atom else .red) flt false (addr (w.lane k)) width mask with
  | .error _ => none
  | .ok (t, s1) =>
    let r := s1.readAt w.agent t width false
    match upd (w.lane k) r.1.val with
    | none => none
    | some x => match r.2.roomFor (writeOp (w.lane k) k t x) with
      | none => none
      | some s2 =>
        if (s.who w.agent).mode == 0 && !s.pendingAt w.agent t && (!o.rel.isSome || (s.ord w.agent).outbox == []) && (!o.acq.isSome || !(s.ord w.agent).hasRelease) &&
            t.fab.all (fun fa => s.side fa == .served) && t.fab.all (fun fa => s.redFails fa == none) && !r.1.poison then
          let rel := match o.rel with
            | some sc => (Pub.rel (s2.releaseNow w.agent sc).1, (s2.releaseNow w.agent sc).2.closeRegion w.agent ((s2.releaseNow w.agent sc).2.ord w.agent).region)
            | none => (Pub.none, s2)
          let s3 := rel.2.applyAt w.agent (writeOp (w.lane k) k t x) rel.1 none
          let s4 := match o.acq with
            | some sc => s3.acquire w.agent sc r.1.pubs
            | none => s3
          some (((s4.crossAtom w.agent (w.lane k) k t width ret).publishFor w.agent spc).sampled w k t 3 (s1.servedBy w.agent t), r.1.val) else none

theorem atomicB_ok {w : Warp} {spc : Space} {width : Nat} {addr : Lane → Nat} {mask : Nat → Word32} {ret flt : Bool} {o : AtomOrd} {upd : Lane → Nat → Option Nat} (s : State) (k : Nat) (s' : State) (v : Nat)
    (h : atomicB w spc width addr mask ret flt o upd s k = some (s', v)) : AtomicOne w spc width addr mask ret flt o upd s k s' v := by
  simp only [atomicB] at h
  split at h
  · cases h
  · rename_i t s1 hc
    split at h
    · cases h
    · rename_i x hx
      split at h
      · cases h
      · rename_i s2 hr
        split at h
        · rename_i hb
          simp only [Bool.and_eq_true, Bool.or_eq_true, Bool.not_eq_true', beq_iff_eq] at hb
          obtain ⟨⟨⟨⟨⟨⟨h1, h2⟩, h3⟩, h4⟩, h5⟩, h6⟩, h7⟩ := hb
          simp only [Option.some.injEq, Prod.mk.injEq] at h
          refine ⟨h1, t, s1, s2, hc, h2, fun ho => ?_, fun ho => ?_, fun fa e => ⟨served_of h5 fa e, fun _ => ?_⟩, h7, h.2.symm, ?_, ?_⟩
          · simpa [ho] using h3
          · simpa [ho] using h4
          · rw [e] at h6; simpa using h6
          · simp only [hx, Option.map_some, hr]
          · simp only [hx, Option.map_some]; exact h.1.symm
        · cases h

theorem witness_AtomicsComplete :
    (Issues m2 g2 (.atom all .add none .g .n32 4 atG) ∧ m2.haltWatch g2 all .g .atom false 4 (fun l => ea g2 l .g atG 4) = none ∧
      ∃ s' vs, InTurn (AtomicOne g2 .g 4 (fun l => ea g2 l .g atG 4) (m2.boundMask g2 all .g 4 fun l => ea g2 l .g atG 4) true false ⟨none, none⟩
        fun l old => some (atomNew .add .n32 old (l.storeVal 4 4))) m2 (g2.passing all) s' vs) ∧
    (Issues m2 g2 (.red all .max none .sp .i32 4 at2) ∧ m2.haltWatch g2 all .sp .red false 4 (fun l => ea g2 l .sp at2 4) = none ∧
      ∃ s' vs, InTurn (AtomicOne g2 .sp 4 (fun l => ea g2 l .sp at2 4) (m2.boundMask g2 all .sp 4 fun l => ea g2 l .sp at2 4) false false ⟨none, none⟩
        fun l old => some (atomNew .max .i32 old (l.storeVal 4 4))) m2 (g2.passing all) s' vs) ∧
    (let s0 := (machine oneLane).publish oneLane.agent;
      Issues (machine oneLane) oneLane (.atom all .exch (some .device) .g .n32 4 atG) ∧ (machine oneLane).haltWatch oneLane all .g .atom false 4 (fun l => ea oneLane l .g atG 4) = none ∧ oneLane.dsr = none ∧
      ((machine oneLane).ord oneLane.agent).hasWrite = false ∧
      ∃ s' vs, InTurn (AtomicOne oneLane .g 4 (fun l => ea oneLane l .g atG 4) (s0.boundMask oneLane all .g 4 fun l => ea oneLane l .g atG 4) true false ⟨some .device, some .device⟩
        fun l old => some (atomNew .exch .n32 old (l.storeVal 4 4))) s0 (oneLane.passing all) s' vs) ∧
    (Issues m2 g2 (.cas all .none .sp .b32 4 (.v 2) 0 (.v 5)) ∧ m2.haltWatch g2 all .sp .atom false 4 (fun l => eaCas g2 l .sp (.v 2) 0 4) = none ∧
      ∃ s' vs, InTurn (AtomicOne g2 .sp 4 (fun l => eaCas g2 l .sp (.v 2) 0 4) (m2.boundMask g2 all .sp 4 fun l => eaCas g2 l .sp (.v 2) 0 4) true false (casOrd .none)
        fun l old => if old = (opd g2 l 32 (.v 5)).toNat then some (l.storeVal 4 4) else none) m2 (g2.passing all) s' vs) ∧
    (let w : WriteOp := ⟨[⟨.sp 0 0 16, 15, 7⟩, ⟨.fab 4096, 3, 9⟩], 0, 0, 0, 0⟩;
      bit m2.regs.srvCtl.toNat 1 = false ∧ (w.pieces.map Piece.loc).Nodup ∧ (∀ p ∈ w.pieces, ∀ l t r, p.loc ≠ .ctl l t r) ∧ (m2.tray? 0 0).isSome = true ∧ m2.mem.wf = true ∧
        ∀ t ∈ m2.trays, t.sp.wf = true ∧ t.pm.wf = true) :=
  ⟨⟨issues_of (by decide +kernel), by decide +kernel, inTurn_ex atomicB_ok (by decide +kernel)⟩, ⟨issues_of (by decide +kernel), by decide +kernel, inTurn_ex atomicB_ok (by decide +kernel)⟩,
    ⟨issues_of (by decide +kernel), by decide +kernel, rfl, by decide +kernel, inTurn_ex atomicB_ok (by decide +kernel)⟩,
    ⟨issues_of (by decide +kernel), by decide +kernel, inTurn_ex atomicB_ok (by decide +kernel)⟩,
    by decide +kernel, by decide +kernel, by simp, by decide +kernel, by decide +kernel, by decide +kernel⟩

theorem witness_FencesAndFlushes : (g2.passing ⟨true, 6⟩).isEmpty = false ∧ (g2.passing ⟨false, 6⟩).isEmpty = true ∧ g2.dsr = none ∧ (m2.ord g2.agent).hasWrite = false ∧ m2.fenceWaits g2.agent = false ∧
    (m2.ord g2.agent).outbox = [] ∧
    (∀ i ∈ [Instr.fence all .rel .device, .fence all .acq .tray, .fence all .full .system, .fence ⟨false, 6⟩ .rel .device, .pref all true .g .b32 atG, .rflush all (.s 2) (.s 4)], Issues m2 g2 i) := by
  refine ⟨by decide +kernel, by decide +kernel, rfl, ?_, ?_, ?_, issues_all (by decide +kernel)⟩ <;> decide +kernel

/-- The group with s4 = 256. -/
def flusher : Warp := group [0, 5, 0x100000, 0, 256] [lane 0 [7, 3, 64], lane 1 [9, 4, 128]]

theorem witness_FencesAndFlushes_range : Issues (machine flusher) flusher (.rflush all (.s 2) (.s 4)) ∧
    ∃ r, (rdS flusher (.s 2)).toNat % 128 = 0 ∧ (rdS flusher (.s 4)).toNat = 256 ∧ ((machine flusher).ctx ((machine flusher).ctxOf flusher.agent)).range 0x100000 256 = some r ∧ r.rd = true ∧
      (machine flusher).pendingIn flusher.agent (r.fabric 0x100000) 256 = false :=
  ⟨issues_of (by decide +kernel), _, by decide +kernel, by decide +kernel, rfl, by decide +kernel, by decide +kernel⟩

/-! Control, exceptions, synchronisation, system -/

theorem good_of {s : State} {la : Launch} {t : Nat} (h : (decide (t < 2 ^ 56) && t % 8 == 0 && (match s.fetch la t with
    | .word x => bits x.toNat 56 8 == 0xFF
    | .fault _ => false
    | .wait _ => false)) = true) : GoodTarget s la t := by
  simp only [Bool.and_eq_true, decide_eq_true_eq, beq_iff_eq] at h
  refine ⟨h.1.1, h.1.2, ?_⟩
  have h2 := h.2
  split at h2
  · rename_i x hx
    exact ⟨x, hx, by simpa using h2⟩
  · cases h2
  · cases h2

/-- One lane passes p1, the other does not. -/
def split : Warp := { group [0, 5, 0x100000] [{ lane 0 [] with p := 2 }, lane 1 []] with agent := .group 0 0 0 }

theorem witness_TransfersAndEnds :
    (∃ la, m2.launchOf g2.agent = some la ∧ (g2.passing all).isEmpty = false ∧ GoodTarget m2 la (label g2 0xFFFFF) ∧ (∀ k ∈ g2.passing all, GoodTarget m2 la (ropd g2 (g2.lane k) 64 (.s 2)).toNat ∧ (ropd g2 (g2.lane k) 64 (.s 2)).toNat ≠ 0) ∧
      g2.sget 1 - 1 ≠ 0 ∧
      ∀ i ∈ [Instr.bra all 0xFFFFF, .brx all (.s 2), .ret all (.s 2), .call all 0xFFFFF, .callx all (.s 62) (.s 2), .callx all (.v 4) (.s 2), .loop all 1 0xFFFFF], Issues m2 g2 i) ∧
    (split.agent = .group 0 0 0 ∧ (∃ la, (machine split).launchOf split.agent = some la) ∧ (∀ t ∈ (machine split).trays, t.arrivals = []) ∧ split.passing ⟨false, 1⟩ = [0] ∧
      split.staysWithout (split.passing ⟨false, 1⟩) = true ∧ (∀ k ∈ split.passing ⟨false, 1⟩, ropd split (split.lane k) 64 (.s 0) = 0) ∧
      Issues (machine split) split (.exit ⟨false, 1⟩) ∧ Issues (machine split) split (.ret ⟨false, 1⟩ (.s 0))) := by
  have hp : g2.passing all = [0, 1] := by decide +kernel
  refine ⟨⟨launch, by decide +kernel, by decide +kernel, good_of (by decide +kernel), ?_, by decide +kernel, issues_all (by decide +kernel)⟩, rfl, ⟨launch, by decide +kernel⟩, by decide +kernel, by decide +kernel,
    by decide +kernel, by decide +kernel, issues_of (by decide +kernel), issues_of (by decide +kernel)⟩
  rw [hp]
  exact fun k hk => ⟨good_of (by revert k; decide +kernel), by revert k; decide +kernel⟩

theorem witness_BadTargetsTrap : let s := handled g2
    g2.agent = .group 0 0 0 ∧ (∃ tr, s.tray? 0 0 = some tr ∧ tr.hvec ≠ 0) ∧ s.launchOf g2.agent = some launch ∧ 0 ∈ g2.passing all ∧ Issues s g2 (.bra all 0) ∧ Issues s g2 (.brx all (.s 1)) ∧
    label g2 0 < 2 ^ 56 ∧ (∃ x, s.fetch launch (label g2 0) = .word x ∧ bits x.toNat 56 8 ≠ 0xFF) ∧ (∀ j ∈ g2.passing all, (ropd g2 (g2.lane j) 64 (.s 1)).toNat % 8 ≠ 0) :=
  ⟨rfl, ⟨_, rfl, by decide +kernel⟩, by decide +kernel, by decide +kernel, issues_of (by decide +kernel), issues_of (by decide +kernel), by decide +kernel, ⟨0x0170000000000000, by decide +kernel, by decide +kernel⟩,
    by decide +kernel⟩

theorem witness_WaitsAndHeadersPass : (∀ i ∈ [Instr.nop all, .rbar all, .sleepuntil all 0, .yield all, .blockHeader ⟨1, 16, 0, 0, 0⟩], Issues m2 g2 i) ∧
    (∀ k, k < g2.lanes.length → (g2.lane k).st ≠ .parked ∧ (g2.lane k).st ≠ .trapped) ∧ g2.sget 0 ≤ m2.now ∧ (g2.passing all).isEmpty = false ∧ g2.slice = none ∧ g2.lanes.length ≤ 32 ∧ (16 : Nat) ≤ g2.nregs ∧
    (∀ k ∈ g2.front, (g2.lane k).frame ≠ .entry) ∧ ∃ l t gr, g2.agent = .group l t gr :=
  ⟨issues_all (by decide +kernel), by decide +kernel, by decide +kernel, by decide +kernel, rfl, by decide +kernel, by decide +kernel, by decide +kernel, _, _, _, rfl⟩

theorem witness_TakingAnException : (∀ s ∈ [m2, handled g2], s.turn = some g2.agent ∧ s.warp? g2.agent = some g2 ∧ (∃ tr, s.tray? 0 0 = some tr) ∧ Issues s g2 (.trap all 17)) ∧ (∃ k, k ∈ g2.passing all) ∧
    (Instr.add all .i64 (.v 3) (.v 0) (.v 0)).wf = false ∧ (Instr.mov all .b32 (.v 40) (.v 0)).opnds.all g2.holds = false ∧ g2.front ≠ [] := by
  refine ⟨fun s hs => ?_, ⟨0, by decide +kernel⟩, by decide +kernel, by decide +kernel, by decide +kernel⟩
  rcases List.mem_pair.1 hs with rfl | rfl
  · exact ⟨rfl, by decide +kernel, ⟨_, rfl⟩, issues_of (by decide +kernel)⟩
  · exact ⟨rfl, by decide +kernel, ⟨_, rfl⟩, issues_of (by decide +kernel)⟩

/-- ArriveOne, as a computation. -/
def arriveB (w : Warp) (sc : Scope) (addr : Lane → Nat) (mask : Nat → Word32) (n : Lane → Nat) (s : State) (k : Nat) : Option (State × Nat) :=
  match s.check w k .sp .store false false (addr (w.lane k)) 16 mask with
  | .error _ => none
  | .ok (_, s1) => (s1.laneTray w (w.lane k)).map fun tr => (s1.push w.agent (.arrive sc tr.idx (addr (w.lane k)) (n (w.lane k))) true, 0)

theorem arriveB_ok {w : Warp} {sc : Scope} {addr : Lane → Nat} {mask : Nat → Word32} {n : Lane → Nat} (s : State) (k : Nat) (s' : State) (v : Nat)
    (h : arriveB w sc addr mask n s k = some (s', v)) : ArriveOne w sc addr mask n s k s' v := by
  simp only [arriveB] at h
  split at h
  · cases h
  · rename_i t s1 hc
    simp only [Option.map_eq_some_iff, Prod.mk.injEq] at h
    obtain ⟨tr, h1, h2, -⟩ := h
    exact ⟨t, s1, tr, hc, h1, h2.symm⟩

/-- SwaitCheckOne, as a computation. -/
def swaitB (w : Warp) (addr : Lane → Nat) (mask : Nat → Word32) (s : State) (k : Nat) : Option (State × Nat) :=
  match s.check w k .sp .load false false (addr (w.lane k)) 16 mask with
  | .error _ => none
  | .ok (_, s1) => (s1.laneTray w (w.lane k)).bind fun tr => if s1.spPoison (w.agent.launchId.getD 0) tr.idx (addr (w.lane k)) 16 then none else some (s1, tr.idx)

theorem swaitB_ok {w : Warp} {addr : Lane → Nat} {mask : Nat → Word32} (s : State) (k : Nat) (s' : State) (v : Nat)
    (h : swaitB w addr mask s k = some (s', v)) : SwaitCheckOne w addr mask s k s' v := by
  simp only [swaitB] at h
  split at h
  · cases h
  · rename_i t s1 hc
    simp only [Option.bind_eq_some_iff] at h
    obtain ⟨tr, h1, h2⟩ := h
    split at h2
    · cases h2
    · rename_i hp
      simp only [Option.some.injEq, Prod.mk.injEq] at h2
      obtain ⟨rfl, rfl⟩ := h2
      exact ⟨t, tr, hc, h1, rfl, by simpa using hp⟩

/-- The group waiting for a generation other than 1. -/
def waiter : Warp := group [] [lane 0 [7, 3, 64, 0, 1], lane 1 [9, 4, 128, 0, 1]]

theorem witness_SyncWordsAndBarriers_words :
    (Issues m2 g2 (.arrive all .tray 4 at2) ∧ Clean m2 g2 ∧ let s0 := m2.publish g2.agent
      ∃ s' vs, InTurn (ArriveOne g2 .tray (fun l => ea g2 l .sp at2 16) (s0.boundMask g2 all .sp 16 fun l => ea g2 l .sp at2 16) fun l => (l.v.getD 4 0).toNat) s0 (g2.passing all) s' vs) ∧
    (let s := machine waiter;
      Issues s waiter (.swait all 4 at2) ∧ s.launchOf waiter.agent = some launch ∧ launch.f.racy = true ∧ (s.ord waiter.agent).hasRelease = false ∧
      (∃ s1 trs, InTurn (SwaitCheckOne waiter (fun l => ea waiter l .sp at2 16) (s.boundMask waiter all .sp 16 fun l => ea waiter l .sp at2 16)) s (waiter.passing all) s1 trs) ∧
      ∃ s' vs, InTurn (SwaitOne waiter launch (fun l => ea waiter l .sp at2 16) (fun _ => 0) fun l => (l.v.getD 4 0).toNat) s (waiter.passing all) s' vs) := by
  have hp : waiter.passing all = [0, 1] := by decide +kernel
  refine ⟨⟨issues_of (by decide +kernel), ⟨rfl, by decide +kernel⟩, inTurn_ex arriveB_ok (by decide +kernel)⟩, issues_of (by decide +kernel), by decide +kernel, by decide +kernel, by decide +kernel,
    inTurn_ex swaitB_ok (by decide +kernel), ?_⟩
  rw [hp]
  exact ⟨_, _, .cons ⟨rfl, by decide +kernel, rfl⟩ (.cons ⟨rfl, by decide +kernel, rfl⟩ (.nil _))⟩

/-- Another group of the tray. -/
def other : Warp := { group [] [lane 2 []] with agent := .group 0 0 1 }
/-- A machine with a second group in its tray. -/
def pair (w v : Warp) : State := { machine w with trays := [{ wordTray 0 with warps := [w, v] }] }
/-- The group waiting at its barrier. -/
def barring (patch : Bool) : Warp := { g2 with wait := some (.bar patch .device), waitF := 3 }
/-- Both groups have arrived, and their releases have drained. -/
def met (patch : Bool) : State :=
  { machine (barring patch) with
    trays := [{ wordTray 0 with warps := [barring patch, { other with wait := some (.bar patch .device), waitF := 1 }], arrivals := [⟨patch, 0, .device, 1⟩, ⟨patch, 1, .device, 1⟩] }]
    ords := [(.group 0 0 0, { Ord.clear with nrel := 1 }), (.group 0 0 1, { Ord.clear with nrel := 1 })] }

/-- What the statement asks before the first arrival, as a computation. -/
def waitsForMore (s : State) (patch : Bool) : Bool :=
  (s.barTrays 0 0 patch).any fun y => y.warps.any fun v => !v.gone && (y.idx != 0 || v.agent.groupNo != 0) && y.arrivals.all fun x => x.patch != patch || x.group != v.agent.groupNo

theorem more_of {s : State} {patch : Bool} (h : waitsForMore s patch = true) :
    ∃ y ∈ s.barTrays 0 0 patch, ∃ v ∈ y.warps, v.gone = false ∧ (y.idx = 0 → v.agent.groupNo ≠ 0) ∧ ∀ x ∈ y.arrivals, x.patch = patch → x.group ≠ v.agent.groupNo := by
  obtain ⟨y, hy, h⟩ := List.any_eq_true.1 h
  obtain ⟨v, hv, h⟩ := List.any_eq_true.1 h
  simp only [Bool.and_eq_true, Bool.or_eq_true, Bool.not_eq_true', bne_iff_ne, List.all_eq_true, ne_eq] at h
  exact ⟨y, hy, v, hv, h.1.1, fun e => h.1.2.resolve_left (not_not_intro e), fun x hx e => (h.2 x hx).resolve_left (not_not_intro e)⟩

theorem witness_SyncWordsAndBarriers_bar : ∀ patch ∈ [false, true],
    (let s := pair g2 other; ∃ tr, s.tray? 0 0 = some tr ∧ Issues s g2 (.bar all patch .device) ∧ (g2.passing all).isEmpty = false ∧ Clean s g2 ∧ g2.wait = none ∧
      ∃ y ∈ s.barTrays 0 0 patch, ∃ v ∈ y.warps, v.gone = false ∧ (y.idx = 0 → v.agent.groupNo ≠ 0) ∧ ∀ x ∈ y.arrivals, x.patch = patch → x.group ≠ v.agent.groupNo) ∧
    (let s := met patch;
      Issues s (barring patch) (.bar all patch .device) ∧ ((barring patch).passing all).isEmpty = false ∧ (∃ y ∈ s.barTrays 0 0 patch, ∃ x ∈ y.arrivals, x.patch = patch) ∧
      (∀ y ∈ s.barTrays 0 0 patch, (∀ v ∈ y.warps, v.gone = false → ∃ x ∈ y.arrivals, x.patch = patch ∧ x.group = v.agent.groupNo) ∧
        (∀ x, s.launch? 0 = some x → x.replace.contains y.idx = false) ∧
        ∀ x ∈ y.arrivals, x.patch = patch → x.num ≤ (s.ord (.group 0 y.idx x.group)).nrel) ∧
      ((barring patch).late = none ∧ s.stands (barring patch) = false ∧ s.stands { barring patch with evicted := true } = true) ∧ ∀ x, s.launch? 0 = some x → s.farArrived x (x.f.patchOf 0) = true) := by
  intro patch hp
  have hm : ∀ patch ∈ [false, true], ((met patch).barTrays 0 0 patch).all (fun y => (y.warps.all fun v => v.gone || y.arrivals.any fun x => x.patch == patch && x.group == v.agent.groupNo) &&
      ((met patch).launch? 0).all (fun x => !x.replace.contains y.idx) && y.arrivals.all fun x => decide (x.num ≤ ((met patch).ord (.group 0 y.idx x.group)).nrel)) = true := by decide +kernel
  refine ⟨⟨_, rfl, issues_of ?_, by decide +kernel, ⟨rfl, by decide +kernel⟩, rfl, more_of ?_⟩, issues_of ?_, ?_, ?_, fun y hy => ?_, ?_, ?_⟩
  · rcases List.mem_pair.1 hp with rfl | rfl <;> decide +kernel
  · rcases List.mem_pair.1 hp with rfl | rfl <;> decide +kernel
  · rcases List.mem_pair.1 hp with rfl | rfl <;> decide +kernel
  · rcases List.mem_pair.1 hp with rfl | rfl <;> decide +kernel
  · rcases List.mem_pair.1 hp with rfl | rfl <;> decide +kernel
  · have h := List.all_eq_true.1 (hm patch hp) y hy
    simp only [Bool.and_eq_true, List.all_eq_true, Bool.or_eq_true, List.any_eq_true, beq_iff_eq, decide_eq_true_eq] at h
    refine ⟨fun v hv hg => ?_, fun x hx => ?_, fun x hx _ => h.2 x hx⟩
    · simpa [hg] using h.1.1 v hv
    · simpa [hx] using h.1.2
  · rcases List.mem_pair.1 hp with rfl | rfl <;> exact ⟨rfl, by decide +kernel, by decide +kernel⟩
  · rcases List.mem_pair.1 hp with rfl | rfl <;> (intro x hx; cases hx; decide +kernel)

/-- A launch of two stages. -/
def piped : Launch := { launch with pipe := some ⟨[⟨0x100000, 0, 4, 1, 1⟩, ⟨0x100000, 0, 4, 1, 1⟩], [⟨0, 0, []⟩], none⟩ }
/-- A machine of that launch, with the group's tray in stage k and n records in the queue. -/
def staged (k n : Nat) : State :=
  { machineT g2 { wordTray 0 with stage := k } with
    launches := [{ piped with pipe := some ⟨[⟨0x100000, 0, 4, 1, 1⟩, ⟨0x100000, 0, 4, 1, 1⟩], [⟨n, 0, []⟩], none⟩ }] }

theorem witness_QueuesAndCompletionWords :
    (let s := staged 0 0; ∃ la p tr q qu, Issues s g2 (.qpush all 4 (.s 0)) ∧ (g2.passing all).isEmpty = false ∧ s.launchOf g2.agent = some la ∧ la.f.mode = 0 ∧ s.groupTray g2 = some tr ∧ la.pipe = some p ∧
      (rdS g2 (.s 0)).toNat = 0 ∧ 64 ≤ la.f.spBytes ∧ p.stages[0]? = some q ∧ p.queues[0]? = some qu ∧ tr.stage = 0 ∧ tr.stage + 1 ≠ p.stages.length ∧ g2.dsr = none ∧ qu.pushed - qu.popped < 2 ^ q.qlog2 ∧
      ∃ s1, s.queueCheck g2 la tr.idx 0 false = .ok s1 ∧ (s1.publish g2.agent).spPoison la.id tr.idx 0 64 = false ∧ (s1.ord g2.agent).outbox = [] ∧ (s1.publish g2.agent).queuedBefore g2 la.id 0 .qpush = false) ∧
    (∀ n ∈ [0, 1], let s := staged 1 n; ∃ la tr, Issues s g2 (.qpop all 4 (.s 0) 1) ∧ s.launchOf g2.agent = some la ∧ s.groupTray g2 = some tr ∧ tr.stage = 1 ∧ s.moveTo la tr.idx g2.agent.groupNo = none ∧
      ∃ s1, s.queueCheck g2 la tr.idx 0 true = .ok s1 ∧ (s1.ord g2.agent).hasRelease = false ∧ s1.queuedBefore g2 la.id 1 .qpop = false ∧ (n = 0 → s1.stageDone la.id 0 = true) ∧
        ∀ j, j < 16 → (s1.newest (.fab ((s1.pkg * 2 ^ 46 + 0x3E0000000000) / 4 + j))).poison = false) ∧
    (Issues m2 g2 (.waitseq all .device (.s 2) (.s 0)) ∧ m2.haltWatch g2 all .g .load false 8 (fun _ => (rdS g2 (.s 2)).toNat) = none ∧ (m2.ord g2.agent).hasRelease = false ∧
      ∃ r, m2.check g2 ((g2.passing all).headD 0) .g .load false false (rdS g2 (.s 2)).toNat 8 g2.frontMask = .ok r ∧ (∀ fa, r.1.fab = some fa → m2.side fa = .served) ∧
        (r.2.readAt g2.agent r.1 8 false).1.poison = false ∧ (rdS g2 (.s 0)).toNat ≤ (r.2.readAt g2.agent r.1 8 false).1.val) := by
  have push (la : Launch) (tr : Tray) (s1 : State) (h : (!(s1.publish g2.agent).spPoison la.id tr.idx 0 64 && (s1.ord g2.agent).outbox == [] && !(s1.publish g2.agent).queuedBefore g2 la.id 0 .qpush) = true) :
      (s1.publish g2.agent).spPoison la.id tr.idx 0 64 = false ∧ (s1.ord g2.agent).outbox = [] ∧ (s1.publish g2.agent).queuedBefore g2 la.id 0 .qpush = false := by
    simpa [and_assoc] using h
  have pop (la : Launch) (n : Nat) (s1 : State) (h : (!(s1.ord g2.agent).hasRelease && !s1.queuedBefore g2 la.id 1 .qpop && (n != 0 || s1.stageDone la.id 0) &&
      (List.range 16).all fun j => !(s1.newest (.fab ((s1.pkg * 2 ^ 46 + 0x3E0000000000) / 4 + j))).poison) = true) :
      (s1.ord g2.agent).hasRelease = false ∧ s1.queuedBefore g2 la.id 1 .qpop = false ∧ (n = 0 → s1.stageDone la.id 0 = true) ∧
        ∀ j, j < 16 → (s1.newest (.fab ((s1.pkg * 2 ^ 46 + 0x3E0000000000) / 4 + j))).poison = false := by
    simp only [Bool.and_eq_true, Bool.not_eq_true', Bool.or_eq_true, bne_iff_ne, ne_eq, List.all_eq_true, List.mem_range] at h
    exact ⟨h.1.1.1, h.1.1.2, fun e => h.1.2.resolve_left (not_not_intro e), h.2⟩
  refine ⟨⟨_, _, _, _, _, issues_of (by decide +kernel), by decide +kernel, rfl, by decide +kernel, rfl, rfl, by decide +kernel, by decide +kernel, rfl, rfl, rfl, by decide +kernel, rfl, by decide +kernel,
    ex_of _ _ (push _ _) (by decide +kernel)⟩, fun n hn => ?_, issues_of (by decide +kernel), by decide +kernel, by decide +kernel, ?_⟩
  · rcases List.mem_pair.1 hn with rfl | rfl <;>
      exact ⟨_, _, issues_of (by decide +kernel), rfl, rfl, rfl, by decide +kernel, ex_of _ _ (pop _ _) (by decide +kernel)⟩
  · exact ⟨_, rfl, served_of (by decide +kernel), by decide +kernel⟩

/-- The group with a page in s2, s4. -/
def freezer : Warp := group [0, 5, 0x100000, 0, 4096] [lane 0 []]

theorem witness_FreezeAndThaw : let s := machine freezer
    (∀ i ∈ [Instr.freeze all 3 (.s 2) (.s 4), .thaw all 3 (.s 2) (.s 4), .freeze all 3 (.s 2) (.s 1), .freeze ⟨false, 6⟩ 3 (.s 2) (.s 4)], Issues s freezer i) ∧ (freezer.passing all).isEmpty = false ∧
      (freezer.passing ⟨false, 6⟩).isEmpty = true ∧ freezer.wait = none ∧ Clean s freezer ∧ (s.who freezer.agent).mode = 0 ∧ (rdS freezer (.s 2)).toNat % 4096 = 0 ∧ (rdS freezer (.s 4)).toNat = 4096 ∧
      (rdS freezer (.s 1)).toNat % 4096 ≠ 0 ∧ ∃ r, (s.ctx (s.ctxOf freezer.agent)).range 0x100000 4096 = some r ∧ r.rd = true ∧ hostHomed r.fbase = false :=
  ⟨issues_all (by decide +kernel), by decide +kernel, by decide +kernel, rfl, ⟨rfl, by decide +kernel⟩, by decide +kernel, by decide +kernel, by decide +kernel, by decide +kernel, _, rfl, by decide +kernel, by decide +kernel⟩

/-- A handler group of one lane, whose origin is lane 0 of group 0. -/
def hgroup : Warp :=
  { group [] [{ lane 0 [] with origin := some ⟨0, 0, 0⟩, tag := some ⟨0, 0, 0, 0, 0⟩ }] with agent := .handler 0 1 }
/-- The origin group: lane 0 has trapped and entered the gathering. -/
def trapped : Warp := group [] [{ lane 0 [1, 2] with st := .trapped, tag := some ⟨BitVec.ofNat 64 (0x52 * 2 ^ 53 + 0x100008 / 8), 0, 0, 0, 0⟩, gathered := true }, lane 1 []]
/-- A machine whose handler group issues. -/
def handling : State := { machine trapped with turn := some hgroup.agent, handlers := [⟨0, 1, 0, 0, hgroup⟩] }

/-- A group with an attn that has not ended. -/
def attended : Warp := { g2 with attns := [⟨0x100008, .body 0x100000 1 true, 3, 0, 32, [], 0, 0x100000, [0], [], true, 0, false, []⟩] }

theorem witness_ControlAndSpecialRegisters :
    (g2.attns = [] ∧ (∃ r ∈ attended.attns, r.runs = true) ∧ (attended.passing all).isEmpty = false ∧ ∀ i ∈ [Instr.rdspec all (.fstat 3), .wrspec all .fstat (.s 1)], Issues (machine attended) attended i) ∧
    (∃ tr, m2.launchOf g2.agent = some launch ∧ m2.groupTray g2 = some tr ∧ tr.idx = 0 ∧ m2.tray? launch.id 0 = some tr ∧ g2.agent.isHandler = false ∧ launch.f.racy = true ∧ (g2.passing all).isEmpty = false ∧
      (g2.passing ⟨false, 6⟩).isEmpty = true ∧
      ∀ i ∈ [Instr.rdctl all 3 0, .rdctl all 3 1, .rdctl all 3 2, .rdctl all 3 8, .wrctl all 0 (.s 2), .wrctl all 1 (.s 1), .wrctl all 5 (.s 1), .rdctl ⟨false, 6⟩ 3 0, .rdspec all (.pcv 4), .rdspec all (.lanemap 4),
        .rdspec all (.gang 3), .rdspec all (.fstat 3), .wrspec all .fstat (.s 1), .wrspec all .gang (.s 1), .origin all 4 3], Issues m2 g2 i) ∧
    (∃ tr, handling.launchOf hgroup.agent = some launch ∧ handling.groupTray hgroup = some tr ∧ hgroup.agent.isHandler = true ∧
      ∀ i ∈ [Instr.rdctl all 3 0, .rdctl all 3 2, .rdctl all 3 8, .origin all 4 3], Issues handling hgroup i) :=
  ⟨⟨rfl, by decide +kernel, by decide +kernel, issues_all (by decide +kernel)⟩, ⟨_, by decide +kernel, rfl, rfl, by decide +kernel, rfl, by decide +kernel, by decide +kernel, by decide +kernel, issues_all (by decide +kernel)⟩, _, by decide +kernel, rfl, rfl, issues_all (by decide +kernel)⟩

/-- The machine at debug level 2. -/
def debugging : State := { m2 with regs := { m2.regs with dbgCtl := 0x20000 } }

theorem witness_QueriesAndBreakpointRegisters :
    (∃ tr, g2.agent = .group 0 0 0 ∧ m2.launchOf g2.agent = some launch ∧ launch.f.mode = 0 ∧ m2.tray? 0 0 = some tr ∧ tr.idx = 0 ∧
      ∀ i ∈ [Instr.locality all 3, .rdtime all 14, .logctlMode all 3, .logctlFlush all, .mark all (.s 3) (.s 4), .ident all (.dxy 3), .ident all (.handler 3), .ident all (.vlane 4), .ident all (.lane 4), .rdcnt all 3 0,
        .rdcnt all 3 2], Issues m2 g2 i) ∧
    (g2.agent.isHandler = false ∧ m2.dbgLevel < 2 ∧ 2 ≤ debugging.dbgLevel ∧ (g2.passing all).isEmpty = false ∧ g2.wait ≠ some .bpctl ∧
      ∀ i ∈ [Instr.bpctl all (.wbp 3 (.s 1)), .bpctl all (.rbp 3 15), .bpctl all (.wwp0 7 (.s 1)), .bpctl all (.wwp1 0 (.s 1)), .bpctl all (.rwp0 3 7), .bpctl all (.rwp1 3 0)], Issues debugging g2 i ∧ Issues m2 g2 i) ∧
    hgroup.agent.isHandler = true ∧ Issues handling hgroup (.bpctl all (.rbp 3 15)) :=
  ⟨⟨_, rfl, by decide +kernel, by decide +kernel, rfl, rfl, issues_all (by decide +kernel)⟩, ⟨rfl, by decide +kernel, by decide +kernel, by decide +kernel, by decide +kernel,
    fun i hi => ⟨issues_all (l := [Instr.bpctl all (.wbp 3 (.s 1)), .bpctl all (.rbp 3 15), .bpctl all (.wwp0 7 (.s 1)), .bpctl all (.wwp1 0 (.s 1)), .bpctl all (.rwp0 3 7), .bpctl all (.rwp1 3 0)]) (by decide +kernel) i hi,
      issues_all (l := [Instr.bpctl all (.wbp 3 (.s 1)), .bpctl all (.rbp 3 15), .bpctl all (.wwp0 7 (.s 1)), .bpctl all (.wwp1 0 (.s 1)), .bpctl all (.rwp0 3 7), .bpctl all (.rwp1 3 0)]) (by decide +kernel) i hi⟩⟩,
    rfl, issues_of (by decide +kernel)⟩

theorem witness_ReturnFromException :
    (hgroup.agent = .handler 0 1 ∧ hgroup.passing all = [0] ∧ (hgroup.lane 0).origin = some ⟨0, 0, 0⟩ ∧ handling.launchOf hgroup.agent = some launch ∧ launch.f.mode = 0 ∧ Clean handling hgroup ∧
      (handling.ord hgroup.agent).outbox = [] ∧ handling.warp? (.group 0 0 0) = some trapped ∧ trapped.evicted = false ∧ (∀ j, (trapped.lane j).back = none) ∧ 0 < trapped.lanes.length ∧ (trapped.lane 0).st = .trapped ∧
      trapped.dsr = none ∧ (∀ t ∈ handling.trays, t.arrivals = []) ∧ ∀ i ∈ [Instr.rteResume all, .rteSkip all, .rteKill all], Issues handling hgroup i) ∧
    (g2.agent.isHandler = false ∧ ∀ i ∈ [Instr.rteResume all, .rteSkip all, .rteKill all], Issues m2 g2 i) := by
  refine ⟨⟨rfl, by decide +kernel, rfl, by decide +kernel, by decide +kernel, ⟨rfl, by decide +kernel⟩, by decide +kernel, by decide +kernel, rfl, fun j => ?_, by decide +kernel, rfl, rfl, by decide +kernel,
    issues_all (by decide +kernel)⟩, rfl, issues_all (by decide +kernel)⟩
  match j with
  | 0 => rfl
  | 1 => rfl
  | j + 2 => rfl

/-! Tiles, matrices, attention, engine commands -/

theorem inTurn_total {P : State → Nat → State → Nat → Prop} (h : ∀ s k, ∃ s' v, P s k s' v) : ∀ ks s, ∃ s' vs, InTurn P s ks s' vs
  | [], s => ⟨s, [], .nil s⟩
  | k :: ks, s => by
    obtain ⟨s1, v, h1⟩ := h s k
    obtain ⟨s2, vs, h2⟩ := inTurn_total h ks s1
    exact ⟨s2, v :: vs, .cons h1 h2⟩

/-- TilesFree, as a computation, for the group 0 of tray 0. -/
theorem free_of {s : State} {w : Warp} {tr : Tray} {also ns : List Nat} (hp : w.agent = .group 0 0 0) (ht : s.tray? 0 0 = some tr) (h0 : tr.launch = 0) (h1 : tr.idx = 0)
    (h : (ns.all fun n => (tr.tile n).alloc && ((tr.tile n).owner.all fun o => o == 0 || also.contains o) && (tr.tile n).held != some 0) = true) : TilesFree s w tr also ns := by
  have h' := fun n hn => by simpa only [Bool.and_eq_true, bne_iff_ne] using List.all_eq_true.1 h n hn
  refine ⟨⟨0, 0, 0, hp, ht, h0, h1⟩, fun n hn => (h' n hn).1.1, fun n hn o ho => ?_, fun n hn => ?_⟩
  · have := (h' n hn).1.2
    rw [ho] at this
    simpa [hp, Agent.groupNo] using this
  · simpa [hp, Agent.groupNo] using (h' n hn).2

/-- The group's tray in the small machine. -/
def t2 : Tray := { wordTray 0 with warps := [g2] }

theorem witness_TilesComplete : (g2.passing all).isEmpty = false ∧ TilesFree m2 g2 t2 [] [0, 1] ∧ TilesFree m2 g2 t2 [] [0] ∧ m2.hitHalt g2 .sp .load 16 (accAddrs g2 .sp (.s 0) (.imm 0)) = none ∧
    m2.hitHalt g2 .sp .store 16 (accAddrs g2 .sp (.s 0) (.imm 0)) = none ∧
    (∃ r, accCheck g2 .sp .load (accAddrs g2 .sp (.s 0) (.imm 0)) m2 = .ok r) ∧ (∃ r, accCheck g2 .sp .store (accAddrs g2 .sp (.s 0) (.imm 0)) m2 = .ok r) ∧
    (∃ s' vs, InTurn (fun s k s' x => fragRead g2 k (fun _ => 0) 0 (List.range 4) s = .ok (x, s')) m2 (g2.passing all) s' vs) ∧
    ∀ i ∈ [Instr.zacc all 0 1, .accrd all false 0 0 0 1, .accwr all false 0 0 0 1, .ldacc all .sp 0 (.s 0) (.imm 0), .stacc all .sp 0 (.s 0) (.imm 0), .ldfrag all .bf16 0 (.s 0) (.imm 0)], Issues m2 g2 i :=
  ⟨by decide +kernel, free_of rfl rfl rfl rfl (by decide +kernel), free_of rfl rfl rfl rfl (by decide +kernel), by decide +kernel, by decide +kernel, ok_of (by decide +kernel), ok_of (by decide +kernel),
    inTurn_ex (f := fun s k => match fragRead g2 k (fun _ => 0) 0 (List.range 4) s with
      | .ok r => some (r.2, r.1)
      | .error _ => none) (fun s k s' v h => by
      split at h
      · rename_i r e
        simp only [Option.some.injEq, Prod.mk.injEq] at h
        obtain ⟨rfl, rfl⟩ := h
        exact e
      · cases h) (by decide +kernel), issues_all (by decide +kernel)⟩

/-- Two groups of a gang: this one, and one at the latch. -/
def ganged : Warp := { g2 with gang := 3 }
/-- The other member. -/
def member (latched : Bool) : Warp := { other with gang := 3, wait := if latched then some (.latch (.mma all false .bf16 .bf16 0 0 0 0)) else none }

theorem witness_MultiplicationCompletes :
    (Issues m2 g2 (.mma all true .bf16 .bf16 0 0 0 0) ∧ (g2.passing all).isEmpty = false ∧ TilesFree m2 g2 t2 [] [0] ∧ g2.gang = 0) ∧
    (∀ b ∈ [true, false], let s := pair ganged (member b)
      let tr : Tray := { wordTray 0 with warps := [ganged, member b] }
      let i := Instr.mma all false .bf16 .bf16 0 0 0 0
      Issues s ganged i ∧ (ganged.passing all).isEmpty = false ∧ TilesFree s ganged tr (gangOf ganged.gang) [0] ∧ gangOf ganged.gang = [0, 1] ∧ ganged.agent.groupNo = 0 ∧
      (∀ v ∈ tr.warps, v.agent ≠ ganged.agent → v.latched = true → v ∈ tr.warps ∧ v.wait = some (.latch i) ∧ v.gang = ganged.gang) ∧
      (∀ v ∈ tr.warps, s.warp? v.agent = some v) ∧ (∀ v ∈ tr.warps, ∀ u ∈ tr.warps, v.agent.groupNo = u.agent.groupNo → v = u) ∧
      (b = false → ∃ n ∈ gangOf ganged.gang, n ≠ ganged.agent.groupNo ∧ ∀ v ∈ tr.warps, v.agent.groupNo = n → v.latched = false) ∧
      (b = true → ([ganged, member b].map (fun v => v.agent.groupNo)) = gangOf ganged.gang ∧
        ∀ v ∈ [ganged, member b], v ∈ tr.warps ∧ (v = ganged ∨ (v ∈ tr.warps ∧ v.wait = some (.latch i) ∧ v.gang = ganged.gang) ∧ v.evicted = false ∧ v.halted = false))) ∧
    (let r0 := m2.readSp g2.agent launch 0 0 192;
      let gl := GatherList.of r0.1
      let taken := (List.range 32).filter fun r => gl.idx.getD r 0xFFFF ≠ 0xFFFF ∧ gl.sct.getD r 0xFF ≠ 0xFF
      let rowAt := fun r => gl.rowBase + 64 * gl.idx.getD r 0
      Issues m2 g2 (.mmag all true .bf16 .bf16 0 (.s 0) 0 0) ∧ m2.launchOf g2.agent = some launch ∧ launch.f.racy = true ∧ Fmt.bf16.cls = Fmt.bf16.cls ∧ (∀ o ∈ mmagRegs .bf16 .bf16 0 0, g2.holds o = true) ∧ 192 ≤ launch.f.spBytes ∧ gl.rowBase % 64 = 0 ∧ gl.bad = false ∧ taken ≠ [] ∧
      m2.spPoison launch.id 0 0 192 = false ∧ (∀ r ∈ taken, rowAt r + 64 ≤ launch.f.spBytes ∧ m2.spPoison launch.id 0 (rowAt r) 64 = false) ∧
      ∃ s' vs, InTurn (fun s r s' v => let img := s.readSp g2.agent launch 0 (rowAt r) 64
        let sc := (0, img.2)
        v = img.1 + 2 ^ 512 * sc.1 ∧ s' = sc.2) r0.2 taken s' vs) := by
  refine ⟨⟨issues_of (by decide +kernel), by decide +kernel, free_of rfl rfl rfl rfl (by decide +kernel), rfl⟩, fun b hb => ?_, issues_of (by decide +kernel), by decide +kernel, by decide +kernel, rfl, by decide +kernel, by decide +kernel,
    by decide +kernel, ?_, ?_, ?_, ?_, inTurn_total (fun s r => ⟨_, _, rfl, rfl⟩) _ _⟩
  · rcases List.mem_pair.1 hb with rfl | rfl <;>
      exact ⟨issues_of (by decide +kernel), by decide +kernel, free_of rfl rfl rfl rfl (by decide +kernel), by decide +kernel, rfl, by decide +kernel, by decide +kernel, by decide +kernel,
        fun h => by first | exact absurd h (by decide) | decide +kernel, fun h => by first | exact absurd h (by decide) | decide +kernel⟩
  all_goals decide +kernel

theorem witness_BlockSums : ([(FV.fin false 3 0, FV.fin true 5 1)].map fun p => (fvQ p.1).bind fun x => (fvQ p.2).map fun y => x * y) = [some (-30)] ∧ (FV.nan false true 1).isNan = true ∧ (FV.fin false 0 0).isZero = true ∧
    (FFmt.f32.dec 0x7FC00002).isNan = true ∧ (FFmt.f32.dec 0x3F800000).isNan = false := by
  refine ⟨?_, rfl, rfl, by decide +kernel, by decide +kernel⟩
  norm_num [fvQ]

theorem witness_TilesHandOver : Issues m2 g2 (.tilebarRel all 0) ∧ Issues m2 g2 (.tilebarWait all 3 0 (.s 0)) ∧ Issues m2 g2 (.tilebarWait all 3 0 (.s 1)) ∧ (g2.passing all).isEmpty = false ∧ TilesFree m2 g2 t2 [] [0] ∧ Clean m2 g2 ∧
    (m2.ord g2.agent).outbox = [] ∧ (∃ l ti gr, g2.agent = .group l ti gr ∧ m2.tray? l ti = some t2) ∧ (t2.tile 0).alloc = true ∧ (m2.ord g2.agent).hasRelease = false ∧ (m2.who g2.agent).mode = 0 ∧
    (t2.tile 0).tgen = (rdS g2 (.s 0)).setWidth 32 ∧ (t2.tile 0).tgen ≠ (rdS g2 (.s 1)).setWidth 32 :=
  ⟨issues_of (by decide +kernel), issues_of (by decide +kernel), issues_of (by decide +kernel), by decide +kernel, free_of rfl rfl rfl rfl (by decide +kernel), ⟨rfl, by decide +kernel⟩, by decide +kernel, ⟨0, 0, 0, rfl, rfl⟩,
    by decide +kernel, by decide +kernel, by decide +kernel, by decide +kernel, by decide +kernel⟩

/-- A group with 64 registers, and a tray whose scratchpad holds a page list: one page, or none. -/
def attending : Warp := { g2 with nregs := 64 }
/-- Its tray. -/
def listed (one : Bool) : Tray := { wordTray 0 with warps := [attending], sp := memWrite [] (if one then 4 else 0) 4 0xFFFFFFFF }

theorem got_of {w : Warp} {mask : Nat → Word32} {spc : Space} {width : Nat} {sc : Scope} {va vl : Nat} {shown : Nat → Nat} {s : State} {k v : Nat} (h : (acqRead w mask spc width sc va vl shown s k).2 = .got v) :
    ∃ s', acqRead w mask spc width sc va vl shown s k = (s', .got v) := ⟨_, Prod.ext rfl h⟩

theorem witness_AttentionIssues : ∀ one ∈ [true, false], let s := machineT attending (listed one)
    let r := s.readSp attending.agent launch 0 0 64
    let js := ((List.range 16).map fun k => r.1 / 2 ^ (32 * k) % 2 ^ 32).takeWhile (· != 0xFFFFFFFF)
    Issues s attending (.attn all 1 0 0 (.s 2) (.s 0)) ∧ (attending.passing all).isEmpty = false ∧ s.launchOf attending.agent = some launch ∧ launch.f.racy = true ∧ TilesFree s attending (listed one) [] [0, 1, 2] ∧
    (∀ x ∈ attending.attns, x.runs = true ∧ x.tile ≠ 0) ∧ s.hitHalt attending .g .load 32 (js.map fun j => (0x100000 + 32 * j) % 2 ^ 64) = none ∧ s.retires = [] ∧ 64 ≤ launch.f.spBytes ∧ s.spPoison launch.id 0 0 64 = false ∧ js = (if one then [0] else []) ∧ snapChecks attending 0x100000 js r.2 = none ∧
    (∃ s' vs, InTurn (fun s j s' v => acqRead attending attending.frontMask .g 32 .device ((0x100000 + 32 * j) % 2 ^ 64) 0 (fun v => bits v 224 32) s 0 = (s', .got v)) r.2 js s' vs ∧ ∀ v ∈ vs, v = 0) ∧
    descWf (BitVec.ofNat 256 0).toNat = true := by
  intro one h
  have hj : ∀ one ∈ [true, false], ((List.range 16).map fun k => ((machineT attending (listed one)).readSp attending.agent launch 0 0 64).1 / 2 ^ (32 * k) % 2 ^ 32).takeWhile (· != 0xFFFFFFFF) =
    (if one then [0] else []) := by decide +kernel
  refine ⟨issues_of ?_, by decide +kernel, ?_, by decide +kernel, ?_, by decide +kernel, ?_, rfl, by decide +kernel, ?_, hj one h, ?_, ?_, by decide +kernel⟩
  · rcases List.mem_pair.1 h with rfl | rfl <;> decide +kernel
  · rcases List.mem_pair.1 h with rfl | rfl <;> decide +kernel
  · rcases List.mem_pair.1 h with rfl | rfl <;> exact free_of rfl rfl rfl rfl (by decide +kernel)
  · rw [hj one h]
    rcases List.mem_pair.1 h with rfl | rfl <;> decide +kernel
  · rcases List.mem_pair.1 h with rfl | rfl <;> decide +kernel
  · rcases List.mem_pair.1 h with rfl | rfl <;> decide +kernel
  · rw [hj one h]
    rcases List.mem_pair.1 h with rfl | rfl
    · obtain ⟨s', e⟩ := got_of (w := attending) (mask := attending.frontMask) (spc := .g) (width := 32) (sc := .device) (va := (0x100000 + 32 * 0) % 2 ^ 64) (vl := 0) (shown := fun v => bits v 224 32)
        (s := ((machineT attending (listed true)).readSp attending.agent launch 0 0 64).2) (k := 0) (v := 0) (by decide +kernel)
      exact ⟨s', [0], .cons e (.nil _), by simp⟩
    · exact ⟨_, [], .nil _, by simp⟩

/-- An attn at an entry with the descriptor x, formed already or not. -/
def running (hold : Bool) (x : Nat) : AttnRun := ⟨0x100008, .body 0x100000 1 true, 3, 0, 32, [], 0, 0x100000, [0], [⟨0, BitVec.ofNat 256 x⟩], true, 0, hold, []⟩
/-- Its group. -/
def entering (hold : Bool) (x : Nat) : Warp := { g2 with attns := [running hold x] }
/-- Its tray: MREF and MRUN of every row as given, the state tile pending or not. -/
def referring (w : Warp) (pending : Bool) (mref mrun : Nat) : Tray :=
  { wordTray 0 with warps := [w], tiles := ⟨true, some 0, 0, 0, none, ((List.replicate 32 (BitVec.ofNat 32 mref :: BitVec.ofNat 32 mrun :: List.replicate 30 0)).flatten), some 0, pending, none⟩ :: (wordTray 0).tiles.tail }
/-- Its machine. -/
def attnAt (hold pending : Bool) (x mref : Nat) : State := machineT (entering hold x) (referring (entering hold x) pending mref 0)

/-- Frames that are backed and served are read when no slot of them is named. -/
theorem frames_nil {s : State} {a : Agent} {dim d : Nat} {l : List (Nat × Nat)} (hl : l = [(descKF d, frameBytes (descKT d) dim), (descVF d, frameBytes (descVT d) dim)])
    (h : (l.all fun p => s.runBacked p.1 p.2 && s.runSide p.1 p.2 == .served) = true) : ∃ k v s1, s.attnFrames a dim d [] = .ok k v s1 := by
  subst hl
  have hs := List.all_eq_true.1 h
  have h1 := hs _ (.head _)
  have h2 := hs _ (.tail _ (.head _))
  simp only [Bool.and_eq_true, beq_iff_eq] at h1 h2
  exact ⟨_, _, _, by simp [State.attnFrames, h1.1, h1.2, h2.1, h2.2, poisonMet]; exact ⟨rfl, rfl, rfl⟩⟩

/-- A descriptor of two e2m1 frames at 0x100000 and 0x101000 with no kept token. -/
def desc4 : Nat := 4 * 2 ^ 224 + 4 * 2 ^ 228 + 0x100000 + 0x101000 * 2 ^ 64

/-- Whether some row exceeds its reference after an entry without kept tokens. -/
def highAfter (tr : Tray) : Bool := ((rowsOf (tr.tile 0).data).map fun row => rowAfterX row []).any fun row => (excess (row.getD 1 0).toNat (row.getD 0 0).toNat).isSome

theorem witness_AttentionEntries :
    (∀ q ∈ [(true, true, 0), (false, false, 0), (false, false, desc4), (true, false, desc4)], ∀ mref ∈ [0, 0xC2C80000], let w := entering q.1 q.2.2
      let tr := referring w q.2.1 mref 0
      let s := attnAt q.1 q.2.1 q.2.2 mref
      w.agent = .group 0 0 0 ∧ s.warp? w.agent = some w ∧ s.tray? 0 0 = some tr ∧ tr.launch = 0 ∧ tr.idx = 0 ∧ w.gone = false ∧ s.stands w = false ∧
       w.attns = [] ++ running q.1 q.2.2 :: [] ∧ (running q.1 q.2.2).runs = true ∧ s.retires = [] ∧ (running q.1 q.2.2).snaps[(running q.1 q.2.2).next]? = some ⟨0, BitVec.ofNat 256 q.2.2⟩ ∧ (tr.tile 0).pending = q.2.1) ∧
    (desc4 / 2 ^ 224 % 16 ≠ 0 ∧ (BitVec.ofNat 256 desc4).toNat = desc4 ∧ (∀ row ∈ rowsOf ((referring g2 false 0 0).tile 0).data, keptSlots (desc4 / 2 ^ 128 % 2 ^ 64) 0 (row.getD 4 0).toNat = []) ∧
      (∀ qr c t dim img, (rowX qr c t dim img []).xs = []) ∧
      ∀ hold ∈ [false, true], ∀ mref ∈ [0, 0xC2C80000], ∃ kimg vimg s1, (attnAt hold false desc4 mref).attnFrames (entering hold desc4).agent 32 desc4 [] = .ok kimg vimg s1) ∧
    highAfter (referring g2 false 0xC2C80000 0) = true ∧ highAfter (referring g2 false 0 0) = false ∧ ∀ q ∈ [0, 1], ((referring g2 false 0 0).tile q).data.length = 1024 := by
  refine ⟨fun q hq m hm => ?_, ⟨by decide +kernel, by decide +kernel, by decide +kernel, fun _ _ _ _ _ => rfl, fun h hh m hm => ?_⟩, by decide +kernel, by decide +kernel, by decide +kernel⟩
  · have e : ∀ q ∈ [(true, true, 0), (false, false, 0), (false, false, desc4), (true, false, desc4)], ∀ mref ∈ [0, 0xC2C80000], (attnAt q.1 q.2.1 q.2.2 mref).warp? (entering q.1 q.2.2).agent = some (entering q.1 q.2.2) := by
      decide +kernel
    have f : ∀ q ∈ [(true, true, 0), (false, false, 0), (false, false, desc4), (true, false, desc4)], ∀ mref ∈ [0, 0xC2C80000], (attnAt q.1 q.2.1 q.2.2 mref).stands (entering q.1 q.2.2) = false := by decide +kernel
    exact ⟨rfl, e q hq m hm, rfl, rfl, rfl, rfl, f q hq m hm, rfl, rfl, rfl, rfl, rfl⟩
  · rcases List.mem_pair.1 hh with rfl | rfl <;> rcases List.mem_pair.1 hm with rfl | rfl <;> exact frames_nil rfl (by decide +kernel)

/-! attn.close, rescale, descriptors, engine commands, drains -/

/-- A tray whose state tile 0 has had an attn of one empty entry: pending, held by a group, neither. -/
def rescaling (pending : Bool) (held : Option Nat) : Tray :=
  { wordTray 0 with warps := [g2], tiles := ⟨true, some 0, 0, 0, none, ((List.replicate 32 ([0, 0x41200000] ++ List.replicate 30 (0 : Word32))).flatten), held, pending, some ⟨0x100000, 32, [(0, true)]⟩⟩ :: (wordTray 0).tiles.tail }

theorem witness_RescaleCompletes : ∀ x ∈ [(true, some 0), (false, none), (false, some 0)], let tr := rescaling x.1 x.2
    let s := machineT g2 tr
    Issues s g2 (.rescale all 1 0) ∧ (g2.passing all).isEmpty = false ∧ g2.agent = .group 0 0 0 ∧ s.tray? 0 0 = some tr ∧ tr.launch = 0 ∧ tr.idx = 0 ∧ (tr.tile 0).alloc = true ∧ (tr.tile 0).pending = x.1 ∧ (tr.tile 0).held = x.2 ∧
    ∀ j, j ≤ 1 → (tr.tile (0 + j)).data.length = 1024 ∧ 0 + j < tr.tiles.length := by
  intro x hx
  simp only [List.mem_cons, List.not_mem_nil, or_false] at hx
  rcases hx with rfl | rfl | rfl <;>
  exact ⟨issues_of (by decide +kernel), by decide +kernel, rfl, rfl, rfl, rfl, by decide +kernel, by decide +kernel, by decide +kernel, by decide +kernel⟩

/-- The target of a mass add at 0x1000. -/
def massTarget : Target := ⟨.mem [.fab 0x400] 15, 0, some 0x1000, false, false, false, 0x1000⟩

theorem witness_AttentionCloses :
    (let tr := rescaling false none
      let s := machineT g2 tr
      Issues s g2 (.attnClose all 0) ∧ (g2.passing all).isEmpty = false ∧ TilesFree s g2 tr [] [0, 1] ∧ (tr.tile 0).last = some ⟨0x100000, 32, [(0, true)]⟩ ∧ (∀ q ∈ [0, 1], (tr.tile q).data.length = 1024 ∧ q < tr.tiles.length)) ∧
    (∀ n, FFmt.f32.dec 0x3F800000 ≠ .inf n) ∧ (0 : ℚ) ≤ (([] : List (List Word32)).map fun _ => (0 : ℚ)).sum ∧
    (let u := m2.sampled g2 0 massTarget 3 (m2.servedBy g2.agent massTarget);
      massTarget.place = .mem [.fab 0x400] 15 ∧ massTarget.sub = 0 ∧ massTarget.fab = some (4 * 0x400) ∧ u.redFails (4 * 0x400) = none ∧ (u.ord g2.agent).outbox = [] ∧ (u.newest (.fab 0x400)).poison = false ∧
      bit u.regs.srvCtl.toNat 1 = false ∧ ∃ s1, (u.readAt g2.agent massTarget 4 false).2.room (4 * 0x400) = some s1) ∧
    ((t2.tile 0).last = none ∧ (t2.tile 0).alloc = true ∧ Issues m2 g2 (.attnClose all 0)) :=
  ⟨⟨issues_of (by decide +kernel), by decide +kernel, free_of rfl rfl rfl rfl (by decide +kernel), by decide +kernel, by decide +kernel⟩, by decide +kernel, by simp,
    ⟨rfl, rfl, rfl, by decide +kernel, by decide +kernel, by decide +kernel, by decide +kernel, some_of (by decide +kernel)⟩, by decide +kernel, by decide +kernel, issues_of (by decide +kernel)⟩

/-- A tray whose scratchpad names the descriptors at 0x100000 and 0x100020. -/
def swapping : Tray := { wordTray 0 with warps := [g2], sp := memWrite (memWrite [] 0 8 0x100000) 8 8 0x100020 }

theorem witness_SlotsAndSwaps : Issues m2 g2 (.slot all 4 0 (.s 1) 1) ∧
    (let s := machineT g2 swapping
      let r := s.readSp g2.agent launch 0 0 64
      let va := fun k => r.1 / 2 ^ (64 * k) % 2 ^ 64
      Issues s g2 (.btswap all (.s 0) 0) ∧ (g2.passing all).isEmpty = false ∧ s.launchOf g2.agent = some launch ∧ s.groupTray g2 = some swapping ∧ launch.f.racy = true ∧ launch.f.mode = 0 ∧ 64 ≤ launch.f.spBytes ∧ va 0 ≠ va 1 ∧ s.spPoison launch.id 0 0 64 = false ∧
      g2.dsr = none ∧ bit s.regs.srvCtl.toNat 1 = false ∧
      ∃ q : List Target × State, swapChecks g2 [va 0, va 1] r.2 = .ok q ∧ (∃ t0 t1 f0 f1, q.1 = [t0, t1] ∧ (q.2.ord g2.agent).outbox = [] ∧ t0.fab = some f0 ∧ t1.fab = some f1 ∧ t0.sub = 0 ∧ t1.sub = 0 ∧
        f0 % 32 = 0 ∧ f1 % 32 = 0 ∧ f0 ≠ f1 ∧ t0.place = .mem ((List.range 8).map fun j => .fab (f0 / 4 + j)) 15 ∧ t1.place = .mem ((List.range 8).map fun j => .fab (f1 / 4 + j)) 15 ∧
        (q.2.publish g2.agent).side f0 = .served ∧ (q.2.publish g2.agent).side f1 = .served ∧
        ∃ s2, (q.2.publish g2.agent).roomFor ⟨((writeOp (g2.lane (g2.front.headD 0)) (g2.front.headD 0) t0 0).pieces ++ (writeOp (g2.lane (g2.front.headD 0)) (g2.front.headD 0) t1 0).pieces), 0, 0, 0, 0⟩ = some s2 ∧
          ∀ j, j < 8 → (s2.newest (.fab (f0 / 4 + j))).poison = false ∧ (s2.newest (.fab (f1 / 4 + j))).poison = false)) := by
  refine ⟨issues_of (by decide +kernel), issues_of (by decide +kernel), by decide +kernel, by decide +kernel, ?_, ?_, ?_, ?_, ?_, ?_, rfl, ?_, ?_⟩
  iterate 7 decide +kernel
  refine ex_of _ (fun q => match q.1 with
    | [t0, t1] => match t0.fab, t1.fab with
      | some f0, some f1 => ((q.2.ord g2.agent).outbox == [] && t0.sub == 0 && t1.sub == 0 && f0 % 32 == 0 && f1 % 32 == 0 && f0 != f1 &&
        t0.place == .mem ((List.range 8).map fun j => .fab (f0 / 4 + j)) 15 && t1.place == .mem ((List.range 8).map fun j => .fab (f1 / 4 + j)) 15 &&
        (q.2.publish g2.agent).side f0 == .served && (q.2.publish g2.agent).side f1 == .served &&
        match (q.2.publish g2.agent).roomFor ⟨((writeOp (g2.lane (g2.front.headD 0)) (g2.front.headD 0) t0 0).pieces ++ (writeOp (g2.lane (g2.front.headD 0)) (g2.front.headD 0) t1 0).pieces), 0, 0, 0, 0⟩ with
        | some s2 => (List.range 8).all fun j => !(s2.newest (.fab (f0 / 4 + j))).poison && !(s2.newest (.fab (f1 / 4 + j))).poison
        | none => false)
      | _, _ => false
    | _ => false) (fun q h => ?_) (by decide +kernel)
  split at h
  · rename_i t0 t1 hq
    split at h
    · rename_i f0 f1 h0 h1
      split at h
      · rename_i s2 hs
        simp only [Bool.and_eq_true, Bool.not_eq_true', beq_iff_eq, bne_iff_ne, List.all_eq_true, List.mem_range] at h
        obtain ⟨⟨⟨⟨⟨⟨⟨⟨⟨⟨a2, a3⟩, a4⟩, a5⟩, a6⟩, a7⟩, a8⟩, a9⟩, b1⟩, b2⟩, b3⟩ := h
        exact ⟨t0, t1, f0, f1, hq, a2, h0, h1, a3, a4, a5, a6, a7, a8, a9, b1, b2, s2, hs, b3⟩
      · simp at h
    · cases h
  · cases h

/-! Engine commands and drains -/

/-- A tray whose scratchpad holds a record image at 0 (its address 0x100040) and one with word 7 at 64. -/
def imaged : Tray := { wordTray 0 with warps := [g2], sp := memWrite (memWrite [] 0 8 0x100040) 120 8 1 }
/-- A group with s1 = 5, s2 = 0x100000, s3 = 64. -/
def commander : Warp := group [0, 5, 0x100000, 64] [lane 0 [7, 3, 64], lane 1 [9, 4, 128]]

/-- Its machine, with the first word of the scratchpad poisoned or not. -/
def commanding (bad : Bool) : State := { machineT commander imaged with vers := if bad then [(.sp 0 0 0, [⟨0, none, .init, true⟩])] else [] }

theorem witness_EngineInstructions : let s := commanding false
    let tr := { imaged with warps := [commander] }
    let f : EFlags := ⟨.device, false, true, false⟩
    let r := s.readSp commander.agent launch 0 0 64
    (∀ a ∈ [SSrc.s 0, .s 1, .s 2, .s 3], ∀ i ∈ [Instr.append all f 0 4 a 3, .copy all f 4 a 9, .stream all f 4 a 9, .gather all f 4 a 9, .select all f 4 a 9, .coll all f 4 a 9, .demote all f 4 a 9, .migrate all f 4 a 9], Issues s commander i) ∧
    ((commander.passing all).isEmpty = false ∧ s.launchOf commander.agent = some launch ∧ s.groupTray commander = some tr ∧ launch.f.racy = true ∧ (rdS commander (.s 1)).toNat % 2 ^ 32 % 64 ≠ 0 ∧
      (rdS commander (.s 2)).toNat % 2 ^ 32 % 64 = 0 ∧ launch.f.spBytes < (rdS commander (.s 2)).toNat % 2 ^ 32 + 64 ∧ (s.readSp commander.agent launch 0 64 64).1 / 2 ^ 448 % 2 ^ 64 ≠ 0 ∧
      64 + 64 ≤ launch.f.spBytes) ∧ (s.spPoison launch.id 0 64 64 = false ∧ r.1 / 2 ^ 448 % 2 ^ 64 = 0 ∧ r.1 % 2 ^ 64 % 64 = 0 ∧ s.spPoison launch.id 0 0 64 = false ∧ commander.dsr = none ∧ r.2.hitHalt commander .g .store 64 [r.1 % 2 ^ 64] = none) ∧
    (Issues (commanding true) commander (.copy all f 4 (.s 0) 9) ∧ (commanding true).spPoison launch.id 0 0 64 = true) ∧
    ∃ q : Target × State, r.2.check commander (commander.front.headD 0) .g .store false true (r.1 % 2 ^ 64) 64 commander.frontMask = .ok q ∧
      let op := writeOp (commander.lane (commander.front.headD 0)) (commander.front.headD 0) q.1 (2 + 2 ^ 8 + 1 * 2 ^ 10 + 2 ^ 64 * (r.1 / 2 ^ 64 % 2 ^ 384))
      let s2 := q.2.publish commander.agent
      (q.2.ord commander.agent).hasWrite = false ∧ s2.writeInHold op = none ∧ s2.writeFails op = none ∧ s2.writeAbsent op = none ∧ (s2.roomFor op).isSome = true := by
  intro s tr f r
  refine ⟨fun a ha => issues_all ?_, by decide +kernel, by decide +kernel, ⟨issues_of ?_, by decide +kernel⟩,
    ex_of _ (fun q : Target × State => !(q.2.ord commander.agent).hasWrite &&
      (let op := writeOp (commander.lane (commander.front.headD 0)) (commander.front.headD 0) q.1 (2 + 2 ^ 8 + 1 * 2 ^ 10 + 2 ^ 64 * (r.1 / 2 ^ 64 % 2 ^ 384))
      let s2 := q.2.publish commander.agent
      s2.writeInHold op == none && s2.writeFails op == none && s2.writeAbsent op == none && (s2.roomFor op).isSome)) (fun q h => ?_) ?_⟩
  · simp only [List.mem_cons, List.not_mem_nil, or_false] at ha
    rcases ha with rfl | rfl | rfl | rfl <;> decide +kernel
  · decide +kernel
  · simpa only [Bool.and_eq_true, Bool.not_eq_true', beq_iff_eq, and_assoc] using h
  · decide +kernel

/-- A write of two words. -/
def twoWords : WriteOp := ⟨[⟨.sp 0 0 16, 15, 7⟩, ⟨.fab 4096, 3, 9⟩], 0, 0, 0, 0⟩
/-- A write of a word that is not backed. -/
def nowhere : WriteOp := ⟨[⟨.fab (2 ^ 43), 15, 9⟩], 0, 0, 0, 0⟩

theorem witness_AWriteDrains : (∀ p, g2.agent ≠ .port p) ∧ (∀ c h q, g2.agent ≠ .engine c h q) ∧
    (let s := (m2.push g2.agent (.write ⟨[⟨.fab 5000, 15, 1⟩], 0, 0, 0, 0⟩) false).push g2.agent (.write twoWords) false; (s.ord g2.agent).outbox[1]? = some ⟨.write twoWords, 0⟩ ∧
      ((s.ord g2.agent).outbox.take 1).all (fun e => match e.kind with
        | .write v => !v.overlaps twoWords
        | _ => false) = true ∧ s.intoSlide twoWords = false ∧ s.writeInHold twoWords = none ∧ s.writeFails twoWords = none ∧ s.writeAbsent twoWords = none ∧ (∃ s1, s.roomFor twoWords = some s1) ∧
      bit s.regs.srvCtl.toNat 1 = false ∧ (twoWords.pieces.map Piece.loc).Nodup ∧ (∀ p ∈ twoWords.pieces, ∀ l t r, p.loc ≠ .ctl l t r) ∧ s.mem.wf = true ∧ ∀ t ∈ s.trays, t.sp.wf = true ∧ t.pm.wf = true) ∧
    (let s := m2.push g2.agent (.write nowhere) false; (s.ord g2.agent).outbox[0]? = some ⟨.write nowhere, 0⟩ ∧ s.intoSlide nowhere = false ∧ s.writeInHold nowhere = none ∧ s.writeFails nowhere = some 0x14 ∧ s.warp? g2.agent = some g2 ∧
      g2.dsr = none ∧ (s.launchOf g2.agent).bind Launch.ending = none) :=
  ⟨fun _ => Agent.noConfusion, fun _ _ _ => Agent.noConfusion, ⟨by decide +kernel, by decide +kernel, by decide +kernel, by decide +kernel, by decide +kernel, by decide +kernel, some_of (by decide +kernel), by decide +kernel,
    by decide +kernel, by simp [twoWords], by decide +kernel, by decide +kernel⟩, by decide +kernel⟩

/-- An arrival on its way. -/
def onTheWay : Arrival := ⟨0, 0, 64, 32, ⟨g2.agent, 1⟩⟩

theorem witness_ReleasesAndArrivals : (((m2.push g2.agent (.release .device none) true).ord g2.agent).outbox = [⟨.release .device none, 0⟩]) ∧
    (let s := m2.push g2.agent (.release .device (some twoWords)) true; (s.ord g2.agent).outbox = [⟨.release .device (some twoWords), 0⟩] ∧ s.intoSlide twoWords = false ∧ s.writeInHold twoWords = none ∧ s.writeFails twoWords = none ∧ s.writeAbsent twoWords = none ∧ bit s.regs.srvCtl.toNat 1 = false ∧ ∃ s1, s.roomFor twoWords = some s1) ∧
    (let s := m2.push g2.agent (.release .device (some nowhere)) true; (s.ord g2.agent).outbox = [⟨.release .device (some nowhere), 0⟩] ∧ s.intoSlide nowhere = false ∧ s.writeInHold nowhere = none ∧ s.writeFails nowhere = some 0x14 ∧
      s.warp? g2.agent = some g2 ∧ g2.dsr = none ∧ g2.late = none ∧ g2.front ≠ [] ∧ s.stands g2 = false ∧ (s.launchOf g2.agent).bind Launch.ending = none) ∧
    (((m2.push g2.agent (.arrive .tray 0 64 32) true).ord g2.agent).outbox = [⟨.arrive .tray 0 64 32, 0⟩] ∧ g2.agent.launchId = some 0) ∧
    (let s := { m2 with arriving := [onTheWay] };
      onTheWay ∈ s.arriving ∧ s.arriving.find? (fun y => y.launch == onTheWay.launch && y.tray == onTheWay.tray && y.off == onTheWay.off && y.n == onTheWay.n) = some onTheWay ∧ s.tray? 0 0 = some t2 ∧
      (∀ l, s.launch? 0 = some l → l.phase ≠ .sliding) ∧ ∀ j, j < 4 → (s.newest (.sp 0 0 (64 / 4 + j))).val.toNat < 2 ^ 32) := by
  refine ⟨by decide +kernel, ⟨by decide +kernel, by decide +kernel, by decide +kernel, by decide +kernel, by decide +kernel, by decide +kernel, some_of (by decide +kernel)⟩, by decide +kernel, ⟨by decide +kernel, rfl⟩, by decide +kernel,
    by decide +kernel, by decide +kernel, fun l h => ?_, by decide +kernel⟩
  cases h
  decide +kernel

/-- A context with an entry of the freeze table. -/
def freezing (e : FrzEntry) : State := m2.setCtx 0 { wordContext with frozen := [e] }
/-- A group that waits. -/
def inWait (w : Wait) : Warp := { g2 with wait := some w, waitF := 3 }

theorem witness_CommandsAndFreezesDrain_lost : ∀ r ∈ [(none : Option DeferredRec), some ⟨0x100008, 0, 0, 0x100040, 0x11, false⟩], ∀ h ∈ [true, false], ∀ f ∈ [[], [0, 1]],
    let w : Warp := { g2 with dsr := r, halted := h, lanes := if f.isEmpty then g2.lanes.map fun l => { l with st := .parked } else g2.lanes }
    let s := (machine w).push w.agent (.command .device 9 0x100040 4 0x100008 true) true
    (s.ord w.agent).outbox = [⟨.command .device 9 0x100040 4 0x100008 true, 0⟩] ∧ s.warp? w.agent = some w ∧ w.late = none ∧ s.stands w = h ∧ w.front = f := by
  decide +kernel

theorem witness_CommandsAndFreezesDrain :
    (let s := m2.push g2.agent (.command .device 9 0x100040 4 0x100008 false) true; (s.ord g2.agent).outbox = [⟨.command .device 9 0x100040 4 0x100008 false, 0⟩] ∧ s.warp? g2.agent = some g2 ∧ g2.dsr = none ∧ (s.who g2.agent).mode = 0 ∧ s.midList (s.ctxOf g2.agent) 9 = false ∧
      (s.ctx (s.ctxOf g2.agent)).chains.length = 64 ∧ ∀ r ∈ (s.chain (s.ctxOf g2.agent) 9).recs, r.seq ≠ ((s.chain (s.ctxOf g2.agent) 9).seq + 1) % 2 ^ 64) ∧
    (∀ x ∈ [([] : List FrzEntry), [⟨0x100000, 4096, 1, none, none⟩], (List.range 64).map fun j => ⟨0x200000 + 4096 * j, 4096, 1, none, none⟩],
      let w := inWait (.freeze 4)
      let s := ((machine w).setCtx 0 { wordContext with frozen := x }).push w.agent (.freeze 0x100000 4096 0x100000 0x100008) true
      s.warp? w.agent = some w ∧ (s.who w.agent).mode = 0 ∧ (s.ord w.agent).outbox = [⟨.freeze 0x100000 4096 0x100000 0x100008, 0⟩] ∧ w.wait = some (.freeze 4) ∧ s.ctx (s.ctxOf w.agent) = { wordContext with frozen := x } ∧
      (x.any fun e => e.base == 0x100000 && e.size == 4096 && e.thaw.isSome) = false ∧ wordContext.track = []) ∧
    (let w := inWait (.freeze 4); (machine w).warp? w.agent = some w ∧ ((machine w).ord w.agent).outbox = [] ∧ w.late = none ∧ (machine w).stands w = false) ∧
    (∀ x ∈ [([] : List FrzEntry), [⟨0x100000, 4096, 1, none, none⟩], [⟨0x100000, 4096, 2, none, none⟩]],
      let w := inWait (.thaw 4)
      let s := ((machine w).setCtx 0 { wordContext with frozen := x }).push w.agent (.thaw 0x100000 4096) true
      s.warp? w.agent = some w ∧ (s.who w.agent).mode = 0 ∧ (s.ord w.agent).outbox = [⟨.thaw 0x100000 4096, 0⟩] ∧ w.wait = some (.thaw 4) ∧ s.ctx (s.ctxOf w.agent) = { wordContext with frozen := x }) ∧
    (let e : FrzEntry := ⟨0x100000, 4096, 1, some 1, none⟩
      let s := m2.setCtx 0 { wordContext with frozen := [e], frz := 0x100800 }
      (s.ctx 0).frozen.find? (fun e => e.thaw == some 1) = some e ∧ 1 = (s.ctx 0).thawDone + 1 ∧ (s.ctx 0).thawOut = [] ∧ bits (s.ctx 0).frz.toNat 3 49 * 8 ≠ 0 ∧ s.mem.wf = true) := by
  refine ⟨by decide +kernel, fun x hx => ?_, by decide +kernel, fun x hx => ?_, by decide +kernel⟩
  · simp only [List.mem_cons, List.not_mem_nil, or_false] at hx
    rcases hx with rfl | rfl | rfl <;> decide +kernel
  · simp only [List.mem_cons, List.not_mem_nil, or_false] at hx
    rcases hx with rfl | rfl | rfl <;> decide +kernel

/-! The host's steps -/

/-- The machine with the management semaphore as given. -/
def semState (v : Nat) : State := { m2 with regs := { m2.regs with mgmtSem := BitVec.ofNat 64 v } }
/-- The semaphore held by port 0. -/
def held0 : State := semState 0x200
/-- Context 1 of the machine is the given one. -/
def withCtx (x : Context) : State := held0.setCtx 1 x
/-- A record that has started, or not. -/
def record (seq st : Nat) : Rec := ⟨seq, 0x100040, st, none, [], none, none, none, [], 0, none, 0, [], 0, none, 0, none, none⟩
/-- A context of port 0 with the chain 9 as given. -/
def owned (c : Chain) : Context := { Context.clear with st := 1, chains := Context.clear.chains.set 9 c }
/-- The same with range 3 staged: base 0x100000, size 64 KiB, fabric base as given. -/
def staging (fbase slot : Nat) : Context := { Context.clear with st := 1, ranges := Context.clear.ranges.set 3 ⟨0x100000, 0, BitVec.ofNat 64 fbase, BitVec.ofNat 64 slot⟩ }

theorem witness_TheSemaphoreGuards : (∀ s ∈ [semState 0, held0, semState 0x300], Reaches s 0) ∧ ((semState 0).regs.mgmtSem.getLsbD 9 = false) ∧ HoldsSem held0 0 ∧ ¬ HoldsSem (semState 0x300) 0 ∧
    ¬ ((0x55 : BitVec 8).toNat = (0 : Port).val ∧ ((semState 0x300).regs.mgmtSem.getLsbD 9 = false ∨ HoldsSem (semState 0x300) 0)) ∧ ¬ ((0x55 : BitVec 8) = 0xFF ∧ HoldsSem (semState 0x300) 0) ∧ (3 : BitVec 2) ≠ 0 := by
  unfold Reaches HoldsSem
  decide +kernel

theorem witness_ContextsRangesChains :
    (∀ x ∈ [Context.clear, owned Chain.clear], Reaches (withCtx x) 0) ∧ HoldsSem (withCtx Context.clear) 0 ∧
    (((withCtx Context.clear).ctx 1).st = 0 ∧ bit (withCtx Context.clear).regs.secStat.toNat 3 = false) ∧
    (let idle := fun (s : State) => ∀ g ∈ (s.ctx 1).chains, ∀ r ∈ g.recs, r.st ≠ 1;
      (let s := withCtx (owned Chain.clear); (s.ctx 1).st = 1 ∧ (s.ctx 1).owner = 0 ∧ idle s ∧ (s.ctx 1).chains.length = 64 ∧ (s.ctx 1).held = [] ∧ s.ctxMode 1 = 0 ∧ (s.chain 1 9).enable = false ∧ (s.chain 1 9).seq ≤ (5 : Word).toNat ∧
        (s.chain 1 9).cmpl.toNat / 8 % 2 ^ 49 = 0 ∧ HoldsSem s 0 ∧ bit s.regs.secStat.toNat 3 = false ∧ (s.ord (.port 0)).outbox = []) ∧
      (let s := (withCtx (owned Chain.clear)).push (.port 0) (.write twoWords) false; Reaches s 0 ∧ (s.ctx 1).st = 1 ∧ (s.ctx 1).owner = 0 ∧ (s.ctx 1).held = [] ∧ (s.ord (.port 0)).outbox ≠ []) ∧
      (let s := withCtx (owned { Chain.clear with recs := [record 1 1] }); (s.ctx 1).st = 1 ∧ (s.ctx 1).owner = 0 ∧ ¬ idle s ∧ (s.ctx 1).chains.length = 64 ∧ ∀ g ∈ (s.ctx 1).chains, (g.recs.map Rec.seq).Nodup) ∧
      (let s := withCtx { owned Chain.clear with owner := 1 }; (s.ctx 1).st ≠ 0 ∧ (s.ctx 1).owner ≠ (0 : Port).val) ∧
      (let s := withCtx (owned { Chain.clear with engine := 2 }); (s.chain 1 9).enable = false ∧ (s.chain 1 9).engine ≠ 0) ∧
      ∀ q ∈ [(0x100000, 0, (0x10000 : Word), (0 : BitVec 6)), (0x100000, 0, 0, 16), (0x3F0000000000, 0, 0x10000, 2), (0x100000, 7, 0x10000, 4), (0xFFFFFFFFF0000, 0, 0x20000, 2)],
        let s := withCtx (staging q.1 q.2.1)
        let r : Range := { (s.ctx 1).ranges.getD 3 Range.clear with size := (q.2.2.1 &&& 0x00FFFFFFFFFF001F) ||| 0x20 }
        let last := r.fbase + r.bytes - 1
        Reaches s 0 ∧ (s.ctx 1).st ≠ 0 ∧ (s.ctx 1).owner = (0 : Port).val ∧ idle s ∧ (q.2.2.2 = 16 ↔ (r.bytes = 0 ∨ 2 ^ 56 < r.vbase + r.bytes)) ∧
        (∀ p ∈ (s.ctx 1).ranges.eraseIdx 3, p.valid = false) ∧ (q.2.2.2 ≠ 16 → (q.2.2.2 = 2 ↔ ¬ (pkgOf r.fbase = pkgOf last ∧ regionOf (offOf r.fbase) = regionOf (offOf last) ∧ regionOf (offOf r.fbase) ≠ .mgmt ∧
          s.backed r.fbase = true ∧ s.backed last = true ∧ r.fbase + r.bytes ≤ 2 ^ 52))) ∧
        (q.2.2.2 = 4 ↔ (r.slot ≠ 0 ∧ alGet s.keys r.slot = none) ∨ (r.slot ≠ 0 ∧ hostHomed r.fbase = true) ∨ (r.slot = 0 ∧ hostHomed r.fbase = false ∧ s.regs.secStat.toNat % 4 = 3))) := by
  unfold Reaches HoldsSem
  refine ⟨?_, ?_, ?_, ?_, ?_, ?_, ?_, ?_, ?_⟩ <;> decide +kernel

/-! Key slots, the memory side, waits, lanes' own steps -/

/-- The staging area for slot 5, complete or not. -/
def loaded (mask : Nat) (sec : Nat) : State := { held0 with regs := { held0.regs with keyFor := some (5, 0), keyMask := BitVec.ofNat 8 mask, secStat := BitVec.ofNat 64 sec } }

theorem witness_KeysAndRegisters : (∀ s ∈ [loaded 0xFF 0, loaded 0x7F 0, loaded 0xFF 3], Reaches s 0 ∧ HoldsSem s 0) ∧
    (let s := loaded 0xFF 0; s.regs.secStat.toNat % 4 ≠ 3 ∧ s.regs.keyFor = some (5, (0 : Port).val) ∧ s.regs.keyMask = 0xFF ∧ ∀ q ∈ s.ctxs, ∀ g ∈ q.2.ranges, g.valid = true → g.slot ≠ (5 : BitVec 13).toNat) ∧
    (loaded 0x7F 0).regs.keyMask ≠ 0xFF ∧ ¬ ((loaded 0xFF 3).regs.secStat.toNat % 4 ≠ 3) ∧ ((loaded 0 0).ctx 0).st ≠ 0 ∧ ((loaded 0 0).ctx 0).owner = (0 : Port).val := by
  unfold Reaches HoldsSem
  decide +kernel

/-- The machine with translation on and the page of 0x100000 mapped by the given entry. -/
def mapped (w : Warp) (e : Nat) : State :=
  { machine w with
    mem := memWrite (memWrite (memWrite (memWrite [] 0x8000 8 0x8801) 0x8800 8 0x9001) 0x9000 8 0x9801) 0x9880 8 e
    regs := { (machine w).regs with mtRoot := 0x8001 } }
/-- A group whose lane 1 is parked for the page of 0x100000. -/
def parked : Warp := group [] [lane 0 [], { lane 1 [] with st := .parked, park := some 0x10, parkVa := 0x100000 }]
/-- A reservation that has waited for 50 microseconds. -/
def starved : RoomWait := ⟨3, 7, 1, 0, g2.agent, some twoWords⟩
/-- A machine in which the page of 0x100000 is in a migration's final hold. -/
def finalHold : State := { m2 with migs := [⟨0x10, true, 0, 3, [], true, none⟩] }
/-- A host write of four bytes at 0x100000. -/
def fourBytes : WriteOp := bytesWrite 0x100000 [1, 2, 3, 4]

theorem ready_of {s : State} {w : WriteOp} (h : ((s.writeInHold w).isNone && (s.writeFails w).isNone && (s.writeAbsent w).isNone && (s.roomFor w).isSome) = true) : ∃ s1, s.writeSide w = .ready s1 := by
  simp only [Bool.and_eq_true, Option.isNone_iff_eq_none] at h
  obtain ⟨s1, e⟩ := some_of h.2
  exact ⟨s1.walkLines w, by simp only [State.writeSide, h.1.1.1, h.1.1.2, h.1.2, e]⟩

theorem fails_of {s : State} {w : WriteOp} {c : Nat} (h : s.writeInHold w = none ∧ s.writeFails w = some c) : s.writeSide w = .fails c := by simp only [State.writeSide, h.1, h.2]

theorem waits_of {s : State} {w : WriteOp} {g : Nat} (h : s.writeInHold w = some g) : s.writeSide w = .waits g := by simp only [State.writeSide, h]

theorem witness_MemorySideSteps_host :
    ((m2.boot.off = false ∧ m2.portIsUp 0 = true ∧ memoryAt 0x100000 = true) ∧ memoryAt (4 * 2 ^ 43) = true ∧ regionOf (offOf 0x3F0000000000) = .mgmt ∧ pkgOf 0x3F0000000000 = m2.pkg) ∧
    ((freezing ⟨0x100000, 4096, 1, none, none⟩).frozenAny 0x100000 4 = true ∧
      ∀ s ∈ [m2, finalHold, m2.push (.port 0) (.write twoWords) false], s.frozenAny 0x100000 4 = false ∧ (fourBytes.pieces.length = 1 ∧ s.frozenAny (4 * (0x100000 / 4 + 0)) 4 = false) ∧ ∀ q ∈ s.ctxs, q.2.held = []) ∧
    (((m2.push (.port 0) (.write twoWords) false).ord (.port 0)).outbox ≠ [] ∧ finalHold.writeSide fourBytes = .waits 0x10 ∧ (m2.ord (.port 0)).outbox = []) ∧
    ((∃ s1, m2.writeSide fourBytes = .ready s1) ∧ m2.writeSide (bytesWrite (4 * 2 ^ 43) [1]) = .fails 0x14 ∧ m2.mem.wf = true ∧ bit m2.regs.srvCtl.toNat 1 = false) ∧
    (m2.held 0x100000 = false ∧ m2.held (0x100000 + 4 - 1) = false ∧ m2.side 0x100000 = .served ∧ m2.side (0x100000 + 4 - 1) = .served ∧ ∀ j ∈ [0x40000], (m2.newest (.fab j)).poison = false) ∧
    finalHold.held 0x100000 = true ∧ (∃ fa : BitVec 52, regionOf (offOf fa.toNat) = .host (0 : Port).val) ∧ ∀ b ∈ m2.ords, m2.coreOf b.1 = some 0 → ∀ e ∈ b.2.outbox, ∀ o, e.kind = .write o → ∀ x ∈ o.lines, x / 128 ≠ 0x100000 / 128 := by
  refine ⟨?_, ?_, ⟨?_, waits_of ?_, ?_⟩, ⟨ready_of ?_, fails_of ?_, ?_⟩, ?_, ?_, ⟨0x300000000000, ?_⟩, fun b hb => ?_⟩
  case refine_12 => exact absurd (show b ∈ ([] : List (Agent × Ord)) from hb) (List.not_mem_nil)
  all_goals decide +kernel

theorem witness_MemorySideSteps :
    (m2.translated 0x100000 = false ∧ (mapped g2 1).translated 0x100000 = true ∧ (mapped g2 1).mem.wf = true ∧ (mapped g2 1).walkTo (offOf 0x100000) = some 0x9880) ∧
    (∀ e ∈ [1, 0, 3, 2], let s := mapped parked e
      (∃ l t g, parked.agent = .group l t g) ∧ s.warp? parked.agent = some parked ∧ parked.agent ∈ s.warpAgents ∧ parked.parkedFor 0x10 ≠ [] ∧ parked.evicted = false ∧ (s.who parked.agent).mode = 0 ∧
      s.pageState (0x10 * 65536) = (if e = 1 then .present false else if e = 2 then .absent else if e = 3 then .poisoned else .unmapped)) ∧
    (∀ k, (parked.lane k).back = none) ∧
    (let s := { m2 with roomWaits := [starved], now := 50000 }; s.roomWaits.find? (fun r => r.channel == (3 : Fin 512).val && decide (r.since.toNat + 50000 ≤ s.now.toNat)) = some starved ∧ starved.op = some twoWords ∧
      starved.agent = g2.agent ∧ s.warp? g2.agent = some g2 ∧ g2.dsr = none ∧ (s.launchOf g2.agent).bind Launch.ending = none) ∧
    (let q : AtomReq := .op .add .n32 5
      let locs := [Loc.fab 0x40000]
      let s0 : State := (m2.walkFor 0x100000).recall ⟨.mem locs 0, 0, some 0x100000, false, false, false, 0x100000⟩
      q.bytes = 4 ∧ q.flt = false ∧ (AtomReq.op .add .f32 5).flt = true ∧ hostHomed 0x300000000000 = true ∧ m2.side 0x300000000000 = .served ∧ m2.redFails 0x300000000000 = none ∧ m2.frozenAny 0x300000000000 4 = false ∧ (m2.newest (.fab 0xC0000000000)).poison = false ∧ m2.side 0x100000 = .served ∧ m2.redFails 0x100000 = none ∧ m2.frozenAny 0x100000 4 = false ∧ (∀ l ∈ locs, (s0.newest l).poison = false) ∧ q.run (memRead s0.mem 0x100000 4) = some 5 ∧
      (AtomReq.cas .b32 1 2).run (memRead s0.mem 0x100000 4) = none ∧ (State.roomFor { s0 with atomOld := 0 } ⟨[⟨.fab 0x40000, 15, 5⟩], 0, 0, 0, 0x100000⟩).isSome = true) ∧
    ∀ r ∈ m2.requests, r.agent ≠ g2.agent := by
  refine ⟨?_, fun e he => ⟨⟨0, 0, 0, rfl⟩, ?_⟩, fun k => ?_, ?_, ?_, ?_⟩
  · decide +kernel
  · revert e
    decide +kernel
  · match k with
    | 0 => rfl
    | 1 => rfl
    | k + 2 => rfl
  all_goals decide +kernel

theorem witness_WaitsEnd : (∀ x ∈ [Wait.bpctl, .sleep 0, .sleep 5, .logFlush, .rflush 0x100000 256, .qpush, .qpop], let w := inWait x; (machine w).warp? w.agent = some w ∧ (machine w).stands w = false ∧ (machine w).appending w.agent = false ∧ w.wait = some x) ∧
    ((0 : Word) ≤ m2.now ∧ m2.now < 5 ∧ ((m2.ctx 0).logUsed ≠ (m2.ctx 0).logCap ∨ (m2.who g2.agent).mode ≠ 1) ∧ m2.pendingIn g2.agent 0x100000 256 = false ∧
      (m2.push g2.agent (.write ⟨[⟨.fab 0x40000, 15, 5⟩], 0, 0, 0, 0⟩) false).pendingIn g2.agent 0x100000 256 = true) ∧
    (∀ x ∈ [(Wait.qpush, Instr.qpush all 4 (.s 0)), (.qpop, .qpop all 4 (.s 0) 1)],
      let s := machine (inWait x.1)
      { s with launches := [{ launch with code := memWrite (memWrite [] 0x100000 8 0xFF01100000000001) 0x100008 8 (encode x.2) }] }.frontInstr g2.agent = some x.2) := by
  decide +kernel

/-- A launch that promises progress. -/
def fair : Launch := { launch with f := { launch.f with w0 := 0x2800001 } }
/-- A group that has held the issue slot for 4,096 instructions without lane 1, or not. -/
def hogging (n : Nat) : Warp := { g2 with fairT := n, fairF := 1 }
/-- A gathering of one trapped lane. -/
def gathered : Gathering := ⟨0, 1, 0, 0x100000, [⟨0, 0, 0⟩], 0, true⟩
/-- The machine with that gathering, 256 cycles after it opened. -/
def gathering (closed : Bool) : State := { machine trapped with gathers := [{ gathered with closed := closed }], cycle := 256 }
/-- A group that waits in a compaction window at the header of 0x100000, with the lanes given. -/
def inWindow (gr : Nat) (ls : List Lane) : Warp := { group [] ls with agent := .group 0 0 gr, wait := some (.window 0x100000), waitF := 3 }
/-- Two groups in a window: each with one lane, or each with 32. -/
def windowed (full : Bool) : List Warp := [inWindow 0 (if full then (List.range 32).map fun k => lane k [] else [lane 0 []]), inWindow 1 (if full then (List.range 32).map fun k => lane (32 + k) [] else [lane 32 []])]
/-- Their tray. -/
def windowTray (full : Bool) : Tray := { wordTray 0 with warps := windowed full, windows := [⟨0x100000, 0, 1, [0, 1], false⟩] }

theorem witness_GatheringsSlicesWindows : (launch.f.mode = 0 ∧ launch.phase = .running ∧ launch.ending = none ∧ fair.f.mode = 0 ∧ fair.phase = .running ∧ fair.ending = none ∧ fair.f.promise = true) ∧
    (let s := gathering true; s.launch? 0 = some launch ∧ s.gathers.find? (fun g => g.launch == 0 && g.n == 1) = some gathered ∧ gathered.closed = true ∧ s.trapsDrained gathered = true ∧ gathered.lanes.length ≤ 32 ∧
      ∀ x ∈ s.handlers, x.core = gathered.core → x.slot ≠ 0) ∧
    (∀ n ∈ [4096, 4095], let w := hogging n
      let s := { machine w with launches := [fair] }
      w.agent.launchId = some 0 ∧ s.launch? 0 = some fair ∧ s.warp? w.agent = some w ∧ w.evicted = false ∧ w.halted = false ∧ w.wait = none ∧ w.slice = none ∧ (n = 4096 → ∃ k ∈ w.ready, w.fairF.getLsbD k = false)) ∧
    (∀ full ∈ [true, false], let t := windowTray full
      let s := { m2 with trays := [t] }
      let x : Window := ⟨0x100000, 0, 1, [0, 1], false⟩
      let hd : Header := ⟨1, 16, 0, 0, 1⟩
      let ws := t.warps.filter fun w => x.groups.contains w.agent.groupNo
      s.launch? 0 = some launch ∧ s.tray? 0 0 = some t ∧ t.windows.find? (fun y => y.h == 0x100000 && !y.closed) = some x ∧ (∀ y ∈ t.windows, y.h = 0x100000 → y.closed = false) ∧ s.headerAt launch 0x100000 = some hd ∧ (∀ g ∈ x.groups, (s.ord (.group 0 0 g)).outbox = []) ∧ ws = windowed full ∧ (∀ w ∈ ws, w.dsr = none) ∧ (∀ w ∈ t.warps, w ∈ ws ∨ w.agent ∉ ws.map Warp.agent) ∧
      x.groups.min?.isSome = true ∧ (ws.map Warp.agent).Nodup ∧ (∀ g ∈ t.liveGroups, g ∈ x.groups) ∧
      (((packLanes (ws.map fun w => w.enter hd)).length + 31) / 32 < ws.length ↔ full = false)) := by
  refine ⟨?_, ?_, ?_, ?_⟩ <;> decide +kernel

/-! The device: resets, balloon list, checkpoints, start, security, power -/

/-- The semaphore is port 0's, and more is as given. -/
def dieState (t : List Tray) (x : Nat) : State := { held0 with trays := t, ctxs := [(0, { wordContext with st := x })], inReset := [] }
/-- Link 3's status, and what it holds. -/
def linked (ab : Nat) (l : Link) : State := { held0 with regs := { held0.regs with ablStat := List.replicate 16 (BitVec.ofNat 64 ab) }, links := List.replicate 16 l }
/-- A link that expects sequence number 5, has asked for it n times, and holds a sent flit of a directory line. -/
def expecting (n : Nat) : Link := ⟨5, n, 1, [⟨3, 0, 0, 0, 0, List.replicate 240 0, [.directory [7]]⟩], 0, 0⟩
/-- A flit on the wire, of a class, with a sequence number and messages. -/
def wire (fec : Bool) (cls seq : Nat) (msgs : List LinkMsg) : Wire := ⟨fec, (⟨BitVec.ofNat 4 cls, 0, BitVec.ofNat 12 seq, 0, 0, List.replicate 240 0, msgs⟩ : Flit).bytes, msgs⟩
/-- Bytes as a number, the lowest first. -/
def number (bs : List (BitVec 8)) : Nat := (bs.zipIdx.map fun b => b.1.toNat * 256 ^ b.2).sum
/-- The header of what arrives. -/
def headerOf (f : Wire) : Nat := number (f.bytes.take 8)

theorem number_from (bs : List (BitVec 8)) (k : Nat) : ((bs.zipIdx k).map fun b => b.1.toNat * 256 ^ b.2).sum = 256 ^ k * ofBytes bs := by
  induction bs generalizing k with
  | nil => rfl
  | cons b bs ih =>
    simp only [List.zipIdx_cons, List.map_cons, List.sum_cons, ih, ofBytes]
    ring

theorem ofBytes_toBytes (n v : Nat) : ofBytes (toBytes n v) = v % 256 ^ n := by
  induction n generalizing v with
  | zero => simp [toBytes, ofBytes, Nat.mod_one]
  | succ n ih =>
    simp only [toBytes, ofBytes, ih, BitVec.toNat_ofNat]
    rw [pow_succ' 256 n, Nat.mod_mul (x := v)]
    omega

theorem toBytes_length (n v : Nat) : (toBytes n v).length = n := by
  induction n generalizing v with
  | zero => rfl
  | succ n ih => simp [toBytes, ih]

theorem number_toBytes (x : Nat) (h : x < 256 ^ 8) : number (toBytes 8 x) = x := by
  rw [number, number_from, ofBytes_toBytes, pow_zero, one_mul, Nat.mod_eq_of_lt h]

/-- A flit's bytes are its header, its payload and their check. -/
theorem wire_bytes (fec : Bool) (cls seq : Nat) (msgs : List LinkMsg) : ∃ b, b.length = 248 ∧ (wire fec cls seq msgs).bytes = b ++ toBytes 8 (Config.crc64 b).toNat ∧
    b.take 8 = toBytes 8 ((⟨BitVec.ofNat 4 cls, 0, BitVec.ofNat 12 seq, 0, 0, [], []⟩ : Flit).header) := by
  refine ⟨_, ?_, rfl, List.take_left' (toBytes_length _ _)⟩
  rw [List.length_append, toBytes_length]
  exact congrArg (8 + ·) (List.length_replicate ..)

theorem wire_whole (cls seq : Nat) (msgs : List LinkMsg) : let f := wire true cls seq msgs
    f.fec = true ∧ f.bytes.length = 256 ∧ number (f.bytes.drop 248) = (Config.crc64 (f.bytes.take 248)).toNat := by
  obtain ⟨b, hl, e, -⟩ := wire_bytes true cls seq msgs
  refine ⟨rfl, ?_, ?_⟩
  · rw [e, List.length_append, hl, toBytes_length]
  · rw [e, List.drop_left' hl, List.take_left' hl, number_toBytes _ (Config.crc64 b).isLt]

theorem wire_header (fec : Bool) (cls seq : Nat) (msgs : List LinkMsg) (h : (⟨BitVec.ofNat 4 cls, 0, BitVec.ofNat 12 seq, 0, 0, [], []⟩ : Flit).header < 256 ^ 8) :
    headerOf (wire fec cls seq msgs) = (⟨BitVec.ofNat 4 cls, 0, BitVec.ofNat 12 seq, 0, 0, [], []⟩ : Flit).header := by
  obtain ⟨b, hl, e, ht⟩ := wire_bytes fec cls seq msgs
  rw [headerOf, e, List.take_append_of_le_length (by omega), ht, number_toBytes _ h]

theorem witness_ResetsAndLinks :
    (∀ s ∈ [dieState [t2] 1, dieState [] 0, linked 0 .clear, linked 1 .clear, linked 2 (expecting 8)], Reaches s 0 ∧ HoldsSem s 0 ∧ bit s.regs.secStat.toNat 3 = false) ∧
    ((∃ t ∈ (dieState [t2] 1).trays, t.resident = true ∧ dieOfCore t.core = 0) ∧ ¬ ∃ t ∈ (dieState [] 0).trays, t.resident = true ∧ dieOfCore t.core = 0) ∧
    ((∃ q ∈ (dieState [t2] 1).ctxs, q.2.st ≠ 0) ∧ ∀ q ∈ (dieState [] 0).ctxs, q.2.st = 0) ∧
    ((linked 0 .clear).regs.ablStat.getD 3 0).toNat % 4 = 0 ∧ ((linked 1 .clear).regs.ablStat.getD 3 0).toNat % 4 = 1 ∧ ((linked 2 .clear).regs.ablStat.getD 3 0).toNat % 4 = 2 ∧
    (3 : Nat) < (linked 1 .clear).regs.ablStat.length ∧ (∀ q ∈ (dieState [t2] 1).ctxs, q.2.started = 0) ∧ (∃ q ∈ (dieState [] 0 |>.setCtx 0 (owned { Chain.clear with recs := [record 1 1] })).ctxs, q.2.started ≠ 0) ∧
    (∃ q ∈ ({ dieState [] 0 with inReset := [(1, false)] }).inReset, q.1 = 1) ∧ (∀ q ∈ (dieState [] 0).inReset, q.1 ≠ 1) ∧
    (¬ HoldsSem (semState 0) 0 ∧ (semState 0).boot.fw = none ∧ (semState 0).regs.keyFor = none) ∧ m2.launch? 0 = some launch ∧ (m2.tray? 0 0).isSome = true ∧ m2.warp? g2.agent = some g2 ∧ (g2.lane 1).st = .ready := by
  unfold Reaches HoldsSem
  decide +kernel

/-- A link that is up, at debug level 2, over which some messages have come. -/
def heard (l : List LinkMsg) : State :=
  let s := linked 2 (expecting 7)
  { s with regs := { s.regs with dbgCtl := 0x20000 }, delivered := [(3, ⟨1, 0, 4, 0, 0, [], l⟩)] }

theorem witness_ResetsAndLinks_duplicates : let m := LinkMsg.halt 1 0 0 0x50 3
    LinkMsg.named m = true ∧ (∃ q ∈ (heard [m]).delivered, m ∈ q.2.msgs) ∧ (∀ q ∈ (heard []).delivered, m ∉ q.2.msgs) ∧ 2 ≤ (heard []).dbgLevel := by decide +kernel

theorem witness_ResetsAndLinks_flits : (∀ m ∈ [([] : List LinkMsg), [.retry 0], [.halt 1 0 0 0x50 3]], let f := wire true 1 5 m
      (f.fec = true ∧ f.bytes.length = 256 ∧ number (f.bytes.drop 248) = (Config.crc64 (f.bytes.take 248)).toNat) ∧ headerOf f / 2 ^ 60 = 1 ∧ headerOf f % 2 ^ 32 = 0 ∧ headerOf f / 2 ^ 44 % 2 ^ 12 = 5 ∧ f.msgs = m) ∧
    (headerOf (wire true 1 6 []) / 2 ^ 44 % 2 ^ 12 ≠ 5 ∧ headerOf (wire true 7 5 []) / 2 ^ 60 = 7 ∧ (wire false 1 5 []).fec = false) ∧
    (∀ n ∈ [7, 8], let s := linked 2 (expecting n)
      let lk := s.links.getD 3 ⟨0, 0, 0, [], 0, 0⟩
      lk.expect = 5 ∧ lk.retries = n ∧ lk.asked = (0 : BitVec 12).toNat ∧ lk.tries < 8 ∧ 3 < s.links.length ∧ (∃ g ∈ lk.replay, g.cls = 3 ∨ g.cls = 4) ∧
      ∀ g ∈ lk.replay, ∀ m ∈ g.msgs, ∃ ls, m = .directory ls ∨ m = .acknowledge ls) := by
  refine ⟨fun m _ => ⟨wire_whole 1 5 m, ?_, ?_, ?_, rfl⟩, ⟨?_, ?_, rfl⟩, fun n hn => ⟨?_, ?_, ?_, ?_, ?_, ?_, fun g hg m hm => ?_⟩⟩
  case refine_12 =>
    obtain rfl := List.mem_singleton.1 (show g ∈ [_] from hg)
    exact ⟨[7], .inl (List.mem_singleton.1 hm)⟩
  iterate 5 (rw [wire_header _ _ _ _ (by decide +kernel)]; decide +kernel)
  all_goals (rcases List.mem_pair.1 hn with rfl | rfl <;> decide +kernel)

/-- A state after the start, with the registers given. -/
def afterStart (f : Regs → Regs) : State := { held0 with boot := { held0.boot with next := none }, regs := f held0.regs }
/-- A page's migration. -/
def moving (n round : Nat) (hold : Bool) : Mig := ⟨16, true, 0x123, round, List.range n, hold, none⟩
/-- A sheet of die 0 waits for chunks, and the balloon list has one entry: the page of 0x100000 is free, or it says something else. -/
def ballooning (e : Nat) : State :=
  { afterStart (fun r => { r with balCtl := BitVec.ofNat 64 (8 * 2 ^ 42 + 2 ^ 21), balBase := 0x4000 }) with
    mem := memWrite [] 0x4000 8 e
    migs := [moving 0 1 false]
    taken := [(3, Config.channelChunks)]
    roomWaits := [⟨3, 7, 8, 0, g2.agent, none⟩] }
/-- A device with no open context, whose checkpoint target is a window of n GiB at 0x5000000. -/
def saving (n : Nat) : State := { afterStart (fun r => { r with ckptTgt := BitVec.ofNat 64 (0x5000000 + n) }) with ctxs := [] }
/-- HEAD, TAIL and LOG2_SIZE of the balloon ring. -/
def ringOf (s : State) : Nat × Nat × Nat := (s.regs.balCtl.toNat % 2 ^ 21, s.regs.balCtl.toNat / 2 ^ 21 % 2 ^ 21, s.regs.balCtl.toNat / 2 ^ 42 % 2 ^ 5)

theorem witness_BalloonsCheckpointsMigrations_balloon : (held0.boot.off = false ∧ held0.power ≠ 3) ∧ (Reaches held0 0 ∧ HoldsSem held0 0) ∧
    (let s := afterStart fun r => { r with balCtl := BitVec.ofNat 64 (8 * 2 ^ 42) }; ringOf s = (0, 0, 8) ∧ 2 ^ 8 < (257 + 2 ^ 21 - 0) % 2 ^ 21 ∧ ∀ n ∈ [0, 1, 256], (n + 2 ^ 21 - 0) % 2 ^ 21 ≤ 2 ^ 8) ∧
    held0.working = false ∧ ((afterStart id).working = true ∧ (afterStart id).roomMet 0 = true) ∧
    ∀ e ∈ [0x100001, 0x100000], let s := ballooning e
      s.roomMet 0 = false ∧ s.working = true ∧ s.passes = [] ∧ (∃ x ∈ s.migs, x.cmd = none) ∧ ringOf s = (0, 1, 8) ∧ memRead s.mem 0x4000 8 = e ∧ s.badEntry 0x4000 = false ∧ bit s.regs.secStat.toNat 3 = false ∧ s.backed 0x100000 = true ∧ s.frozenAny 0x100000 65536 = false ∧
      s.regs.ckptCtl.toNat / 2 % 2 ≠ 1 ∧ ({ s with regs := { s.regs with ckptCtl := 2 } } : State).regs.ckptCtl.toNat / 2 % 2 = 1 ∧ s.runs = [] := by
  unfold Reaches HoldsSem
  decide +kernel

theorem witness_BalloonsCheckpointsMigrations :
    (∀ s ∈ [saving 1, saving 0], Reaches s 0 ∧ HoldsSem s 0 ∧ s.regs.ckptCtl.toNat / 2 % 2 ≠ 1 ∧ bit s.regs.secStat.toNat 3 = false) ∧
    (let s := saving 1
      let size := s.regs.ckptTgt.toNat % 2 ^ 16 * 2 ^ 30
      size ≠ 0 ∧ s.windowOk (s.regs.ckptTgt.toNat / 2 ^ 16 % 2 ^ 36 * 65536) size = true ∧ s.sizeNeeded * 4096 ≤ size ∧ ∀ x ∈ s.trays, x.lpDirty = []) ∧
    ((saving 0).regs.ckptTgt.toNat % 2 ^ 16 = 0 ∧ let s := afterStart fun r => { r with ckptCtl := 2 }; s.regs.ckptCtl.toNat / 2 % 2 = 1 ∧ s.ballooning = false ∧ bit s.regs.secStat.toNat 3 = false ∧ s.arriving = []) ∧
    ((1 : Word).toNat % 2 = 1 ∧ (afterStart id).regs.mtInv.toNat / 4 % 2 = 0 ∧ (afterStart fun r => { r with mtInv := 4 }).regs.mtInv.toNat / 4 % 2 = 1) ∧
    ((mapped g2 1).leafTables = [0x9800] ∧ (mapped g2 1).mem.wf = true) ∧
    (∀ m ∈ [moving 15 1 false, moving 16 1 false, moving 16 16 false], { m2 with migs := [m] }.migs.find? (fun x => x.page == 16 && !x.hold) = some m ∧ m.cmd = none) ∧
    (let s := { mapped g2 0x21 with migs := [moving 0 1 true] }; s.migs.find? (fun x => x.page == 16 && x.hold) = some (moving 0 1 true) ∧ s.hostReads = [] ∧ s.walkTo (offOf (16 * 65536)) = some 0x9880 ∧ s.mem.wf = true ∧
      (moving 0 1 true).frame < 2 ^ 36) := by
  unfold Reaches HoldsSem
  refine ⟨?_, ?_, ?_, ?_, ?_, ?_, ?_⟩ <;> decide +kernel

theorem witness_Starts : (∃ s : State, s.boot.off = true) ∧ (m2.boot.off = false ∧ m2.power ≠ 3 ∧ m2.portIsUp 1 = true) ∧ ({ m2 with portUp := [true, false] }.portIsUp (1 - (0 : Port).val) = false) ∧ Reaches held0 0 ∧ HoldsSem held0 0 ∧
    held0.regd = [] ∧ held0.dirty = [] := by
  unfold Reaches HoldsSem
  refine ⟨⟨{ m2 with boot := { m2.boot with off := true } }, rfl⟩, ?_⟩
  decide +kernel

/-- Start step k is next, its start record as given. -/
def starting (k : Nat) (r : StepRec) : State := { held0 with boot := { held0.boot with next := some k, steps := (List.replicate 28 ⟨false, 0, 0, false⟩).set k r } }
/-- What a step finds. -/
def found (pass : Bool) (ratio : BitVec 9) : StepIn := ⟨pass, 1, ratio, false, [], 0, Config.sha3 [1], [], [1], []⟩

theorem witness_StartSteps : (∀ k ∈ (List.range 28).drop 1, ∀ r ∈ [(⟨false, 0, 0, false⟩ : StepRec), ⟨false, 2, 2, false⟩, ⟨true, 0, 0, false⟩], let s := starting k r
      s.boot.off = false ∧ s.boot.next = some k ∧ s.boot.steps.length = 28 ∧ s.boot.steps.getD k ⟨false, 0, 0, false⟩ = r ∧ s.boot.fw = none ∧ s.boot.owner = none ∧ s.boot.mapped.length ≠ 16 ∧ s.boot.restore = false) ∧
    (∀ b ∈ [true, false], let s := { starting 2 ⟨false, 0, 0, false⟩ with boot := { (starting 2 ⟨false, 0, 0, false⟩).boot with fw := some ⟨b, 0, 0, 0⟩ } }
      s.boot.off = false ∧ s.boot.next = some 2 ∧ s.boot.steps.length = 28 ∧ s.boot.fw.map FwLoad.ok = some b) ∧
    (found true 128).pass = true ∧ (found false 128).pass = false ∧ 128 ≤ (found true 128).ratio.toNat ∧ (found true 128).ratio.toNat ≤ 256 ∧ (found true 127).ratio.toNat < 128 := by
  decide +kernel

theorem witness_StartSteps_owner : Config.sha3 (found true 128).blobKey = (starting 3 ⟨false, 0, 0, false⟩).boot.owner.getD (found true 128).newOwner := rfl

/-- A firmware image of 1 MiB with version 1 at the base of port 0's window, and start step 2 next. -/
def imageState (kib : Nat) : State :=
  { starting 2 ⟨false, 0, 0, false⟩ with
    mem := memWrite (memWrite [] 0x300000000000 4 1) 0x300000000010 8 (1024 * kib)
    regs := { held0.regs with fwBase := 0x300000000000, attBuf := 0x100000 } }

theorem witness_FirmwareAndAttestation : (∀ s ∈ [imageState 1024, imageState 1, starting 3 ⟨false, 0, 0, false⟩], Reaches s 0 ∧ HoldsSem s 0 ∧ bit s.regs.secStat.toNat 3 = false) ∧
    (∀ k ∈ [1024, 1], let s := imageState k
      let at_ := s.regs.fwBase.toNat / 2 ^ 3 % 2 ^ 49 * 8
      let f := fun o n => memRead s.mem (at_ + o) n
      s.boot.next = some 2 ∧ (k = 1024 ↔ f 0 4 = 1 ∧ s.boot.rollback.toNat ≤ f 4 4 ∧ f 8 4 ≤ f 4 4 ∧ f 12 4 = 0 ∧ 2 ^ 20 ≤ f 16 8 ∧ f 16 8 ≤ 2 ^ 26 ∧ f 24 40 = 0) ∧
      regionOf (offOf at_) = .host (0 : Port).val ∧ regionOf (offOf (at_ + (64 + f 16 8) + 4626)) = .host (0 : Port).val ∧ pkgOf at_ = s.pkg) ∧
    ((starting 3 ⟨false, 0, 0, false⟩).boot.next ≠ some 1 ∧ (starting 3 ⟨false, 0, 0, false⟩).boot.next ≠ some 2) ∧
    (let s := { imageState 1024 with boot := { (imageState 1024).boot with steps := (List.replicate 28 (⟨false, 0, 0, false⟩ : StepRec)).set 1 ⟨false, 0, 1, false⟩ } };
      s.identified = true ∧ (∀ n ∈ [2592, 1568, 5043], s.windowOk 0x100000 n = true) ∧ (s.ctx 0).st ≠ 0 ∧ (s.ctx 1).st = 0 ∧ s.mem.wf = true) ∧ (imageState 1024).identified = false ∧
    (let s := { imageState 1024 with regs := { (imageState 1024).regs with secStat := 8 } }; Reaches s 0 ∧ HoldsSem s 0 ∧ bit s.regs.secStat.toNat 3 = true) := by
  unfold Reaches HoldsSem
  decide +kernel

/-- The registers of power and debug as given; contexts and what is under way as given. -/
def powered (pw lv mx : Nat) : State :=
  { held0 with regs := { held0.regs with pwrCtl := BitVec.ofNat 64 (2 ^ 4 * pw), dbgCtl := BitVec.ofNat 64 (2 ^ 16 * lv), secStat := BitVec.ofNat 64 (2 ^ 6 * mx) }, ctxs := [], launches := [], trays := [] }

theorem witness_PowerAndDebugLevels : (∀ x ∈ [(0, 2, 3), (0, 0, 1), (3, 0, 3), (0, 0, 3), (1, 0, 3), (2, 0, 3)], let s := powered x.1 x.2.1 x.2.2
      s.boot.off = false ∧ s.portIsUp (0 : Port).val = true ∧ HoldsSem s 0 ∧ s.regs.pwrCtl.toNat / 2 ^ 4 % 4 = x.1 ∧ s.regs.dbgCtl.toNat / 2 ^ 16 % 4 = x.2.1 ∧ s.regs.secStat.toNat / 2 ^ 6 % 4 = x.2.2 ∧ s.waking = none ∧
      (∀ q ∈ s.ctxs, q.2.started = 0 ∧ q.2.st = 0) ∧ s.ckptBusy = false ∧ s.retaining = false ∧ s.busy = false) ∧
    (let s := powered 0 3 3; s.boot.off = false ∧ s.portIsUp (0 : Port).val = true ∧ HoldsSem s 0 ∧ s.regs.dbgCtl.toNat / 2 ^ 16 % 4 = 3 ∧ ({ s with retaining := true } : State).retaining = true) ∧
    (∀ l ∈ [0, 3], ({ powered 2 0 3 with waking := some (0, l) } : State).waking = some (0, l)) ∧
    ((∃ q ∈ held0.ctxs, q.2.st ≠ 0) ∧ ∃ q ∈ (held0.setCtx 0 (owned { Chain.clear with recs := [record 1 1] })).ctxs, ¬ q.2.started = 0) ∧
    (let s := { powered 0 0 3 with now := 1000000, boot := { (powered 0 0 3).boot with next := none } }; s.boot.next = none ∧ s.busy = false ∧ 1000000 ≤ (s.now - s.active).toNat) := by
  unfold HoldsSem
  decide +kernel

/-! Halts, log registers, time, launches over packages, the serving controller -/

/-- Context 0 of port 0 as given, at debug level 2 or more. -/
def debugged (x : Context) (sec : Nat) : State := { held0 with ctxs := [(0, x)], regs := { held0.regs with dbgCtl := 0x20000, secStat := BitVec.ofNat 64 sec } }
/-- A halted context. -/
def haltedCtx : Context := { wordContext with halted := true, dmp := 0x200000 }
/-- A context whose ring holds 2,048 records, n of them used. -/
def ringed (n : Nat) : Context := { wordContext with log := 0x200001, prod := n }
/-- The launch in record or replay. -/
def inMode (m : Nat) : Launch := { launch with f := { launch.f with w0 := BitVec.ofNat 64 (0x2000001 + 2 ^ 16 * m) } }

/-- The context in replay, with no group and no command: it is stuck. -/
def stuckState : State := { debugged (ringed 5) 0 with launches := [inMode 2], trays := [] }
/-- A command on chain 9 has waited on the log since instant 0 with its next access. -/
def waitingOnLog (n : Nat) : State :=
  { m2.setCtx 0 { owned { Chain.clear with recs := [{ record 1 1 with mode := 1, hold := some .log }] } with waits := [(2 * 2 ^ 56 + 2 * 2 ^ 52 + 9 * 2 ^ 5, 0)] } with now := BitVec.ofNat 64 n }

/-- STALL reads 1 while an agent waits on the log, and the wait is noted no more once it is over (R200, R202). -/
theorem test_stall : (waitingOnLog 0).regRead 0x100038 = 0x80000000 ∧ (({ waitingOnLog 0 with ctxs := [(0, { wordContext with waits := [(2 * 2 ^ 56 + 2 * 2 ^ 52 + 9 * 2 ^ 5, 0)] })] }).pruneWaits.ctx 0).waits = [] := by decide +kernel

theorem witness_HaltsAndLogRegisters :
    (∀ s ∈ [debugged wordContext 0, debugged haltedCtx 0, debugged haltedCtx 3, debugged (ringed 5) 0, semState 0x200], Reaches s 0 ∧ (s.ctx 0).st ≠ 0 ∧ (s.ctx 0).owner = (0 : Port).val) ∧
    held0.regs.dbgCtl.toNat / 2 ^ 16 % 4 < 2 ∧ 2 ≤ (debugged haltedCtx 0).regs.dbgCtl.toNat / 2 ^ 16 % 4 ∧ (debugged haltedCtx 0).backed (haltedCtx.dmp.toNat / 2 ^ 6 % 2 ^ 46 * 64) = true ∧ haltedCtx.halted = true ∧ wordContext.halted = false ∧
    (debugged haltedCtx 0).regs.secStat.toNat % 4 ≠ 3 ∧ (debugged haltedCtx 0).mem.wf = true ∧ (debugged haltedCtx 3).regs.secStat.toNat % 4 = 3 ∧ (debugged haltedCtx 3).sealKey 0 = none ∧
    (let v : Word := 0x800000000 + 3
      let prod := v.toNat / 2 ^ 32 % 2 ^ 28
      let cons := v.toNat % 2 ^ 28;
      (∀ m ∈ [1, 2], { debugged (ringed 5) 0 with launches := [inMode m] }.ctxMode 0 = m) ∧ prod ≠ (ringed 5).prod ∧ cons ≠ (ringed 5).cons ∧ (ringed 5).logCap < (2049 + 2 ^ 28 - 0) % 2 ^ 28 ∧ (debugged (ringed 5) 0).ctxMode 0 = 0 ∧
      ¬ (ringed 5).logCap < (prod + 2 ^ 28 - cons) % 2 ^ 28 ∧ (ringed 5).held = []) ∧
    (∀ n ∈ [100000, 99999], let s := waitingOnLog n;
      (s.ctx 0).late = false ∧ ((∃ q ∈ (s.ctx 0).waits, 100000 ≤ (s.now - q.2).toNat ∧ s.stillWaits 0 q.1 = true) ↔ n = 100000)) ∧
    m2.stuck 0 = false ∧ (let s := stuckState; s.stuck 0 = true ∧ (∀ g ∈ (s.ctx 0).chains, ∀ r ∈ g.recs, r.st ≠ 1) ∧
      ∀ y ∈ s.replayers 0, (y.gone = true ∨ y.logTypeAt = 0) ∧ ∀ l ∈ y.lanes, l.ownCause = none) := by
  unfold Reaches
  decide +kernel

/-- The time base's source as given; link 4 is up, the others as given. -/
def timed (cfg : Nat) (ab : Nat) : State := { held0 with regs := { held0.regs with timeCfg := BitVec.ofNat 64 cfg, ablStat := (List.replicate 16 (BitVec.ofNat 64 ab)).set 4 2 } }

theorem witness_TimeSources : Reaches (timed 0 0) 0 ∧ HoldsSem (timed 0 0) 0 ∧ (let up := fun (s : State) j => (s.regs.ablStat.getD j 0).toNat % 4 = 2;
      (0x5003 : Word).toNat % 4 = 3 ∧ ¬ up (timed 0 0) ((0x5003 : Word).toNat / 2 ^ 12 % 16) ∧ up (timed 0 0) ((0x4003 : Word).toNat / 2 ^ 12 % 16)) ∧
    (timed 0 0).regs.timeCfg.toNat / 4 % 2 = 0 ∧ (timed 4 0).regs.timeCfg.toNat / 4 % 2 = 1 ∧ (timed 0 0).regs.timeCfg.toNat % 4 ≠ (0 : Port).val + 1 ∧ (timed 1 0).regs.timeCfg.toNat % 4 = (0 : Port).val + 1 ∧
    (timed 1 0).portIsUp (0 : Port).val = true ∧ (timed 1 0).boot.off = false := by
  unfold Reaches HoldsSem
  decide +kernel

/-- A flit of class 5 whose header is in order is whole, and its fields are those it was sent with. -/
theorem arrives_of {s : State} {k : Fin 16} {msgs : List LinkMsg} (hs : s.linkState k.val = 2) (he : (s.links.getD k.val ⟨0, 0, 0, [], 0, 0⟩).expect = 5) : Arrives s k (wire true 5 5 msgs) := by
  obtain ⟨b, hl, e, ht⟩ := wire_bytes true 5 5 msgs
  have h : ofBytes ((wire true 5 5 msgs).bytes.take 8) = 5 * 2 ^ 60 + 5 * 2 ^ 44 := by
    rw [e, List.take_append_of_le_length (by omega), ht, ofBytes_toBytes]
    decide +kernel
  refine ⟨hs, ?_, ?_, ?_⟩
  · show flitWhole true _ = true
    simp only [flitWhole, e, List.drop_left' hl, List.take_left' hl, ofBytes_toBytes, List.length_append, hl, toBytes_length]
    rw [Nat.mod_eq_of_lt (by exact (Config.crc64 b).isLt)]
    simp
  · simp only [Flit.bad, Flit.ofBytes, h]
    decide +kernel
  · rw [he]
    simp only [Flit.ofBytes, h]
    decide +kernel

/-- Link 4 is up and expects 5; the exchange of the time base has got as far as given. -/
def slaved (cfg : Nat) (x : Ptp) : State := { timed cfg 0 with links := List.replicate 16 (expecting 0), ptp := x }

theorem witness_TimeSources_exchange : (∀ cfg ∈ [0x4003, 4], ∀ x ∈ [(⟨none, none, none⟩ : Ptp), ⟨some 1, none, none⟩, ⟨some 1, some 2, some 3⟩], ∀ m, Arrives (slaved cfg x) 4 (wire true 5 5 m) ∧ (wire true 5 5 m).msgs = m ∧ (slaved cfg x).ptp = x) ∧
    ((0x4003 : Nat) % 4 = 3 ∧ 0x4003 / 2 ^ 12 % 16 = (4 : Fin 16).val ∧ 4 / 4 % 2 = 1 ∧ ¬ (4 % 4 = 3)) ∧ (slaved 4 ⟨none, none, none⟩).links.length = 16 := by
  refine ⟨fun cfg hc x _ m => ⟨arrives_of ?_ rfl, rfl, rfl⟩, by decide, by decide +kernel⟩
  exact (show ∀ cfg ∈ [0x4003, 4], (timed cfg 0).linkState (4 : Fin 16).val = 2 by decide +kernel) cfg hc

/-- A launch of this package and package 1, as its coordinator or as a member, in a phase. -/
def spread (coord : Bool) (ph : Phase) : Launch := { launch with coord := coord, home := if coord then 0 else 1, phase := ph, descr := ⟨0, 0, 1, 0, 0, 1, 1, 1, 1, 3⟩ }
/-- A started device with that launch, and no group of it. -/
def fleet (l : Launch) : State := { afterStart id with launches := [l], trays := [], ctxs := [(0, wordContext)] }
/-- The words of the launch's record. -/
def bodyOf (f : LaunchF) : List Word := [f.w0, f.w1, f.w2, f.w3, f.w4, f.w5, f.w6, 0]

theorem witness_LaunchesOverPackages : (afterStart id).working = true ∧ m2.working = false ∧
    (let d : Descr := ⟨0, 0, 7, 0, 0, 1, 1, 1, 1, 3⟩
      let f := launchF (bodyOf launch.f)
      let s := fleet (spread false .running)
      (s.ctx d.ctx.toNat).st = 1 ∧ s.localCells f d.ox d.oy ≠ [] ∧ f.dw = d.dw ∧ f.dh = d.dh ∧ f.pw = d.pw ∧ f.ph = d.ph ∧ (s.recPipe f ((bodyOf launch.f).drop 8)).2 = false ∧ s.working = true ∧ (s.ctx 9).st ≠ 1 ∧ s.memberLaunch? 0 0 7 = none) ∧
    (∀ ph ∈ [Phase.prepared, .reserved, .running, .sliding], let l := spread false ph
      let s := fleet l
      s.memberLaunch? 0 0 1 = some l ∧ (s.launches.map Launch.id).Nodup ∧ s.launch? 0 = some l ∧ s.launches.filter (fun y => !y.coord && y.home == 1 && y.phase != .done) = [l] ∧ s.pkg = 0 ∧ s.launchDrained 0 = true ∧
      s.launchExited l = true ∧ l.f.rel = false ∧ l.coord = false) ∧
    (let l := { spread true .running with ending := some 0x02000003 }; let s := fleet l; s.launch? 0 = some l ∧ l.coord = true ∧ l.phase = .running ∧ l.ending.isSome = true ∧ (s.launches.map Launch.id).Nodup ∧ (1 : BitVec 6).toNat ∈ (List.range 64).filter fun p => l.descr.members.getLsbD p && p != s.pkg) ∧
    (∀ ph ∈ [Phase.prepared, .reserved, .running], let l := spread true ph
      let s := fleet l
      let others := (List.range 64).filter fun p => l.descr.members.getLsbD p && p != s.pkg
      s.launch? 0 = some l ∧ l.coord = true ∧ l.ending = none ∧ others = [1] ∧ s.sent = [] ∧ (∀ q ∈ List.range 64, l.descr.members.getLsbD q = true → q ∈ ([0] : List Nat) ∨ q = 1) ∧
      (∃ q ∈ List.range 64, l.descr.members.getLsbD q = true ∧ q ∉ l.acked ∧ q ≠ (1 : BitVec 6).toNat) ∧ (1 : BitVec 6).toNat ∈ others ∧ ∃ q ∈ others, q ∉ l.reported) ∧
    2000000 ≤ (({ fleet launch with now := 2000000 } : State).now - launch.placedAt).toNat ∧ ((fleet launch).now - launch.placedAt).toNat < 2000000 := by
  decide +kernel

/-- The launch of packages 0 and 1 runs, at debug level 2, with link 4 up. -/
def crossed : State := { debugged wordContext 0 with launches := [spread true .running], links := List.replicate 16 (expecting 0), regs := { (debugged wordContext 0).regs with ablStat := (List.replicate 16 0).set 4 2 } }

theorem witness_HaltsAndLogRegisters_members : Reaches crossed 0 ∧ (crossed.ctx 0).st ≠ 0 ∧ (crossed.ctx 0).owner = (0 : Port).val ∧ 2 ≤ crossed.regs.dbgCtl.toNat / 2 ^ 16 % 4 ∧ crossed.memberPkgs 0 = [1] ∧ crossed.pathsTo 1 = [4] := by
  unfold Reaches
  decide +kernel

/-- The serving controller on, context 0 delegated to it. -/
def serving : State := afterStart fun r => { r with srvCtl := 1, srvDeleg := r.srvDeleg.set 0 1 }

theorem witness_TheServingController : serving.boot.off = false ∧ Reaches serving 0 ∧ HoldsSem serving 0 ∧
    (let base := fun (v : Word) => v.toNat / 2 ^ 16 % 2 ^ 36 * 65536;
      (0xF00000000002 : Word).toNat / 2 % 2 = 1 ∧ regionOf (offOf (base 0xF00000000002)) ≠ .first ∧ serving.backed (base 0x100002) = true ∧ regionOf (offOf (base 0x100002)) = .first) ∧
    m2.regs.srvCtl.toNat % 2 = 0 ∧ serving.regs.srvCtl.toNat % 2 = 1 ∧
    (let lt : Word := (serving.regs.srvLtgt &&& ~~~ 0xFFF3F) ||| (0x30009 &&& 0xFFF3F)
      let c := lt.toNat / 2 ^ 8 % 2 ^ 8
      let as := (List.range (lt.toNat / 2 ^ 16 % 2 ^ 4 + 1)).map fun i => (0x100000 : Word).toNat / 2 ^ 6 % 2 ^ 46 * 64 + 64 * i
      (serving.ctx c).st = 1 ∧ bit (serving.regs.srvDeleg.getD (c / 64) 0).toNat (c % 64) = true ∧ (∀ a ∈ as, serving.backed a = true) ∧ as.length = 4 ∧ (serving.ctx c).held = [] ∧ serving.ctxMode c = 0 ∧ (serving.ctx c).chains.length = 64 ∧
      (serving.chain c 9).seq + 16 < 2 ^ 64 ∧ serving.retaining = false ∧ (serving.ord (.port 2)).outbox = [] ∧ serving.power ≠ 3 ∧ serving.power = 0) ∧ (serving.ctx 1).st ≠ 1 := by
  unfold Reaches HoldsSem
  decide +kernel

/-! Engine commands, records, placement -/

/-- A started device with a record of the given words at 0x100040, the oldest of chain 9 of context 0, whose engine runs its KIND; more memory as given. -/
def commanded (kind : Nat) (ws : List Nat) (m : Memory) : State :=
  { afterStart id with
    launches := []
    trays := []
    mem := (((kind + 2 ^ 12) :: ws).zipIdx.foldl (fun m p => memWrite m (0x100040 + 8 * p.2) 8 p.1) m)
    ctxs := [(0, { wordContext with chains := wordContext.chains.set 9 { Chain.clear with enable := true, engine := engineOf kind, seq := 1, recs := [record 1 0] } })] }
/-- Its record as fetched. -/
def cmdRec (kind : Nat) (ws : List Nat) (m : Memory) : Rec := fetched (commanded kind ws m) (record 1 0)

/-- Next, as a computation. -/
theorem next_of {s : State} {c ch kind : Nat} {r0 r : Rec} (h : s.nextRec c ch = some r0) (e : fetched s r0 = r)
    (hb : (s.working && decide (8 ≤ ch) && decide (ch < 64) && decide ((s.ctx c).chains.length = 64) && (s.chain c ch).engine == engineOf kind && ((s.chain c ch).recs.all fun x => x.hold.isNone) &&
      decide ((s.chain c ch).recs.map Rec.seq).Nodup && r.kind == kind && !s.recBad r0.addr) = true) : Next s c ch kind r := by
  simp only [Bool.and_eq_true, decide_eq_true_eq, beq_iff_eq, List.all_eq_true, Option.isNone_iff_eq_none, Bool.not_eq_true'] at hb
  exact ⟨hb.1.1.1.1.1.1.1.1, hb.1.1.1.1.1.1.1.2, hb.1.1.1.1.1.2, hb.1.1.1.1.1.1.2, hb.1.1.1.1.2, hb.1.1.1.2, hb.1.1.2, r0, h, e.symm, hb.1.2, hb.2⟩

/-- A copy of 64 bytes from 0x101000 to 0x102000, and records of the other kinds over the same places. -/
def copyW : List Nat := [0x101000, 0x102000, 64 + 2 ^ 32, 0, 0x44, 0]
/-- stream: one f32 from 0x101000 to 0x102000, its list at 0x103000. -/
def streamW : List Nat := [0x101000, 0x102000, 1 + 10 * 2 ^ 32 + 10 * 2 ^ 37 + 4 * 2 ^ 42 + 4 * 2 ^ 46, 0x103000, 0, 0]
/-- gather: one row of 64 bytes, its index at 0x103000. -/
def gatherW : List Nat := [0x101000, 0x102000, 0x103000, 64 + 2 ^ 32, 64 + 0x444 * 2 ^ 32, 0]
/-- select: one page, dim 32, k = 1. -/
def selectW : List Nat := [0x101000, 0x103000, 0x104000, 2 ^ 48 + 2 ^ 53 + 4 * 2 ^ 56, 0x102000, 0]
/-- coll: the sum of 16 f32 of one member. -/
def collW : List Nat := [0x101000, 0x102000, 16 + 10 * 2 ^ 32 + 4 * 2 ^ 40 + 4 * 2 ^ 44, 5, 0, 0]
/-- demote: one descriptor at 0x103000, its heat at 0x104000, the lists named at 0x105000. -/
def demoteW : List Nat := [0x103000, 2 ^ 53, 0x104000, 0, 0, 0x105000]
/-- Five lists of 16 entries at 0x106000. -/
def listsM : Memory := memWrite ((List.range 5).foldl (fun m j => memWrite m (0x105000 + 8 * j) 8 0x106000) []) 0x106010 8 4
/-- migrate: the page of 0x100000, towards the first tier. -/
def migrateW : List Nat := [0x100000, 2 ^ 16, 0, 0, 0, 0]

theorem witness_EngineCommandsRun_next : (Next (commanded 2 copyW []) 0 9 2 (cmdRec 2 copyW []) ∧ Next (commanded 3 streamW []) 0 9 3 (cmdRec 3 streamW []) ∧ Next (commanded 4 gatherW []) 0 9 4 (cmdRec 4 gatherW []) ∧
      Next (commanded 5 selectW []) 0 9 5 (cmdRec 5 selectW []) ∧ Next (commanded 6 collW []) 0 9 6 (cmdRec 6 collW []) ∧ Next (commanded 7 demoteW listsM) 0 9 7 (cmdRec 7 demoteW listsM) ∧
      Next (commanded 8 migrateW []) 0 9 8 (cmdRec 8 migrateW [])) ∧
    (∀ k ∈ [2, 3, 4, 5, 6, 7, 8], let r := cmdRec k [] []
      Next (commanded k [] []) 0 9 k r ∧ (commanded k [] []).startMode 0 r = 0 ∧ (commanded k [] []).dbgLevel = 0 ∧ ((commanded k [] []).ctx 0).st = 1) ∧
    (copyOk ((cmdRec 2 [] []).eng 0 9 true) (cmdRec 2 [] []) = false ∧ streamOk ((cmdRec 3 [] []).eng 0 9 true) (cmdRec 3 [] []) = false ∧ gatherOk ((cmdRec 4 [] []).eng 0 9 true) (cmdRec 4 [] []) = false ∧
      selectOk ((cmdRec 5 [] []).eng 0 9 true) (cmdRec 5 [] []) = false ∧ collOk ((cmdRec 6 [] []).eng 0 9 true) (cmdRec 6 [] []) = false ∧ demoteOk ((cmdRec 7 [] []).eng 0 9 false) (cmdRec 7 [] []) = false ∧
      (cmdRec 8 [] []).headerOk = true ∧ migrateOk ((cmdRec 8 [8] []).eng 0 9 false) (cmdRec 8 [8] []) = false) := by
  refine ⟨⟨next_of (r0 := record 1 0) (by decide +kernel) rfl (by decide +kernel), next_of (r0 := record 1 0) (by decide +kernel) rfl (by decide +kernel), next_of (r0 := record 1 0) (by decide +kernel) rfl (by decide +kernel),
    next_of (r0 := record 1 0) (by decide +kernel) rfl (by decide +kernel), next_of (r0 := record 1 0) (by decide +kernel) rfl (by decide +kernel), next_of (r0 := record 1 0) (by decide +kernel) rfl (by decide +kernel),
    next_of (r0 := record 1 0) (by decide +kernel) rfl (by decide +kernel)⟩, fun k hk => ?_, by decide +kernel⟩
  simp only [List.mem_cons, List.not_mem_nil, or_false] at hk
  rcases hk with rfl | rfl | rfl | rfl | rfl | rfl | rfl <;>
  exact ⟨next_of (r0 := record 1 0) (by decide +kernel) rfl (by decide +kernel), by decide +kernel, by decide +kernel, by decide +kernel⟩

/-- A command's start. -/
def startedCmd (kind : Nat) (ws : List Nat) (m : Memory) : State := (commanded kind ws m).startCmd 0 9 (cmdRec kind ws m)

theorem witness_EngineCommandsRun_effects :
    (let r := cmdRec 2 copyW []; let e := r.eng 0 9 true; let s0 := startedCmd 2 copyW []
      r.headerOk = true ∧ copyOk e r = true ∧ r.prog = 0 ∧ r.word 3 / 2 ^ 32 = 1 ∧ cuts (r.word 2) (r.word 3 % 2 ^ 32) = [(r.word 2, r.word 3 % 2 ^ 32)] ∧ copyOverlaps s0 e r = false ∧
      ∃ q, engRead e (r.word 5 % 2 ^ 4) (r.word 1) (r.word 3 % 2 ^ 32) s0 = .ok q ∧ ∃ s2, engWrite e (r.word 5 / 2 ^ 4 % 2 ^ 4) (r.word 2) (r.word 3 % 2 ^ 32) q.1 q.2 = .ok s2) ∧
    (let r := cmdRec 3 streamW []; let e := r.eng 0 9 true; let s0 := startedCmd 3 streamW []
      r.headerOk = true ∧ streamOk e r = true ∧ streamIn (r.word 3 / 2 ^ 32 % 2 ^ 5) = some .f32 ∧ streamOut (r.word 3 / 2 ^ 37 % 2 ^ 5) = some .f32 ∧ r.prog = 0 ∧ cuts (r.word 2) 4 = [(r.word 2, 4)] ∧
      ∃ q, engRead e 4 (r.word 4) 64 s0 = .ok q ∧ (streamOpsOk q.1 (r.word 5) = true ∧ ∃ p, streamBytes e r .f32 .f32 (streamOps q.1) 0 4 (q.2.keep e (some (.ops q.1))) = .ok p ∧ ∃ s3, engWrite e (r.word 3 / 2 ^ 46 % 2 ^ 4) (r.word 2) 4 p.1 p.2 = .ok s3)) ∧
    (∀ x ∈ [0, 0xFFFFFFFF], let m := memWrite [] 0x103000 4 x; let r := cmdRec 4 gatherW m; let e := r.eng 0 9 true; let s0 := startedCmd 4 gatherW m
      r.headerOk = true ∧ gatherOk e r = true ∧ r.prog = 0 ∧ r.word 4 / 2 ^ 32 = 1 ∧ cuts (r.word 2) 64 = [(r.word 2, 64)] ∧
      (match engRead e (r.word 5 / 2 ^ 40 % 2 ^ 4) (r.word 3) 4 s0 with
        | .ok q => q.1 == x && (engWrite e (r.word 5 / 2 ^ 36 % 2 ^ 4) (r.word 2) 64 0 (q.2.keep e (some (.row x)))).isOk
        | .error _ => false) = true ∧
      (x = 0 → ∃ q, engRead e (r.word 5 / 2 ^ 40 % 2 ^ 4) (r.word 3) 4 s0 = .ok q ∧ ((q.1 == x) = true ∧
        ∃ p, engRead e (r.word 5 / 2 ^ 32 % 2 ^ 4) ((r.word 1 + x * (r.word 5 % 2 ^ 32)) % 2 ^ 64) 64 (q.2.keep e (some (.row x))) = .ok p ∧ ∃ s3, engWrite e (r.word 5 / 2 ^ 36 % 2 ^ 4) (r.word 2) 64 p.1 p.2 = .ok s3))) ∧
    (let r := cmdRec 5 selectW []; let e := r.eng 0 9 true; let s0 := startedCmd 5 selectW []
      r.headerOk = true ∧ selectOk e r = true ∧ ∃ q, selectList e r s0 = .ok q ∧ ∃ s2, engWrite e (r.word 4 / 2 ^ 56 % 2 ^ 4) (r.word 5) 128 (selectOut (r.word 4 / 2 ^ 48 % 2 ^ 5) q.1) q.2 = .ok s2) := by
  have two : ∀ {ε α : Type} {x : Except ε α} {β : α → Type} {f : (a : α) → Except ε (β a)}, (match x with | .ok a => (f a).isOk | .error _ => false) = true → ∃ q, x = .ok q ∧ ∃ t, f q = .ok t :=
    fun h => ex_of _ _ (fun _ h => ok_of h) h
  have three : ∀ {ε α : Type} {x : Except ε α} {β : Type} {p : α → Bool} {f : α → Except ε β} {γ : β → Type} {g : (b : β) → Except ε (γ b)},
      (match x with | .ok a => p a && (match f a with | .ok b => (g b).isOk | .error _ => false) | .error _ => false) = true → ∃ q, x = .ok q ∧ (p q = true ∧ ∃ b, f q = .ok b ∧ ∃ t, g b = .ok t) :=
    fun h => ex_of _ _ (fun q h => by rw [Bool.and_eq_true] at h; exact ⟨h.1, two h.2⟩) h
  refine ⟨⟨by decide +kernel, by decide +kernel, by decide +kernel, by decide +kernel, by decide +kernel, by decide +kernel, two (by decide +kernel)⟩,
    ⟨by decide +kernel, by decide +kernel, by decide +kernel, by decide +kernel, by decide +kernel, by decide +kernel, three (by decide +kernel)⟩, fun x hx => ?_, by decide +kernel, by decide +kernel, two (by decide +kernel)⟩
  rcases List.mem_pair.1 hx with rfl | rfl
  · exact ⟨by decide +kernel, by decide +kernel, by decide +kernel, by decide +kernel, by decide +kernel, by decide +kernel, fun _ => three (by decide +kernel)⟩
  · exact ⟨by decide +kernel, by decide +kernel, by decide +kernel, by decide +kernel, by decide +kernel, by decide +kernel, fun h => absurd h (by decide)⟩

/-- The collective of record 1 alone, started. -/
def collecting : State :=
  let r : Rec := { cmdRec 6 collW [] with st := 1 }
  { commanded 6 collW [] with
    ctxs := [(0, { wordContext with chains := wordContext.chains.set 9 { Chain.clear with enable := true, engine := 4, seq := 1, recs := [r] } })]
    colls := [⟨0, 9, 1, 5, 0, r.body, 0, none⟩] }

/-- The member of `collecting` as rank 0 of two, the other of which has started on package 1. -/
def farCollecting : State :=
  let r : Rec := { cmdRec 6 collW [] with st := 1, body := (cmdRec 6 collW []).body.set 3 (BitVec.ofNat 64 ((cmdRec 6 collW []).word 3 + 2 ^ 56)) }
  { collecting with
    ctxs := [(0, { wordContext with chains := wordContext.chains.set 9 { Chain.clear with enable := true, engine := 4, seq := 1, recs := [r] } })]
    colls := [⟨0, 9, 1, 5, 0, r.body, 0, none⟩]
    farColls := [⟨1, 0, 5, 1, 0, collShape (r.word 3), none, false⟩] }
/-- The state after a step of the collective. -/
def collStep (s : State) : State := match execCollectiveRun 0 5 s with
  | .next t => t
  | .fault _ => s
  | .refused _ => s
/-- R396: a collective over two packages sends this package's elements, awaits the other's, and writes their sum. -/
theorem test_collective_far :
    let s1 := collStep farCollecting
    (s1.colls.all (fun m => m.data == some 0) && s1.farColls.all (fun m => m.used) && (collStep s1).colls == s1.colls) = true := by decide +kernel
theorem test_collective_far_sum :
    let s2 := collStep ((collStep farCollecting).collMsg 1 0 5 1 0 (.brings 0x3F800000))
    (s2.colls.isEmpty && s2.farColls.isEmpty && memRead s2.mem 0x102000 4 == 0x3F800000) = true := by decide +kernel

/-- A migrate command where translation maps the page of 0x100000 to its frame: number 0x10 in the first tier, or 0x10000000 in the second; migrations, and a free first-tier frame. -/
def migrating (frame : Nat) (ms : List Mig) : State :=
  { startedCmd 8 migrateW [] with
    mem := memWrite (memWrite (memWrite (memWrite (startedCmd 8 migrateW []).mem 0x8000 8 0x8801) 0x8800 8 0x9001) 0x9000 8 0x9801) 0x9880 8 (frame * 65536 + 1)
    regs := { (startedCmd 8 migrateW []).regs with mtRoot := 0x8001 }
    migs := ms
    freeFst := [0x123] }

theorem witness_EngineCommandsRun_others :
    (let r := cmdRec 6 collW []; r.headerOk = true ∧ collOk (r.eng 0 9 true) r = true ∧ (startedCmd 6 collW []).colls.filter (fun m => m.ctx == 0 && m.id == r.word 4 % 2 ^ 32) = [] ∧ (startedCmd 6 collW []).farMembers 0 (r.word 4 % 2 ^ 32) = []) ∧
    (let s := collecting; let r : Rec := { cmdRec 6 collW [] with st := 1 }; let e := r.eng 0 9 true; let m : CollMember := ⟨0, 9, 1, 5, 0, r.body, 0, none⟩
      (s.working = true ∧ s.colls.filter (fun m => m.ctx == 0 && m.id == (5 : BitVec 32).toNat) = [m] ∧ m.chain = 9 ∧ m.seq = r.seq ∧ m.body = r.body ∧ m.rank = 0 ∧ m.data = none ∧ s.farMembers 0 (5 : BitVec 32).toNat = [] ∧ s.rec? 0 9 r.seq = some r ∧ r.st = 1 ∧ r.ending = none ∧ r.hold = none ∧
      r.word 3 / 2 ^ 56 % 2 ^ 8 = 0 ∧ r.word 3 / 2 ^ 37 % 2 ^ 3 ≤ 3 ∧ collTy (r.word 3 / 2 ^ 32 % 2 ^ 5) = some .f32 ∧ cuts (r.word 2) 64 = [(r.word 2, 64)] ∧ (s.ctx 0).chains.length = 64 ∧ ((s.chain 0 9).recs.map Rec.seq).Nodup) ∧
      ∃ q, engRead e (r.word 3 / 2 ^ 40 % 2 ^ 4) (r.word 1) 64 s = .ok q ∧ (decide (q.1 < 2 ^ (8 * 64)) = true ∧ ∃ s2, engWrite e (r.word 3 / 2 ^ 44 % 2 ^ 4) (r.word 2) 64 (q.1 % 2 ^ (8 * 64)) q.2 = .ok s2)) ∧
    (let r := cmdRec 7 demoteW listsM; let e := r.eng 0 9 false; let s0 := startedCmd 7 demoteW listsM
      (r.headerOk = true ∧ demoteOk e r = true ∧ r.prog = 0 ∧ r.word 2 / 2 ^ 32 % 2 ^ 16 = 0) ∧ ∃ q, passLists e (r.word 6) s0 = .ok q ∧ ((!(q.2.keepPass e r).ringBlocked e (q.1.fab.getD 4 0)) = true ∧
        ∃ s2, passLook e r q.1 0 (q.2.keepPass e r) = .ok s2 ∧ (passSwap e r q.1 0 s2).isOk = true)) ∧
    (let r := cmdRec 8 migrateW []; let s0 := startedCmd 8 migrateW []
      (r.headerOk = true ∧ migrateOk (r.eng 0 9 false) r = true ∧ r.word 1 < 2 ^ 56 ∧ r.word 2 % 2 ^ 16 = 0) ∧ ∃ g, (s0.ctx 0).range (r.word 1) 65536 = some g ∧ g.wr = true ∧ s0.backed (g.fabric (r.word 1)) = true ∧
        s0.backed (g.fabric (r.word 1) + 65535) = true ∧
        ((match s0.startMig 16 true (some (0, 9, 1)) with
          | .passed => 0 | .noSpace => 1 | .busy => 2 | .started _ => 3) = 0) ∧
        ((match (migrating 0x10000000 []).startMig 16 true (some (0, 9, 1)) with
          | .passed => 0 | .noSpace => 1 | .busy => 2 | .started _ => 3) = 3) ∧
        ((match (migrating 0x10000000 [moving 0 1 false]).startMig 16 true (some (0, 9, 1)) with
          | .passed => 0 | .noSpace => 1 | .busy => 2 | .started _ => 3) = 2)) ∧
    (let s := commanded 7 demoteW listsM; ∀ x, s.retireReady.rec? 0 9 1 = some x → x.hold = none) ∧
    (let r : Rec := { cmdRec 7 demoteW listsM with st := 1, hold := some (.list 0x106000) }
      let s := { commanded 7 demoteW listsM with ctxs := [(0, { wordContext with chains := wordContext.chains.set 9 { Chain.clear with enable := true, engine := 5, seq := 1, recs := [r] } })] }
      s.retireReady.rec? 0 9 1 = some r ∧ r.ending = none ∧ r.kind = 7 ∧ s.retireReady.working = true) := by
  have two : ∀ {ε α : Type} {x : Except ε α} {β : Type} {p : α → Bool} {f : α → Except ε β},
      (match x with | .ok a => p a && (f a).isOk | .error _ => false) = true → ∃ q, x = .ok q ∧ (p q = true ∧ ∃ b, f q = .ok b) :=
    fun h => ex_of _ _ (fun q h => by rw [Bool.and_eq_true] at h; exact ⟨h.1, ok_of h.2⟩) h
  have more : ∀ {ε α β : Type} {x : Except ε α} {p : α → Bool} {f : α → Except ε β} {g : α → β → Bool},
      (match x with | .ok a => p a && (match f a with | .ok b => g a b | .error _ => false) | .error _ => false) = true → ∃ q, x = .ok q ∧ (p q = true ∧ ∃ b, f q = .ok b ∧ g q b = true) :=
    fun h => ex_of _ _ (fun q h => by rw [Bool.and_eq_true] at h; exact ⟨h.1, ex_of _ _ (fun _ e => e) h.2⟩) h
  refine ⟨by decide +kernel, ⟨by decide +kernel, two (by decide +kernel)⟩, ⟨by decide +kernel, more (by decide +kernel)⟩, ⟨by decide +kernel, _, rfl, by decide +kernel⟩, fun x h => ?_, by decide +kernel⟩
  rw [show (commanded 7 demoteW listsM).retireReady.rec? 0 9 1 = some (record 1 0) by decide +kernel] at h
  cases h
  rfl

/-- A started device with the launch record of the given words at 0x200000, the oldest of chain 3 of context 0. -/
def pending (f : LaunchF) : State :=
  { afterStart id with
    launches := []
    trays := []
    mem := ((bodyOf f).zipIdx.foldl (fun m p => memWrite m (0x100040 + 8 * p.2) 8 p.1.toNat) [])
    ctxs := [(0, { wordContext with chains := wordContext.chains.set 3 { Chain.clear with enable := true, seq := 1, recs := [record 1 0] } })] }
/-- A launch record within the limits, and with a dependence on a chain and number. -/
def goodF (ch n : Nat) : LaunchF := { launch.f with w0 := 0x1001, w4 := BitVec.ofNat 64 (1 + 31 * 2 ^ 6 + ch * 2 ^ 51), w5 := BitVec.ofNat 64 n }
/-- A launch whose record is the one pending, with its trays exited, or its group still there. -/
def ending (gone : Bool) : State :=
  { pending (goodF 0 0) with
    launches := [{ launch with chain := 3, f := goodF 0 0 }]
    trays := if gone then [] else [t2]
    ctxs := [(0, { wordContext with chains := wordContext.chains.set 3 { Chain.clear with enable := true, seq := 1, recs := [record 1 1] } })] }
/-- A command that has ended. -/
def endedCmd : State :=
  { commanded 2 copyW [] with ctxs := [(0, { wordContext with chains := wordContext.chains.set 9 { Chain.clear with enable := true, engine := 1, seq := 1, recs := [{ cmdRec 2 copyW [] with st := 1, ending := some 0x02000000 }] } })] }

theorem witness_RecordsComplete :
    (∀ f ∈ [goodF 0 0, goodF 3 1, goodF 4 0, launch.f], let s := pending f
      s.working = true ∧ ((s.chain 0 3).recs.map Rec.seq).Nodup ∧ (s.ctx 0).chains.length = 64 ∧ (s.ctx 0).st = 1 ∧ s.nextRec 0 3 = some (record 1 0) ∧ (record 1 0).body = [] ∧ (record 1 0).readyAt = none ∧ s.recBad (record 1 0).addr = false ∧ s.pipeBad 0 f = false ∧ (s.poison (.fab ((record 1 0).addr / 4))).recBad (record 1 0).addr = true ∧ launchF (fetched s (record 1 0)).body = f) ∧
    ((pending launch.f).launchLimits 0 launch.f = false ∧ (∀ f ∈ [goodF 0 0, goodF 3 1], (pending f).launchLimits 0 f = true ∧ ((pending f).recPipe f []).2 = false) ∧ (goodF 0 0).deps = [] ∧
      (∃ d ∈ (goodF 3 1).deps, (pending (goodF 3 1)).badDep 0 3 1 d = true)) ∧
    (∀ b ∈ [true, false], let s := ending b; let l : Launch := { launch with chain := 3, f := goodF 0 0 }
      s.launches.find? (fun x => x.ctx == 0 && x.chain == 3 && x.seq == 1 && x.coord && x.phase != .done) = some l ∧ (s.launches.map Launch.id).Nodup ∧ s.launchOver l = b ∧ l.f.rel = false ∧ l.ending = none ∧
      ((s.chain 0 3).recs.map Rec.seq).Nodup ∧ s.rec? 0 3 1 = some (record 1 1) ∧ (s.ctx 0).held = [] ∧ ∀ t ∈ s.trays, t.lpDirty = []) ∧
    (let s : State := { ending true with launches := [{ launch with chain := 3, f := goodF 0 0, coord := true, descr := ⟨0, 0, 1, 0, 0, 1, 1, 1, 1, 3⟩ }] }
      ∀ l ∈ s.launches, l.ran = true ∧ (∃ q ∈ l.others s.pkg, q ∉ l.reported) ∧ s.launchOver l = false) ∧
    (let s := endedCmd; s.launches.find? (fun x => x.ctx == 0 && x.chain == 9 && x.seq == 1 && x.coord && x.phase != .done) = none ∧ ∃ r, s.rec? 0 9 1 = some r ∧ r.st = 1 ∧ r.ending = some 0x02000000 ∧ r.relFlag = false ∧
      (s.who (.engine 0 9 1)).mode = 0 ∧ s.dbgLevel = 0 ∧ ((s.chain 0 9).recs.map Rec.seq).Nodup ∧ (s.ctx 0).chains.length = 64 ∧ (s.ctx 0).st = 1) := by
  exact ⟨by decide +kernel, by decide +kernel, by decide +kernel, by decide +kernel, by decide +kernel, _, rfl, by decide +kernel⟩

/-- The record that waits for cores: fetched and ready. -/
def readyRec : Rec := { record 1 0 with body := bodyOf (goodF 0 0), readyAt := some 0 }
/-- A started device where it waits. -/
def waiting : State := { pending (goodF 0 0) with ctxs := [(0, { wordContext with chains := wordContext.chains.set 3 { Chain.clear with enable := true, seq := 1, recs := [readyRec] } })] }
/-- What waits. -/
def want0 : Want := ⟨0, 3, 0, goodF 0 0, some readyRec, none⟩
/-- The record that waits for cores, in replay. -/
def replayRec : Rec := { readyRec with body := bodyOf { goodF 0 0 with w0 := 0x21001 } }
/-- It waits, and the record at CONS is the PLACE of number q on chain 3. -/
def waitingReplay (q : Nat) : State :=
  { waiting with
    ctxs := [(0, { ringed 1 with chains := wordContext.chains.set 3 { Chain.clear with enable := true, seq := 1, recs := [replayRec] } })]
    mem := memWrite (memWrite (memWrite waiting.mem 0x200000 8 0x1030001000000000) 0x200010 8 q) 0x200018 8 (3 * 2 ^ 20) }

/-- R426: number 1 is placed; the record of another number can be met by nothing, but one still to come may be. -/
theorem witness_placeStuck : (waitingReplay 1).placeStuck 0 = false ∧ (waitingReplay 2).placeStuck 0 = false ∧ (waitingReplay 0).placeStuck 0 = true ∧ (waitingReplay 0).stuck 0 = false ∧
    ∃ g ∈ (waitingReplay 0).placeWaits 0, g.record = some replayRec := by decide +kernel

/-- A running launch of one tray in which the groups given are evicted or not. -/
def placed (ev : List Bool) (replace : List Nat) : State :=
  { afterStart id with
    launches := [{ launch with f := goodF 0 0, replace := replace }]
    trays := [{ wordTray 0 with warps := ev.zipIdx.map fun p => { g2 with agent := .group 0 0 p.2, evicted := p.1 } }] }

/-- A launch that is being slid to (5, 5). -/
def slidingL : Launch := { launch with f := goodF 0 0, phase := .sliding }
/-- Its machine. -/
def sliding : State := { placed [false] [] with slide := some ⟨0, 5, 5, 0, 3⟩, launches := [slidingL] }

/-- What is found has a property, from their computation. -/
theorem find_of {α : Type} {x : Option α} {p : α → Prop} [DecidablePred p] (h : x.any (fun a => decide (p a)) = true) : ∃ a, x = some a ∧ p a := by
  cases x with
  | none => cases h
  | some a => exact ⟨a, rfl, of_decide_eq_true h⟩

theorem witness_Placement :
    (let s := (afterStart id).freeTrays; (afterStart id).working = true ∧ (afterStart id).ckptBusy = false ∧ (afterStart id).slide = none ∧ (∀ p ∈ s.ctxs, s.ctxMode p.1 ≠ 2) ∧ s.wants = []) ∧
    (let s := waiting; let s0 := s.freeTrays; let f := launchF readyRec.body
      (s.working = true ∧ s.ckptBusy = false ∧ s.slide = none ∧ (∀ p ∈ s0.ctxs, s0.ctxMode p.1 ≠ 2) ∧ s0.wants = [want0] ∧ want0.f = f ∧ want0.record = some readyRec ∧ f.mode = 0 ∧ s0.modeBlocked 0 f = false ∧ s0.singleAt f = true ∧
        (s0.ctx 0).chains.length = 64 ∧ ((s0.chain 0 3).recs.map Rec.seq).Nodup ∧ readyRec ∈ (s0.chain 0 3).recs ∧ s0.launches = [] ∧ s0.trays = []) ∧
      ∃ q, s0.fitNow holdsCore want0 = some q ∧ (q.2.map Spot.idx).Nodup) ∧
    ((sliding.launch? 0 = some slidingL ∧ (sliding.launches.map Launch.id).Nodup ∧ (∀ h ∈ (sliding.ctx 0).chains, ∀ y ∈ h.recs, y.st ≠ 0) ∧ ∀ y ∈ sliding.launches, y.phase ≠ .prepared) ∧
      ∃ xs, State.spots { sliding with slide := none } (heldBut 0) slidingL.chain slidingL.f 5 5 = some xs ∧ (xs.map Spot.idx).Nodup) ∧
    (∀ ev ∈ [[true, false], [true]], let s := placed ev []; s.launch? 0 = some { launch with f := goodF 0 0 } ∧ s.working = true ∧ s.ckptBusy = false ∧ s.slide = none ∧
      ∃ t, s.tray? 0 0 = some t ∧ (t.warps.filter fun w => w.evicted && !w.gone).length = 1 ∧ ((∃ w ∈ t.warps, w.gone = false ∧ w.evicted = false) ↔ ev = [true, false]) ∧ (∀ w ∈ t.warps, ∀ y ∈ w.lanes, y.back = none) ∧
        (ev = [true, false] → (s.coreRoom holdsCore t.core ⟨1, 1 * 128 * (goodF 0 0).nregs, 0, 0⟩).isSome = true) ∧
        (ev = [true] → (s.coreRoom holdsCore t.core ⟨1, 1 * 128 * (goodF 0 0).nregs, (goodF 0 0).tiles, ((goodF 0 0).spBytes + (goodF 0 0).pmBytes) / 1024⟩).isSome = true)) ∧
    (let s := placed [] [0]; s.launch? 0 = some { launch with f := goodF 0 0, replace := [0] } ∧ (lowestUnits (s.lpFree 0) (goodF 0 0).lpNeed).isSome = true ∧
      ∃ t, s.tray? 0 0 = some t ∧ t.idx = 0 ∧ s.owedBefore t 0 = false ∧ (s.coreRoom holdsCore t.core (goodF 0 0).need).isSome = true) ∧
    (let s := placed [true] []; ∃ t, s.tray? 0 0 = some t ∧ t.idx = 0 ∧ s.owedBefore t 0 = true) := by
  refine ⟨by decide +kernel, ⟨by decide +kernel, find_of ?_⟩, ⟨by decide +kernel, find_of ?_⟩, fun ev h => ?_, ⟨by decide +kernel, by decide +kernel, find_of ?_⟩, find_of ?_⟩
  · decide +kernel
  · decide +kernel
  · rcases List.mem_pair.1 h with rfl | rfl <;> exact ⟨by decide +kernel, by decide +kernel, by decide +kernel, by decide +kernel, find_of (by decide +kernel)⟩
  · decide +kernel
  · decide +kernel

/-- The device with the word nop placed. -/
def nopState : State := State.reset.placeWord 0x0170000000000000

theorem witness_AStepRunsTheDecodedWord :
    ((State.reset.inputs = []) ∧ ∃ s i r, (s : State).inputs = i :: r) ∧ nopState.due = none ∧ (∃ w, nopState.nextWarp = some w ∧ w.agent = .group 0 0 0) ∧
    (let s1 := { nopState.wait1 with turn := some (.group 0 0 0), lines := [] };
      (s1.warp? (.group 0 0 0)).any (fun w1 => let w2 := s1.toIssue w1
        let u := s1.setWarp w2
        (u.launchOf w2.agent).any (fun la => match u.fetch la w2.frontPc.toNat with
          | .word x => x == 0x0170000000000000
          | .fault _ => false
          | .wait _ => false) && frameFault w2.frontFrame 1 == none && u.breakAt? w2 == none) = true) ∧
    decode 0x0170000000000000 = .ok (.nop all) ∧ (State.reset.due = none → State.reset.nextWarp = none) := by
  refine ⟨⟨rfl, { State.reset with inputs := [.powerLoss] }, _, _, rfl⟩, by decide +kernel, ⟨wordWarp 0x0170000000000000, by decide +kernel, rfl⟩, by decide +kernel, by decide +kernel, fun _ => by decide +kernel⟩

theorem witness_EncodingRoundTrips : (Instr.add ⟨false, 3⟩ .i32 (.v 4) (.v 4) (.imm 1)).isWord = true ∧ (Instr.add ⟨false, 3⟩ .i32 (.v 4) (.v 4) (.imm 1)).wf = true := by decide +kernel

theorem witness_EveryStepKeepsMemoryCanonical : nopState.mem.wf = true ∧ ∃ t, Machine.step nopState = .next t := by
  refine ⟨by decide +kernel, ?_⟩
  have h : (match Machine.step nopState with | .next _ => true | .fault _ => false | .refused _ => false) = true := by decide +kernel
  split at h
  · rename_i t e
    exact ⟨t, e⟩
  · cases h
  · cases h

/-! Words, each written out field by field from its entry (R271 to R278), and the instructions they stand for -/

/-- Control (R296, R308). -/
theorem test_decode_control : ([
    (0x0170000000000000, .nop all),
    (0x02A0001900000000, .bra ⟨true, 2⟩ 0x19),
    (0x027FFFE700000000, .bra all 0xFFFE7),
    (0x0370008000000000, .brx all (.v 8)),
    (0x0370005000000004, .brx all (.s 5)),
    (0x0470000300000000, .call all 3),
    (0x0573E0600000000C, .callx all (.s 62) (.s 6)),
    (0x067003E000000004, .ret all (.s 62)),
    (0x0710000000000000, .exit ⟨false, 1⟩),
    (0x0870000000000000, .rbar all),
    (0x0970000000000000, .yield all),
    (0x0A70009000000004, .sleepuntil all 9),
    (0x0B70000000011000, .trap all 17),
    (0x0C7FFFDF09000000, .loop all 9 0xFFFDF),
    (0xFF0C0A0001A00002, .blockHeader ⟨12, 10, 26, 0, 2⟩),
    (0xFFFF00FFFFF80009, .blockHeader ⟨255, 0, 0xFFFFF, 0x800, 9⟩)
  ] : List (Word × Instr)).all (fun x => decode x.1 == .ok x.2 && x.2.wf) = true := by decide +kernel

/-- Moves and integers (R309 to R315). -/
theorem test_decode_moves_and_integers : ([
    (0x1070407000000B04, .mov all .b64 (.v 4) (.s 7)),
    (0x1170400000000009, .movi all .b32 (.v 4) 9),
    (0x11703009FFFFFFFF, .movi all .i64 (.s 3) 0xFFFFFFFF),
    (0x1170600200000007, .movi all .n64 (.v 6) 7),
    (0x1270400800000040, .movih all (.s 4) 0x40),
    (0x1330404810000102, .add ⟨false, 3⟩ .i32 (.v 4) (.v 4) (.imm 1)),
    (0x1470304FD000018E, .sub all .i64 (.s 3) (.s 4) (.imm 0x7D)),
    (0x15704052000003E8, .addi all .n32 (.v 4) (.v 5) 1000),
    (0x1570E0E90000C350, .addi all .i64 (.s 14) (.s 14) 50000),
    (0x1670102030000300, .mul all .n32 (.v 1) (.v 2) (.v 3)),
    (0x1770204060000382, .mulhi all .n64 (.v 2) (.v 4) (.s 6)),
    (0x1870102038500103, .mad all .i32 (.v 1) (.v 2) (.s 3) (.imm 5)),
    (0x1970102030000100, .div all .i32 (.v 1) (.v 2) (.v 3)),
    (0x1A70102030000304, .rem all .n32 (.v 1) (.s 2) (.v 3)),
    (0x1B70102030000100, .min all .i32 (.v 1) (.v 2) (.v 3)),
    (0x1C7010203000038E, .max all .n64 (.s 1) (.s 2) (.s 3)),
    (0x1D70102000000100, .abs all .i32 (.v 1) (.v 2)),
    (0x1E70204000000180, .neg all .i64 (.v 2) (.v 4)),
    (0x1F70102FF0000302, .addsat all .n32 (.v 1) (.v 2) (.imm 0x7F)),
    (0x2F70102808700103, .clamp all .i32 (.v 1) (.v 2) (.imm 0) (.imm 7))
  ] : List (Word × Instr)).all (fun x => decode x.1 == .ok x.2 && x.2.wf) = true := by decide +kernel

/-- Logic, shifts, comparisons, bit fields (R314 to R323). -/
theorem test_decode_logic_shifts_comparisons_bit_fields : ([
    (0x2070102030000A82, .and all .b32 (.v 1) (.v 2) (.s 3)),
    (0x2170102030000A82, .or all .b32 (.v 1) (.v 2) (.s 3)),
    (0x2270102030000A82, .xor all .b32 (.v 1) (.v 2) (.s 3)),
    (0x2470102030000A82, .andn all .b32 (.v 1) (.v 2) (.s 3)),
    (0x2870102030000A82, .shl all .b32 (.v 1) (.v 2) (.s 3)),
    (0x2970102030000A82, .shr all .b32 (.v 1) (.v 2) (.s 3)),
    (0x2A70102030000A82, .sar all .b32 (.v 1) (.v 2) (.s 3)),
    (0x2B70102030000A82, .rot all .b32 (.v 1) (.v 2) (.s 3)),
    (0x2370204000000B00, .not all .b64 (.v 2) (.v 4)),
    (0x2570204180000001, .andi all .b64 (.v 2) (.v 4) 0x80000001),
    (0x2670204180000001, .ori all .b64 (.v 2) (.v 4) 0x80000001),
    (0x2770204180000001, .xori all .b64 (.v 2) (.v 4) 0x80000001),
    (0x2C70204180000001, .shli all .b64 (.v 2) (.v 4) 0x80000001),
    (0x2D70204180000001, .shri all .b64 (.v 2) (.v 4) 0x80000001),
    (0x2E70204180000001, .sari all .b64 (.v 2) (.v 4) 0x80000001),
    (0x307010304020A100, .setp all .lt (.and 2) .i32 1 (.v 3) (.v 4)),
    (0x3070603820515386, .setp all .ge (.or 5) .n64 6 (.s 3) (.imm 2)),
    (0x3170203F00000063, .setpi all .geu 2 (.s 3) 99),
    (0x3270705800300A82, .sel all .b32 7 (.v 5) (.imm 0) 3),
    (0x3370102848800103, .bfe all .i32 (.v 1) (.v 2) (.imm 4) (.imm 8)),
    (0x3470102040800A82, .bfi all .b32 (.v 1) (.v 2) (.s 4) (.v 8)),
    (0x3570102000000A80, .popc all .b32 (.v 1) (.v 2)),
    (0x3670102000000A80, .clz all .b32 (.v 1) (.v 2)),
    (0x3770102000000A80, .ctz all .b32 (.v 1) (.v 2)),
    (0x3870102000000A80, .brev all .b32 (.v 1) (.v 2)),
    (0x3D70102000000A80, .bswap all .b32 (.v 1) (.v 2)),
    (0x3970203000024180, .cvti all .i64 .n8 true (.v 2) (.v 3)),
    (0x3A70801030002B04, .lea all 2 (.v 8) (.s 1) (.v 3)),
    (0x3B70201040003000, .pset all .andn 2 1 4),
    (0x3B70307000004000, .pset all .not 3 7 0),
    (0x3C709049F0001A8A, .smov all .b32 9 4 (some (.imm 31))),
    (0x3C70904000000B08, .smov all .b64 9 4 none)
  ] : List (Word × Instr)).all (fun x => decode x.1 == .ok x.2 && x.2.wf) = true := by decide +kernel

/-- Floating point and conversion (R327 to R340). -/
theorem test_decode_floating_point_and_conversion : ([
    (0x4070102030000510, .fadd all .f32 .rz (.v 1) (.v 2) (.v 3)),
    (0x4170204060000580, .fsub all .f64 .rne (.v 2) (.v 4) (.v 6)),
    (0x4270102030000432, .fmul all .f16 .rup (.v 1) (.v 2) (.s 3)),
    (0x43701020304004A0, .fma all .bf16 .rdn (.v 1) (.v 2) (.v 3) (.v 4)),
    (0x4470102030000500, .fdiv all .f32 .rne (.v 1) (.v 2) (.v 3)),
    (0x4570102030001500, .fmin all .f32 true (.v 1) (.v 2) (.v 3)),
    (0x4570102030001530, .fmin all .f32 true (.v 1) (.v 2) (.v 3)),
    (0x4670102030000400, .fmax all .f16 false (.v 1) (.v 2) (.v 3)),
    (0x4770102000000500, .fabs all .f32 (.v 1) (.v 2)),
    (0x4870102000000480, .fneg all .bf16 (.v 1) (.v 2)),
    (0x4970102030412500, .fsetp all .lt (.or 4) .f32 1 (.v 2) (.v 3)),
    (0x4A70102000000580, .fclass all .f64 (.v 1) (.v 2)),
    (0x4B7010003FC00000, .fmovi all .f32 (.v 1) 0x3FC00000),
    (0x4B7010093FC00000, .fmovi all .f64 (.s 1) 0x3FC00000),
    (0x4C70202000001520, .frnd all .f32 .rdn true (.v 2) (.v 2)),
    (0x4D70102830000502, .fscale all .f32 .rne (.v 1) (.v 2) (.imm 3)),
    (0x4E70102030409500, .fdot2 all true .rne (.v 1) (.v 2) (.v 3) (.v 4)),
    (0x507030200002A600, .cvt all .e4m3 .f32 true (.mode .rne) (.v 3) (.v 2)),
    (0x507030204050A442, .cvt all .f16 .f32 false (.rsto (.s 4) (.v 5)) (.v 3) (.v 2)),
    (0x51703020C002A012, .cvtblk all .mxi8 .f32 (.mode .rz) (.v 3) (.v 2) (.s 12)),
    (0x5270C0200000A638, .cvtsc all .e4m3 .f32 12 (.v 2)),
    (0x5370102000000800, .pack all .e2m1 1 (.v 2)),
    (0x5470102000000980, .unpack all .n4 1 (.v 2)),
    (0x6070100000000530, .exp2 all .rup (.v 1) (.v 0)),
    (0x6170100000000530, .log2 all .rup (.v 1) (.v 0)),
    (0x6270100000000530, .rcp all .rup (.v 1) (.v 0)),
    (0x6370100000000530, .rsqrt all .rup (.v 1) (.v 0)),
    (0x6470100000000530, .sqrt all .rup (.v 1) (.v 0)),
    (0x6570100000000530, .tanh all .rup (.v 1) (.v 0)),
    (0x6670100000000530, .sigmoid all .rup (.v 1) (.v 0)),
    (0x6770100000000530, .sinpi all .rup (.v 1) (.v 0)),
    (0x6870100000000530, .cospi all .rup (.v 1) (.v 0))
  ] : List (Word × Instr)).all (fun x => decode x.1 == .ok x.2 && x.2.wf) = true := by decide +kernel

/-- Cross-lane (R342 to R346). -/
theorem test_decode_cross_lane : ([
    (0x7070504810204A82, .shfl all .b32 .xor 5 (.v 4) (.imm 1) 2),
    (0x7170301000002000, .vote all .uni 3 1),
    (0x7270403000000008, .ballot all (.s 4) 3),
    (0x7370302000002108, .reduce all .max .i32 .rne (.s 3) (.v 2)),
    (0x7470302000008510, .scan all .add true .f32 .rz 3 (.v 2)),
    (0x757030204050050A, .sample all (.s 3) (.v 2) (.s 4) 5),
    (0x7670302040001502, .leaven all true (.v 3) (.v 2) (.s 4)),
    (0x7670302040000300, .leaven all false (.v 3) (.v 2) (.v 4)),
    (0x7770302000000A80, .matchLanes all none .b32 3 (.v 2)),
    (0x7770302000501B00, .matchLanes all (some 5) .b64 3 (.v 2))
  ] : List (Word × Instr)).all (fun x => decode x.1 == .ok x.2 && x.2.wf) = true := by decide +kernel

/-- Memory and atomics (R348 to R363). -/
theorem test_decode_memory_and_atomics : ([
    (0x8070602001300410, .ld all .sp .n32 6 ⟨.v 2, .s 0, 16⟩),
    (0x817083D030A00BFF, .st all .lp .b128 8 ⟨.s 61, .v 3, 0x3FF⟩),
    (0x8270602031400000, .ldm all .f16 6 3 (.v 2)),
    (0x8370684071200800, .stm all .n8 6 7 (.imm 4)),
    (0x8470602004B50400, .ldacq all .g .b64 .system 6 ⟨.v 2, .s 0, 0⟩),
    (0x8570602003320401, .strel all .sh .n32 .patch 6 ⟨.v 2, .s 0, 1⟩),
    (0x8670008004A80480, .pref all false .g .b32 ⟨.v 8, .s 0, 128⟩),
    (0x8770002040000006, .rflush all (.s 2) (.s 4)),
    (0x8870408004348400, .atom all .add (some .device) .g .n32 4 ⟨.v 8, .s 0, 0⟩),
    (0x8970408092A85002, .red all .xor none .pm .b32 4 ⟨.v 8, .v 9, 2⟩),
    (0x8A70408804B42400, .cas all (.rel .device) .g .b64 4 (.v 8) 0 (.imm 0)),
    (0x8C70000000041000, .fence all .rel .device),
    (0x8D7040203000000E, .freeze all 4 (.s 2) (.s 3)),
    (0x8E7040203000000E, .thaw all 4 (.s 2) (.s 3)),
    (0x9070314000000B04, .mset all 3 (.s 20)),
    (0x9171403000000B08, .mget all 20 3)
  ] : List (Word × Instr)).all (fun x => decode x.1 == .ok x.2 && x.2.wf) = true := by decide +kernel

/-- Synchronisation (R364 to R368). -/
theorem test_decode_synchronisation : ([
    (0xB07000000000B000, .bar all true .launch),
    (0xB170403001A10C00, .arrive all .tray 4 ⟨.s 3, .s 0, 0⟩),
    (0xB271403001A10C00, .swait all 20 ⟨.s 3, .s 0, 0⟩),
    (0xB37060500000000C, .qpush all 6 (.s 5)),
    (0xB47060500020000C, .qpop all 6 (.s 5) 2),
    (0xB570005060004006, .waitseq all .device (.s 5) (.s 6))
  ] : List (Word × Instr)).all (fun x => decode x.1 == .ok x.2 && x.2.wf) = true := by decide +kernel

/-- Matrix, attention, key-value (R372 to R386). -/
theorem test_decode_matrix_attention_key_value : ([
    (0xC070210200018C01, .mma all true .bf16 .bf16 2 16 32 0),
    (0xC070210200831801, .mma all true .mx8a .mx8a 2 16 32 8),
    (0xC170205200052C00, .mmag all false .i8 .n8 2 (.s 5) 32 0),
    (0xC270305060000040, .ldacc all .g 3 (.s 5) (.s 6)),
    (0xC372F05C00000010, .stacc all .sp 47 (.s 5) (.imm 0x40)),
    (0xC470300000000050, .zacc all 3 5),
    (0xC570110020318030, .attn all 3 1 16 (.s 2) (.s 3)),
    (0xC670400000000000, .attnClose all 4),
    (0xC770204000000000, .rescale all 2 4),
    (0xC870004000000000, .tilebarRel all 4),
    (0xC870304050000001, .tilebarWait all 3 4 (.s 5)),
    (0xC970405060200000, .slot all 4 5 (.s 6) 2),
    (0xCA70005000000030, .btswap all (.s 5) 3),
    (0xCB71005060040000, .ldfrag all .mx4 16 (.s 5) (.s 6)),
    (0xCC70409020000031, .accrd all true 4 9 2 3),
    (0xCD70904020000030, .accwr all false 9 4 2 3)
  ] : List (Word × Instr)).all (fun x => decode x.1 == .ok x.2 && x.2.wf) = true := by decide +kernel

/-- Engine commands (R276, R388). -/
theorem test_decode_engine_commands : ([
    (0xE0707050EF123400, .append all ⟨.system, true, true, true⟩ 0x1234 7 (.s 5) 3),
    (0xE170705322000000, .copy all ⟨.device, false, true, false⟩ 7 (.s 5) 12),
    (0xE270705322000000, .stream all ⟨.device, false, true, false⟩ 7 (.s 5) 12),
    (0xE370705322000000, .gather all ⟨.device, false, true, false⟩ 7 (.s 5) 12),
    (0xE470705322000000, .select all ⟨.device, false, true, false⟩ 7 (.s 5) 12),
    (0xE570705322000000, .coll all ⟨.device, false, true, false⟩ 7 (.s 5) 12),
    (0xE670705322000000, .demote all ⟨.device, false, true, false⟩ 7 (.s 5) 12),
    (0xE770705322000000, .migrate all ⟨.device, false, true, false⟩ 7 (.s 5) 12)
  ] : List (Word × Instr)).all (fun x => decode x.1 == .ok x.2 && x.2.wf) = true := by decide +kernel

/-- System (R399 to R411). -/
theorem test_decode_system : ([
    (0xF070500001000000, .rdctl all 5 1),
    (0xF170009000000000, .wrctl all 0 (.s 9)),
    (0xF270400000000000, .rdspec all (.pcv 4)),
    (0xF270400003000000, .rdspec all (.fstat 4)),
    (0xF370009002000000, .wrspec all .gang (.s 9)),
    (0xF470400003000000, .origin all 4 3),
    (0xF570000000000000, .rteResume all),
    (0xF570000000010000, .rteSkip all),
    (0xF570000000020000, .rteKill all),
    (0xF670500000000000, .locality all 5),
    (0xF770E00000000000, .rdtime all 14),
    (0xF870500000000000, .logctlMode all 5),
    (0xF870000000010000, .logctlFlush all),
    (0xF970403000000000, .mark all (.s 3) (.s 4)),
    (0xFA70008003000000, .bpctl all (.wbp 3 (.s 8))),
    (0xFA70500007050000, .bpctl all (.rwp1 5 7)),
    (0xFB70400004000000, .ident all (.vlane 4)),
    (0xFB70400007000000, .ident all (.handler 4)),
    (0xFC70500002000000, .rdcnt all 5 2)
  ] : List (Word × Instr)).all (fun x => decode x.1 == .ok x.2 && x.2.wf) = true := by decide +kernel


/-! Words that are no instruction (R281), terms that no word encodes -/

theorem test_not_instructions : ([0, 0x0D70000000000000, 0x3E70000000000000, 0x4F70000000000000, 0x5570000000000000, 0x6970000000000000, 0x7870000000000000, 0x8B70000000000000, 0x8F70000000000000, 0x9270000000000000, 0xB670000000000000,
      0xCE70000000000000, 0xE870000000000000, 0xFD70000000000000, 0xFE70000000000000] : List Word).all (fun x => decode x == .error .illegal) = true ∧
    ([0x01F0000000000000, 0x0170000000000001, 0x0170100000000000, 0x1370404810000002, 0x4070100200300540, 0x8070508006300404, 0x8070508004360404, 0x02700001900000FF, 0xC070210200831803, 0xE071705300000001,
      0xF070500900000000, 0xF570000000030000, 0x4570102030001540] : List Word).all (fun x => decode x == .error .reserved) = true := by decide +kernel

/-- The guard 0b1111. -/
def never : Guard := ⟨true, 7⟩

theorem test_wf_refuses_operands : ([.nop never, .add all .i64 (.v 3) (.v 4) (.v 6), .add all .i64 (.v 2) (.v 5) (.v 6), .add all .i32 (.s 3) (.v 4) (.s 6), .addi all .i32 (.v 1) (.s 2) 5, .abs all .n32 (.v 1) (.v 2), .sel all .b64 3 (.v 4) (.v 6) 1,
      .cvti all .f32 .i8 false (.v 1) (.v 2), .lea all 5 (.v 2) (.v 4) (.v 1), .lea all 2 (.v 3) (.v 4) (.v 1), .pset all .not 1 2 3, .loop all 0 5, .smov all .b64 3 5 none, .movih all (.v 3) 5, .brx all (.v 3)] : List Instr).all
    (fun i => !i.wf) = true := by decide +kernel

theorem test_wf_refuses_types : ([.fdiv all .f16 .rne (.v 1) (.v 2) (.v 3), .fmovi all .f16 (.v 1) 0x10000, .cvt all .i32 .i8 false (.mode .rne) (.v 1) (.v 2), .cvt all .f32 .f64 false (.rsto (.s 1) (.s 2)) (.v 1) (.v 2),
      .cvt all .f16 .f32 true (.mode .rne) (.v 1) (.v 2), .cvt all .i4 .f32 false (.mode .rne) (.v 1) (.v 2), .cvtblk all .i8 .f32 (.rsto (.s 1)) (.v 1) (.v 2) (.s 3), .reduce all .and .f32 .rne (.v 1) (.v 2), .reduce all .add .i32 .rz (.v 1) (.v 2),
      .ld all .g .e3m2 1 ⟨.v 2, .s 0, 0⟩, .ld all .g .n64 1 ⟨.v 2, .s 0, 0⟩, .ld all .g .b128 2 ⟨.v 2, .s 0, 0⟩, .ld all .g .n32 1 ⟨.v 3, .s 0, 0⟩, .ld all .g .n32 1 ⟨.imm 3, .s 0, 0⟩, .ldacq all .lp .n32 .tray 1 ⟨.v 2, .s 0, 0⟩,
      .pref all true .sp .b32 ⟨.v 2, .s 0, 0⟩, .atom all .addsat none .g .i32 1 ⟨.v 2, .s 0, 0⟩, .atom all .and none .g .f32 1 ⟨.v 2, .s 0, 0⟩, .red all .exch none .g .n32 1 ⟨.v 2, .s 0, 0⟩] : List Instr).all (fun i => !i.wf) = true := by
  decide +kernel

theorem test_wf_refuses_others : ([.bar all true .tray, .bar all false .group, .arrive all .tray 5 at2, .mma all true .bf16 .i8 0 0 0 0, .mma all true .bf16 .bf16 48 0 0 0, .mma all true .bf16 .bf16 0 4 0 0, .mma all true .bf16 .bf16 0 0 0 8,
      .zacc all 47 1, .attn all 0 0 0 (.s 1) (.s 2), .attn all 7 40 0 (.s 1) (.s 2), .ldacc all .lp 0 (.s 1) (.s 2), .accrd all true 4 0 15 1, .accrd all true 5 0 0 1, .accwr all false 0 4 31 1, .append all ⟨.device, false, false, false⟩ 0 1 (.s 1) 8,
      .copy all ⟨.device, false, false, false⟩ 1 (.s 1) 7, .rdctl all 1 9, .origin all 3 0, .origin all 4 5, .rdspec all (.pcv 3), .rdcnt all 1 3, .startStep 28 (found true 128), .startStepClear 0 0, .mgmtSemClearDenied 0 0] :
      List Instr).all (fun i => !i.wf) = true := by decide +kernel

/-! Single steps, with the results that the manual states -/

/-- The group after an instruction. -/
def after (i : Instr) (w : Warp) : Option Warp :=
  match exec i (machine w) with
  | .next t => t.warp? w.agent
  | .fault _ => none
  | .refused _ => none

/-- v[n] of a lane after an instruction, with fstat. -/
def vAfter (i : Instr) (w : Warp) (k n : Nat) : Option (Nat × Nat) := (after i w).map fun u => (((u.lane k).v.getD n 0).toNat, u.fstat.toNat % 32)
/-- s[n] after an instruction. -/
def sAfter (i : Instr) (w : Warp) (n : Nat) : Option Nat := (after i w).map fun u => (u.sget n).toNat
/-- One lane with its registers. -/
def single (v : List Nat) : Warp := group [0, 5, 0x100000] [lane 0 v]
/-- v3 after an instruction on one lane. -/
def r3 (i : Instr) (v : List Nat) : Option Nat := (vAfter i (single v) 0 3).map Prod.fst

-- R311, R312: the table of results.
theorem test_division : r3 (.div all .i32 (.v 3) (.v 0) (.v 1)) [0xFFFFFFF9, 2] = some 0xFFFFFFFD ∧ r3 (.rem all .i32 (.v 3) (.v 0) (.v 1)) [0xFFFFFFF9, 2] = some 0xFFFFFFFF ∧ r3 (.div all .n32 (.v 3) (.v 0) (.v 1)) [5, 0] = some 0xFFFFFFFF ∧
    r3 (.rem all .n32 (.v 3) (.v 0) (.v 1)) [5, 0] = some 5 ∧ r3 (.div all .i32 (.v 3) (.v 0) (.imm 0x7F)) [0x80000000] = some 0x80000000 ∧ r3 (.rem all .i32 (.v 3) (.v 0) (.imm 0x7F)) [0x80000000] = some 0 := by decide +kernel

theorem test_high_and_saturating : r3 (.mulhi all .n32 (.v 3) (.v 0) (.v 0)) [0xFFFFFFFF] = some 0xFFFFFFFE ∧ r3 (.mulhi all .i32 (.v 3) (.v 0) (.v 0)) [0xFFFFFFFF] = some 0 ∧ r3 (.addsat all .i32 (.v 3) (.v 0) (.imm 0x20)) [0x7FFFFFF0] = some 0x7FFFFFFF ∧
    r3 (.addsat all .n32 (.v 3) (.v 0) (.imm 0x7F)) [5] = some 0xFFFFFFFF ∧ r3 (.clamp all .i32 (.v 3) (.v 0) (.imm 0) (.imm 7)) [9] = some 7 := by decide +kernel

-- R314: its three examples.
theorem test_shifts : r3 (.shr all .b32 (.v 3) (.v 0) (.imm 35)) [0x80000000] = some 0 ∧ r3 (.sar all .b32 (.v 3) (.v 0) (.imm 35)) [0x80000000] = some 0xFFFFFFFF ∧ r3 (.rot all .b32 (.v 3) (.v 0) (.imm 33)) [0x80000001] = some 3 := by decide +kernel

-- R320, R321, R322: their examples.
theorem test_fields : r3 (.bfe all .n32 (.v 3) (.v 0) (.imm 4) (.imm 8)) [0xF0A5] = some 0x0A ∧ r3 (.bfe all .i32 (.v 3) (.v 0) (.imm 8) (.imm 8)) [0xF0A5] = some 0xFFFFFFF0 ∧ r3 (.bfe all .i32 (.v 3) (.v 0) (.imm 28) (.imm 8)) [0x80000000] = some 0xFFFFFFF8 ∧
    r3 (.bfi all .b32 (.v 3) (.v 0) (.imm 8) (.imm 4)) [0x5, 0, 0, 0xFFFFFFFF] = some 0xFFFFF5FF := by decide +kernel

theorem test_bits_and_widths : r3 (.bswap all .b32 (.v 3) (.v 0)) [0x11223344] = some 0x44332211 ∧ (vAfter (.clz all .b64 (.v 2) (.v 4)) (single [0, 0, 0, 0, 1]) 0 2).map Prod.fst = some 63 ∧ r3 (.cvti all .i32 .i8 false (.v 3) (.v 0)) [0x80] = some 0xFFFFFF80 ∧
    r3 (.cvti all .n8 .i32 false (.v 3) (.v 0)) [0x123] = some 0x23 ∧ r3 (.cvti all .n8 .i32 true (.v 3) (.v 0)) [0xFFFFFFFB] = some 0 := by decide +kernel

-- R309: movi.n64 s4, 0x20000 and movih s4, 0x40 leave 0x40_0002_0000.
theorem test_movih : sAfter (.movih all (.s 4) 0x40) (group [0, 0, 0, 0, 0x20000] [lane 0 []]) 4 = some 0x4000020000 := by decide +kernel

-- R336: the table of results and flags (NV 1, DZ 2, OF 4, UF 8, NX 16 of R234).
theorem test_conversions : vAfter (.cvt all .e4m3 .f32 false (.mode .rne) (.v 3) (.v 0)) (single [0x43960000]) 0 3 = some (0x79, 16) ∧ vAfter (.cvt all .e4m3 .f32 false (.mode .rne) (.v 3) (.v 0)) (single [0x43E80000]) 0 3 = some (0x7E, 16) ∧
    vAfter (.cvt all .e4m3 .f32 false (.mode .rne) (.v 3) (.v 0)) (single [0x43EB0000]) 0 3 = some (0x7E, 20) ∧ vAfter (.cvt all .e4m3 .f32 true (.mode .rne) (.v 3) (.v 0)) (single [0x43EB0000]) 0 3 = some (0x7F, 20) := by decide +kernel

theorem test_conversions_to_integers : vAfter (.cvt all .i32 .f32 false (.mode .rz) (.v 3) (.v 0)) (single [0xC0200000]) 0 3 = some (0xFFFFFFFE, 16) ∧ vAfter (.cvt all .n32 .f32 false (.mode .rne) (.v 3) (.v 0)) (single [0xBF800000]) 0 3 = some (0, 1) ∧
    vAfter (.cvt all .f32 .sc20 false (.mode .rne) (.v 3) (.v 0)) (single [0x7E56E]) 0 3 = some (0x3F2B7000, 0) ∧ vAfter (.cvt all .sc20 .f32 false (.mode .rne) (.v 3) (.v 0)) (single [0x80000000]) 0 3 = some (0, 0) := by decide +kernel

-- R327, R329: a division by zero, 0/0, the number form and the NaN form of fmin.
theorem test_float_specials : vAfter (.fdiv all .f32 .rne (.v 3) (.v 0) (.v 1)) (single [0xC0000000, 0]) 0 3 = some (0xFF800000, 2) ∧ vAfter (.fdiv all .f32 .rne (.v 3) (.v 0) (.v 0)) (single [0]) 0 3 = some (0x7FC00000, 1) ∧
    vAfter (.fmin all .f32 false (.v 3) (.v 0) (.v 1)) (single [0x7FC00001, 0x3F800000]) 0 3 = some (0x3F800000, 0) ∧ vAfter (.fmin all .f32 true (.v 3) (.v 0) (.v 1)) (single [0x7FC00001, 0x3F800000]) 0 3 = some (0x7FC00001, 0) := by decide +kernel

-- R340: exp2.f32.rup of 0.5.
theorem test_exp2 : vAfter (.exp2 all .rup (.v 3) (.v 0)) (single [0x3F000000]) 0 3 = some (0x3FB504F4, 16) := by decide +kernel

-- R239, R337, R338: the block whose largest magnitude is 300.0.
theorem test_block_scale : sAfter (.cvtsc all .e4m3 .f32 12 (.v 0)) (single [0x43960000]) 12 = some 0x7E56E ∧
    vAfter (.cvtblk all .e4m3 .f32 (.mode .rne) (.v 3) (.v 0) (.s 1)) (group [0, 0x7E56E] [lane 0 [0x43960000]]) 0 3 = some (0x7E, 16) := by decide +kernel

/-- Four lanes with the weights of R345 and u in s1. -/
def drawing (u : Nat) : Warp := group [0, u] ([0x3F000000, 0xC0000000, 0x3FA00000, 0x3E800000].zipIdx.map fun p => lane p.2 [p.1])

-- R345: its table.
theorem test_sample : [(0x3E4CCCCD, 0), (0x3ECCCCCD, 2), (0x3F7D70A4, 3), (0x3F800000, 3)].all (fun x => sAfter (.sample all (.s 3) (.v 0) (.s 1) 1) (drawing x.1) 3 == some x.2) = true := by decide +kernel

-- R346: key 0 and counter 1.
theorem test_leaven : r3 (.leaven all false (.v 3) (.imm 0) (.imm 1)) [] = some 0x688990C0 ∧ r3 (.leaven all true (.v 3) (.imm 0) (.imm 1)) [] = some 0x3ED11320 := by decide +kernel

-- R343, R344: two lanes with v1 = 3 and 4.
theorem test_cross_lane : sAfter (.reduce all .add .i32 .rne (.s 3) (.v 1)) g2 3 = some 7 ∧ sAfter (.ballot all (.s 3) 7) g2 3 = some 3 ∧ (vAfter (.shfl all .b32 .xor 3 (.v 1) (.imm 1) 2) g2 0 3).map Prod.fst = some 4 ∧
    (vAfter (.scan all .add true .i32 .rne 3 (.v 1)) g2 1 3).map Prod.fst = some 3 := by decide +kernel

-- R247: token 5 of SURV 0xF5 is at slot 3; token 3 is not kept.
theorem test_slot : (vAfter (.slot all 3 0 (.s 4) 1) (group [0, 0, 0, 0, 0xF5] [lane 0 [5]]) 0 3).map Prod.fst = some 3 ∧ (vAfter (.slot all 3 0 (.s 4) 1) (group [0, 0, 0, 0, 0xF5] [lane 0 [3]]) 0 3).map Prod.fst = some 0xFFFFFFFF := by decide +kernel

-- R299, R305: a branch to the header one word before the group's; loop with a counter of 1 goes on.
theorem test_branch : ((after (.bra all 0xFFFFF) g2).map fun u => (u.lane 1).pc.toNat) = some 0x100000 ∧ ((after (.loop all 3 0xFFFFF) (group [0, 0, 0, 1] [lane 0 []])).map fun u => ((u.lane 0).pc.toNat, (u.sget 3).toNat)) = some (0x100010, 0) ∧
    ((after (.call all 0xFFFFF) g2).map fun u => ((u.lane 0).pc.toNat, (u.sget 62).toNat)) = some (0x100000, 0x100010) := by decide +kernel

-- R308, R144, R307: trap takes cause 0x52; a handler is entered only through the tag.
theorem test_trap : ((after (.trap all 17) g2).map fun u => ((u.lane 0).st, (u.lane 0).tag.map fun t => t.w0.toNat)) = some (.trapped, some (0x52 * 2 ^ 53 + 0x100008 / 8)) := by decide +kernel

-- R353, R158: the buffer of R354 with OFF 48 and STEP 16, a 16-byte store by a lane with x = 0: OFF becomes 0, and the quad stands at 4,144.
theorem test_circular_buffer : let w := { single [0, 0, 0, 0, 1, 2, 3, 4] with mreg := (List.replicate 8 0).set 3 0x0020000C00020100 }
    (match exec (.stm all .b128 4 3 (.imm 0)) (machine w) with
      | .next t => ((t.warp? w.agent).map fun u => (u.mreg.getD 3 0).toNat / 2 ^ 30 % 2 ^ 19, ((t.ord w.agent).outbox.map fun e => match e.kind with
          | .write o => o.pieces.map Piece.loc
          | .release _ _ => []
          | .arrive _ _ _ _ => []
          | .command _ _ _ _ _ _ => []
          | .freeze _ _ _ _ => []
          | .thaw _ _ => []))
      | .fault _ => (none, [])
      | .refused _ => (none, [])) = (some 0, [[.sp 0 0 1036, .sp 0 0 1037, .sp 0 0 1038, .sp 0 0 1039]]) := by decide +kernel

/-- Four lanes that each add 1. -/
def adders : Warp := group [0, 0, 0x100040] ((List.range 4).map fun k => lane k [1])

-- R361: four lanes add 1 to a word that holds 10: they receive 10 to 13, and it ends as 14.
theorem test_atomic_add : (match exec (.atom all .add none .g .n32 0 ⟨.s 2, .s 0, 0⟩) { machine adders with mem := memWrite [] 0x100040 4 10 } with
      | .next t => ((t.warp? adders.agent).map fun u => (List.range 4).map fun k => ((u.lane k).v.getD 0 0).toNat, memRead t.mem 0x100040 4)
      | .fault _ => (none, 0)
      | .refused _ => (none, 0)) = (some [10, 11, 12, 13], 14) := by decide +kernel

-- R147: a 4-byte load at an address that is not a multiple of 4 traps its lane with cause 0x17, and the other lane loads.
theorem test_misaligned : ((after (.ld all .sp .n32 4 ⟨.v 0, .s 0, 0⟩) g2).map fun u => ((u.lane 0).st, (u.lane 0).tag.map fun t => t.w0.toNat / 2 ^ 53)) = some (.trapped, some 0x17) ∧
    ((after (.ld all .sp .n32 4 ⟨.v 0, .s 0, 0⟩) (group [] [lane 0 [7], lane 1 [8]])).map fun u => (u.lane 1).st) = some .ready := by decide +kernel

-- R136: a lane of a slice that branches back to a header ends its part, and the others go on.
theorem test_slice : let w := { group [] [lane 0 [], { lane 1 [] with frame := .header }] with slice := some 3 }
    (w.issued true w).slice = some 1 ∧ ({ w with slice := some 2 }.issued true { w with slice := some 2 }).slice = none := by decide +kernel

end Sys2Proof.Tests
end

section
/-!
PROOFS. The sum of one block (R231, R232): the rational value of an exact sum, the rounding to the nearest value of an IEEE format, and the NaNs of a block.
-/

namespace Sys2Proof

/-! Exact values as rationals -/

/-- The factor of a sign. -/
def signQ (neg : Bool) : ℚ := if neg then -1 else 1

theorem signQ_mul_self (neg : Bool) : signQ neg * signQ neg = 1 := by cases neg <;> norm_num [signQ]

theorem abs_signQ (neg : Bool) : |signQ neg| = 1 := by cases neg <;> norm_num [signQ]

/-- The rational value of an exact dyadic value. -/
def Dy.toRat (x : Dy) : ℚ := x.m * (2 : ℚ) ^ x.e

theorem two_zpow_split {d e : ℤ} (h : d ≤ e) : (2 : ℚ) ^ e = 2 ^ (e - d).toNat * 2 ^ d := by
  rw [← zpow_natCast, Int.toNat_of_nonneg (by omega), ← zpow_add₀ two_ne_zero, Int.sub_add_cancel]

theorem Dy.toRat_add (a b : Dy) : (a.add b).toRat = a.toRat + b.toRat := by
  unfold Dy.add
  split
  case isTrue h => simp only [Dy.toRat, two_zpow_split h]; push_cast; ring
  case isFalse h => simp only [Dy.toRat, two_zpow_split (Int.le_of_lt (not_le.1 h))]; push_cast; ring

theorem Dy.toRat_mul (a b : Dy) : (a.mul b).toRat = a.toRat * b.toRat := by
  simp only [Dy.mul, Dy.toRat, zpow_add₀ (two_ne_zero (α := ℚ))]
  push_cast
  ring

theorem Dy.toRat_halvings (imp : Nat) : (⟨1, -(imp : Int)⟩ : Dy).toRat = 1 / 2 ^ imp := by
  simp [Dy.toRat]

theorem Dy.toRat_eq_zero (x : Dy) : x.toRat = 0 ↔ x.m = 0 := by
  simp [Dy.toRat, zpow_ne_zero]

theorem Dy.frac_den_pos (x : Dy) : 0 < x.frac.2 := by
  unfold Dy.frac
  split <;> positivity

theorem Dy.frac_num_pos (x : Dy) (h : x.m ≠ 0) : 0 < x.frac.1 := by
  have := Int.natAbs_pos.2 h
  unfold Dy.frac
  split <;> positivity

theorem Dy.frac_eq_abs (x : Dy) : (x.frac.1 : ℚ) / x.frac.2 = |x.toRat| := by
  rw [Dy.toRat, abs_mul, abs_of_pos (zpow_pos (two_pos (α := ℚ)) x.e), ← Int.cast_abs, Int.abs_eq_natAbs, Int.cast_natCast]
  unfold Dy.frac
  split
  case isTrue h => simp [two_zpow_split h]
  case isFalse h =>
    have hd := two_zpow_split (d := x.e) (e := 0) (by omega)
    rw [zero_sub, zpow_zero] at hd
    push_cast
    rw [div_eq_iff (by positivity), mul_assoc, mul_comm ((2 : ℚ) ^ x.e), ← hd, mul_one]

theorem Dy.toRat_eq_sign_mul_frac (x : Dy) : x.toRat = signQ (decide (x.m < 0)) * (x.frac.1 / x.frac.2) := by
  have hp : (0 : ℚ) < 2 ^ x.e := zpow_pos two_pos x.e
  rw [Dy.frac_eq_abs]
  by_cases h : x.m < 0
  · have : x.toRat < 0 := mul_neg_of_neg_of_pos (Int.cast_lt_zero.2 h) hp
    simp [signQ, h, abs_of_neg this]
  · have : 0 ≤ x.toRat := mul_nonneg (Int.cast_nonneg (not_lt.1 h)) hp.le
    simp [signQ, h, abs_of_nonneg this]

theorem fvQ_fin (neg : Bool) (m : Nat) (e : Int) : fvQ (.fin neg m e) = some (signQ neg * (m * 2 ^ e)) := by
  cases neg <;> simp [fvQ, signQ]

theorem valQ_eq_fvQ (f : FFmt) (x : Nat) : valQ f x = fvQ (f.dec x) := by
  unfold valQ fvQ
  cases f.dec x <;> rfl

theorem fvQ_eq_some {x : FV} {q : ℚ} (h : fvQ x = some q) : (∃ neg m e, x = .fin neg m e) ∧ x.dy.toRat = q := by
  cases x with
  | nan neg quiet frac => cases h
  | inf neg => cases h
  | fin neg m e =>
    rw [fvQ_fin, Option.some.injEq] at h
    refine ⟨⟨neg, m, e, rfl⟩, ?_⟩
    rw [← h]
    cases neg <;> simp [FV.dy, Dy.toRat, signQ]

/-! The exponent of a quotient -/

theorem lt_mul_two_pow_iff (p q : Nat) (hq : 0 < q) (k : Int) :
    (if 0 ≤ k then decide (p < q * 2 ^ k.toNat) else decide (p * 2 ^ (-k).toNat < q)) = true ↔ (p : ℚ) / q < 2 ^ k := by
  have hq' : (0 : ℚ) < q := Nat.cast_pos.2 hq
  rw [div_lt_iff₀ hq']
  split
  case isTrue h =>
    rw [decide_eq_true_eq, two_zpow_split h, ← Nat.cast_lt (α := ℚ)]
    push_cast
    simp [mul_comm]
  case isFalse h =>
    have hd := two_zpow_split (d := k) (e := 0) (by omega)
    rw [zero_sub, zpow_zero] at hd
    have hpow : (0 : ℚ) < 2 ^ (-k).toNat := by positivity
    rw [decide_eq_true_eq, ← Nat.cast_lt (α := ℚ), ← mul_lt_mul_iff_left₀ hpow (b := (p : ℚ))]
    push_cast
    rw [show (2 : ℚ) ^ k * q * 2 ^ (-k).toNat = 2 ^ (-k).toNat * 2 ^ k * q by ring, ← hd, one_mul]

theorem log2_bounds (n : Nat) (h : 0 < n) : (2 : ℚ) ^ (Nat.log2 n : ℤ) ≤ n ∧ (n : ℚ) < 2 ^ ((Nat.log2 n : ℤ) + 1) := by
  have lo := Nat.log2_self_le h.ne'
  have hi := Nat.lt_log2_self (n := n)
  constructor
  · rw [zpow_natCast]; exact_mod_cast lo
  · rw [← Nat.cast_succ, zpow_natCast]; exact_mod_cast hi

theorem floorLog2_spec (p q : Nat) (hp : 0 < p) (hq : 0 < q) :
    (2 : ℚ) ^ floorLog2 p q ≤ (p : ℚ) / q ∧ (p : ℚ) / q < 2 ^ (floorLog2 p q + 1) := by
  have hq' : (0 : ℚ) < q := Nat.cast_pos.2 hq
  obtain ⟨plo, phi⟩ := log2_bounds p hp
  obtain ⟨qlo, qhi⟩ := log2_bounds q hq
  have hlo : (2 : ℚ) ^ ((Nat.log2 p : ℤ) - Nat.log2 q - 1) ≤ p / q := by
    rw [le_div_iff₀ hq']
    calc (2 : ℚ) ^ ((Nat.log2 p : ℤ) - Nat.log2 q - 1) * q
        ≤ 2 ^ ((Nat.log2 p : ℤ) - Nat.log2 q - 1) * 2 ^ ((Nat.log2 q : ℤ) + 1) := by gcongr
      _ = 2 ^ (Nat.log2 p : ℤ) := by rw [← zpow_add₀ two_ne_zero]; congr 1; ring
      _ ≤ p := plo
  have hhi : (p : ℚ) / q < 2 ^ ((Nat.log2 p : ℤ) - Nat.log2 q + 1) := by
    rw [div_lt_iff₀ hq']
    calc (p : ℚ) < 2 ^ ((Nat.log2 p : ℤ) + 1) := phi
      _ = 2 ^ ((Nat.log2 p : ℤ) - Nat.log2 q + 1) * 2 ^ (Nat.log2 q : ℤ) := by rw [← zpow_add₀ two_ne_zero]; congr 1; ring
      _ ≤ 2 ^ ((Nat.log2 p : ℤ) - Nat.log2 q + 1) * q := by gcongr
  unfold floorLog2
  simp only [lt_mul_two_pow_iff p q hq]
  split
  case isTrue h => exact ⟨hlo, by simpa using h⟩
  case isFalse h => exact ⟨not_lt.1 h, hhi⟩

/-! The nearest whole number of units -/

/-- n is a whole number nearest to x, the even one of two. -/
def NearestInt (n : Nat) (x : ℚ) : Prop := |(n : ℚ) - x| ≤ 1 / 2 ∧ (|(n : ℚ) - x| = 1 / 2 → n % 2 = 0)

theorem NearestInt.le_abs {n : Nat} {x : ℚ} (h : NearestInt n x) (k : Nat) : |n - x| ≤ |k - x| ∧ (k ≠ n → |k - x| = |n - x| → n % 2 = 0) := by
  obtain ⟨near, even⟩ := h
  by_cases hk : k = n
  · subst hk
    exact ⟨le_refl _, fun h => absurd rfl h⟩
  · have apart : (1 : ℚ) ≤ |(k : ℚ) - n| := by
      have : (1 : ℤ) ≤ |(k : ℤ) - n| := Int.one_le_abs (sub_ne_zero.2 (by exact_mod_cast hk))
      exact_mod_cast this
    have tri := abs_sub_le (k : ℚ) x n
    rw [abs_sub_comm x] at tri
    exact ⟨by linarith, fun _ heq => even (by linarith)⟩

theorem rne_nearestInt (neg : Bool) (P Q : Nat) (hQ : 0 < Q) :
    NearestInt (if RM.rne.up neg (P / Q) (P % Q) Q then P / Q + 1 else P / Q) (P / Q) := by
  have hQ' : (0 : ℚ) < Q := Nat.cast_pos.2 hQ
  have hx : (P : ℚ) / Q = (P / Q : ℕ) + (P % Q : ℕ) / Q := by
    rw [← mul_div_cancel_right₀ ((P / Q : ℕ) : ℚ) hQ'.ne', ← add_div]
    congr 1
    exact_mod_cast (Nat.div_add_mod' P Q).symm
  have rem_nonneg : (0 : ℚ) ≤ (P % Q : ℕ) / Q := by positivity
  have rem_lt : ((P % Q : ℕ) : ℚ) / Q < 1 := (div_lt_one hQ').2 (Nat.cast_lt.2 (Nat.mod_lt P hQ))
  have rem_le_half : ((P % Q : ℕ) : ℚ) / Q ≤ 1 / 2 ↔ 2 * (P % Q) ≤ Q := by
    rw [div_le_div_iff₀ hQ' two_pos, mul_comm, one_mul]; exact_mod_cast Iff.rfl
  have rem_eq_half : ((P % Q : ℕ) : ℚ) / Q = 1 / 2 ↔ 2 * (P % Q) = Q := by
    rw [div_eq_div_iff hQ'.ne' two_ne_zero, mul_comm, one_mul]; exact_mod_cast Iff.rfl
  have half_le_rem : 1 / 2 ≤ ((P % Q : ℕ) : ℚ) / Q ↔ Q ≤ 2 * (P % Q) := by
    rw [div_le_div_iff₀ two_pos hQ', one_mul, mul_comm]; exact_mod_cast Iff.rfl
  rw [hx]
  split
  case isTrue up =>
    simp only [RM.up, Bool.or_eq_true, Bool.and_eq_true, decide_eq_true_eq] at up
    have dist : |((P / Q + 1 : ℕ) : ℚ) - ((P / Q : ℕ) + (P % Q : ℕ) / Q)| = 1 - (P % Q : ℕ) / Q := by
      rw [Nat.cast_succ, add_sub_add_left_eq_sub, abs_of_pos (sub_pos.2 rem_lt)]
    rw [NearestInt, dist]
    have := half_le_rem.2 (by omega)
    refine ⟨by linarith, fun tie => ?_⟩
    have := rem_eq_half.1 (by linarith)
    omega
  case isFalse down =>
    simp only [RM.up, Bool.or_eq_true, Bool.and_eq_true, decide_eq_true_eq, not_or, not_and] at down
    rw [NearestInt, sub_add_cancel_left, abs_neg, abs_of_nonneg rem_nonneg]
    refine ⟨rem_le_half.2 (by omega), fun tie => ?_⟩
    have := rem_eq_half.1 tie
    omega

/-- The quotient whose whole part rndUnit takes is the number of units. -/
theorem rndUnit_eq (md : RM) (neg : Bool) (p q : Nat) (hq : 0 < q) (u : Int) :
    ∃ P Q : Nat, 0 < Q ∧ (P : ℚ) / Q = p / q / 2 ^ u ∧
      rndUnit md neg p q u = (if md.up neg (P / Q) (P % Q) Q then P / Q + 1 else P / Q, decide (P % Q ≠ 0)) := by
  refine ⟨_, _, ?_, ?_, rfl⟩
  · split <;> positivity
  · split
    case isTrue h =>
      rw [two_zpow_split h]
      push_cast
      rw [sub_zero, mul_one, div_div]
    case isFalse h =>
      rw [← neg_neg u, zpow_neg, two_zpow_split (d := 0) (e := -u) (by omega), div_inv_eq_mul, neg_neg]
      push_cast
      rw [sub_zero, mul_one, div_mul_eq_mul_div]

theorem rndUnit_nearestInt (neg : Bool) (p q : Nat) (hq : 0 < q) (u : Int) : NearestInt (rndUnit .rne neg p q u).1 (p / q / 2 ^ u) := by
  obtain ⟨P, Q, hQ, hx, hr⟩ := rndUnit_eq .rne neg p q hq u
  rw [hr, ← hx]
  exact rne_nearestInt neg P Q hQ

theorem rndUnit_inexact (neg : Bool) (p q : Nat) (hq : 0 < q) (u : Int) :
    (rndUnit .rne neg p q u).2 = true ↔ ((rndUnit .rne neg p q u).1 * 2 ^ u : ℚ) ≠ p / q := by
  obtain ⟨P, Q, hQ, hx, hr⟩ := rndUnit_eq .rne neg p q hq u
  have hQ' : (Q : ℚ) ≠ 0 := by positivity
  rw [hr]
  dsimp only
  rw [decide_eq_true_eq, not_iff_not, ← eq_div_iff (zpow_ne_zero u two_ne_zero), ← hx, eq_div_iff hQ']
  constructor
  · intro rem
    rw [rem, if_neg (by simp [RM.up, hQ.ne'])]
    exact_mod_cast Nat.div_mul_cancel (Nat.dvd_of_mod_eq_zero rem)
  · intro whole
    exact Nat.mod_eq_zero_of_dvd (Dvd.intro_left _ (by exact_mod_cast whole))

/-! The codes of an IEEE format -/

/-- A format with infinities and NaNs, an exponent field and a fraction field. -/
structure FFmt.IsIeee (f : FFmt) : Prop where
  kind : f.kind = .ieee
  eb_pos : 0 < f.eb
  fb_pos : 0 < f.fb

theorem FFmt.f32_isIeee : FFmt.f32.IsIeee := ⟨rfl, by decide, by decide⟩
theorem FFmt.f64_isIeee : FFmt.f64.IsIeee := ⟨rfl, by decide, by decide⟩

theorem FFmt.dec_of_isIeee {f : FFmt} (hf : f.IsIeee) (x : Nat) :
    f.dec x =
      if bits x f.fb f.eb = 2 ^ f.eb - 1 then
        (if bits x 0 f.fb = 0 then .inf (bit x (f.eb + f.fb)) else .nan (bit x (f.eb + f.fb)) (f == .e5m2 || bit (bits x 0 f.fb) (f.fb - 1)) (bits x 0 f.fb))
      else if bits x f.fb f.eb = 0 then .fin (bit x (f.eb + f.fb)) (bits x 0 f.fb) f.umin
      else .fin (bit x (f.eb + f.fb)) (2 ^ f.fb + bits x 0 f.fb) (f.umin + bits x f.fb f.eb - 1) := by
  simp only [dec, hf.kind, decide_eq_true_eq]
  rfl

theorem FFmt.bits_fraction_withSign (f : FFmt) (neg : Bool) (c : Nat) : bits (f.withSign neg c) 0 f.fb = c % 2 ^ f.fb := by
  cases neg <;> simp [bits, withSign, signBit, pow_add]

theorem FFmt.bits_exponent_withSign (f : FFmt) (neg : Bool) {c : Nat} (hc : c < 2 ^ (f.eb + f.fb)) : bits (f.withSign neg c) f.fb f.eb = c / 2 ^ f.fb := by
  have hlt : c / 2 ^ f.fb < 2 ^ f.eb := Nat.div_lt_of_lt_mul (by rwa [← pow_add, Nat.add_comm])
  cases neg
  · simp [bits, withSign, Nat.shiftRight_eq_div_pow, Nat.mod_eq_of_lt hlt]
  · rw [bits, withSign, if_pos rfl, signBit, Nat.shiftRight_eq_div_pow, pow_add, Nat.mul_comm, Nat.mul_add_div (by positivity), Nat.add_mod_left, Nat.mod_eq_of_lt hlt]

theorem FFmt.bit_sign_withSign (f : FFmt) (neg : Bool) {c : Nat} (hc : c < 2 ^ (f.eb + f.fb)) : bit (f.withSign neg c) (f.eb + f.fb) = neg := by
  cases neg
  · simp [bit, bits, withSign, Nat.shiftRight_eq_div_pow, Nat.div_eq_of_lt hc]
  · simp [bit, bits, withSign, signBit, Nat.shiftRight_eq_div_pow, Nat.div_eq_of_lt hc]

theorem FFmt.maxCode_lt_infCode {f : FFmt} (hf : f.IsIeee) : f.maxCode < f.infCode := by
  have : 0 < (2 ^ f.eb - 1) * 2 ^ f.fb := Nat.mul_pos (Nat.sub_pos_of_lt (Nat.one_lt_two_pow hf.eb_pos.ne')) (by positivity)
  rw [maxCode, hf.kind, infCode]
  exact Nat.sub_one_lt this.ne'

theorem FFmt.infCode_lt (f : FFmt) : f.infCode < 2 ^ (f.eb + f.fb) := by
  rw [infCode, pow_add]
  exact Nat.mul_lt_mul_of_pos_right (Nat.sub_one_lt (by positivity)) (by positivity)

theorem FFmt.dec_withSign_infCode {f : FFmt} (hf : f.IsIeee) (neg : Bool) : f.dec (f.withSign neg f.infCode) = .inf neg := by
  have he : f.infCode / 2 ^ f.fb = 2 ^ f.eb - 1 := Nat.mul_div_cancel _ (by positivity)
  have hm : f.infCode % 2 ^ f.fb = 0 := Nat.mul_mod_left _ _
  simp [dec_of_isIeee hf, bits_fraction_withSign, bits_exponent_withSign f neg f.infCode_lt, bit_sign_withSign f neg f.infCode_lt, he, hm]

theorem FFmt.dec_withSign {f : FFmt} (hf : f.IsIeee) (neg : Bool) {c : Nat} (hc : c ≤ f.maxCode) :
    f.dec (f.withSign neg c) = if c / 2 ^ f.fb = 0 then .fin neg (c % 2 ^ f.fb) f.umin
      else .fin neg (2 ^ f.fb + c % 2 ^ f.fb) (f.umin + (c / 2 ^ f.fb : ℕ) - 1) := by
  have hinf : c < f.infCode := hc.trans_lt (maxCode_lt_infCode hf)
  have hlt : c < 2 ^ (f.eb + f.fb) := hinf.trans f.infCode_lt
  have he : c / 2 ^ f.fb ≠ 2 ^ f.eb - 1 := ((Nat.div_lt_iff_lt_mul (by positivity)).2 hinf).ne
  simp [dec_of_isIeee hf, bits_fraction_withSign, bits_exponent_withSign f neg hlt, bit_sign_withSign f neg hlt, he]

theorem FFmt.dec_fin_bounds {f : FFmt} (hf : f.IsIeee) {x m : Nat} {neg : Bool} {e : Int} (h : f.dec x = .fin neg m e) :
    m < 2 ^ (f.fb + 1) ∧ f.umin ≤ e := by
  have hm : bits x 0 f.fb < 2 ^ f.fb := Nat.mod_lt _ (by positivity)
  rw [dec_of_isIeee hf] at h
  rw [pow_succ]
  split at h
  · split at h <;> cases h
  · split at h
    · cases h
      exact ⟨by omega, le_refl _⟩
    · cases h
      exact ⟨by omega, by omega⟩

/-- The value of the code that rnd forms from j units above the smallest and n of them: n may fill the next binade. -/
theorem FFmt.valQ_withSign {f : FFmt} (hf : f.IsIeee) (neg : Bool) {j n : Nat} (hn : n ≤ 2 ^ (f.fb + 1)) (hj : j = 0 ∨ 2 ^ f.fb ≤ n)
    (hc : j * 2 ^ f.fb + n ≤ f.maxCode) : valQ f (f.withSign neg (j * 2 ^ f.fb + n)) = some (signQ neg * (n * 2 ^ (f.umin + j))) := by
  have hpos : 0 < 2 ^ f.fb := by positivity
  rw [valQ_eq_fvQ, dec_withSign hf neg hc, Nat.mul_comm j, Nat.mul_add_div hpos, Nat.mul_add_mod]
  rw [pow_succ] at hn
  rcases lt_or_ge n (2 ^ f.fb) with small | big
  · obtain rfl : j = 0 := hj.resolve_right (not_le.2 small)
    simp [Nat.div_eq_of_lt small, Nat.mod_eq_of_lt small, fvQ_fin]
  · rcases lt_or_ge n (2 ^ f.fb * 2) with normal | top
    · obtain ⟨m, rfl⟩ := Nat.exists_eq_add_of_le big
      have hm : m < 2 ^ f.fb := by omega
      have he : f.umin + ((j : ℤ) + 1) - 1 = f.umin + j := by omega
      simp [Nat.div_eq_of_lt hm, Nat.mod_eq_of_lt hm, fvQ_fin, hpos, he]
    · obtain rfl : n = 2 ^ f.fb * 2 := le_antisymm hn top
      have he : f.umin + ((j : ℤ) + 2) - 1 = f.umin + j + 1 := by omega
      have carry : (2 : ℚ) ^ f.fb * 2 ^ (f.umin + j + 1) = 2 ^ f.fb * 2 * 2 ^ (f.umin + j) := by
        rw [zpow_add_one₀ two_ne_zero, mul_assoc, mul_comm (2 : ℚ) (2 ^ (f.umin + j))]
      simp [fvQ_fin, he, carry]

/-! One rounding (R235, R238) -/

/-- The exponent of the unit to which rnd rounds the magnitude p / q. -/
def FFmt.unitExp (f : FFmt) (p q : Nat) : Int := if floorLog2 p q < f.umin + f.fb then f.umin else floorLog2 p q - f.fb

theorem FFmt.rnd_code (f : FFmt) (md : RM) (neg : Bool) (p q : Nat) :
    (f.rnd md neg p q).1 = (f.unitExp p q - f.umin).toNat * 2 ^ f.fb + (rndUnit md neg p q (f.unitExp p q)).1 := rfl

theorem FFmt.rnd_inexact (f : FFmt) (md : RM) (neg : Bool) (p q : Nat) : (f.rnd md neg p q).2.1 = (rndUnit md neg p q (f.unitExp p q)).2 := rfl

theorem FFmt.unitExp_spec (f : FFmt) (p q : Nat) (hp : 0 < p) (hq : 0 < q) :
    f.umin ≤ f.unitExp p q ∧ (p : ℚ) / q < 2 ^ (f.unitExp p q + f.fb + 1) ∧ (f.unitExp p q = f.umin ∨ (2 : ℚ) ^ (f.unitExp p q + f.fb) ≤ p / q) := by
  obtain ⟨lo, hi⟩ := floorLog2_spec p q hp hq
  unfold unitExp
  split
  case isTrue h => exact ⟨le_refl _, hi.trans_le (zpow_le_zpow_right₀ one_le_two (by omega)), Or.inl rfl⟩
  case isFalse h =>
    rw [sub_add_cancel]
    exact ⟨by omega, hi, Or.inr lo⟩

/-- A whole number that bounds x bounds the number nearest to x. -/
theorem NearestInt.bounds {n : Nat} {x : ℚ} (h : NearestInt n x) (k : Nat) : (x < k → n ≤ k) ∧ ((k : ℚ) ≤ x → k ≤ n) := by
  obtain ⟨lo, hi⟩ := abs_le.1 h.1
  constructor
  · intro hx
    have : (n : ℚ) < k + 1 := by linarith
    exact Nat.lt_succ_iff.1 (by exact_mod_cast this)
  · intro hx
    have : (k : ℚ) < n + 1 := by linarith
    exact Nat.lt_succ_iff.1 (by exact_mod_cast this)

/-- A magnitude of the format is a multiple of the unit 2^u, or lies below the binade of that unit. -/
theorem multiple_or_below {f : FFmt} {m : Nat} {e u : Int} (hm : m < 2 ^ (f.fb + 1)) (he : f.umin ≤ e) :
    (∃ k : Nat, (m * 2 ^ e : ℚ) = k * 2 ^ u) ∨ u ≠ f.umin ∧ (m * 2 ^ e : ℚ) < 2 ^ (u + f.fb) := by
  rcases le_or_gt u e with h | h
  · refine Or.inl ⟨m * 2 ^ (e - u).toNat, ?_⟩
    rw [two_zpow_split h]
    push_cast
    ring
  · refine Or.inr ⟨by omega, ?_⟩
    have hm' : (m : ℚ) < 2 ^ ((f.fb : ℤ) + 1) := by
      rw [← Nat.cast_succ, zpow_natCast]; exact_mod_cast hm
    calc (m * 2 ^ e : ℚ) < 2 ^ ((f.fb : ℤ) + 1) * 2 ^ e := by gcongr
      _ = 2 ^ ((f.fb : ℤ) + 1 + e) := (zpow_add₀ two_ne_zero _ _).symm
      _ ≤ 2 ^ (u + f.fb) := zpow_le_zpow_right₀ one_le_two (by omega)

/-- Of all multiples of the unit the rounded magnitude is nearest to v. -/
theorem NearestInt.le_abs_mul {n : Nat} {v : ℚ} {u : Int} (h : NearestInt n (v / 2 ^ u)) (k : Nat) :
    |n * 2 ^ u - v| ≤ |k * 2 ^ u - v| ∧ ((k * 2 ^ u : ℚ) ≠ n * 2 ^ u → |k * 2 ^ u - v| = |n * 2 ^ u - v| → n % 2 = 0) := by
  have hu : (0 : ℚ) < 2 ^ u := zpow_pos two_pos u
  have scale (j : Nat) : |j * 2 ^ u - v| = |j - v / 2 ^ u| * 2 ^ u := by
    rw [← abs_of_pos hu, ← abs_mul, abs_of_pos hu, sub_mul, div_mul_cancel₀ _ hu.ne']
  obtain ⟨near, even⟩ := h.le_abs k
  rw [scale, scale]
  refine ⟨mul_le_mul_of_nonneg_right near hu.le, fun hne heq => even ?_ (mul_right_cancel₀ hu.ne' heq)⟩
  rintro rfl
  exact hne rfl

/-- A value below some multiple of the unit that v reaches is farther from v than the rounded magnitude. -/
theorem NearestInt.lt_abs_of_lt {n k : Nat} {v g : ℚ} {u : Int} (h : NearestInt n (v / 2 ^ u)) (hg : g < k * 2 ^ u) (hv : k * 2 ^ u ≤ v) :
    |n * 2 ^ u - v| < |g - v| := by
  calc |n * 2 ^ u - v| ≤ |k * 2 ^ u - v| := (h.le_abs_mul k).1
    _ = v - k * 2 ^ u := by rw [abs_sub_comm, abs_of_nonneg (sub_nonneg.2 hv)]
    _ < v - g := sub_lt_sub_left hg v
    _ ≤ |g - v| := by rw [abs_sub_comm]; exact le_abs_self _

/-- A positive v rounded to whole units of its binade is nearest to it among all values of the format, and is even in a tie. -/
theorem nearest_value {f : FFmt} {n m : Nat} {v : ℚ} {u e : Int} (neg : Bool) (hn : NearestInt n (v / 2 ^ u)) (hv : 0 < v)
    (hbin : u = f.umin ∨ (2 : ℚ) ^ (u + f.fb) ≤ v) (hm : m < 2 ^ (f.fb + 1)) (he : f.umin ≤ e) :
    |n * 2 ^ u - v| ≤ |signQ neg * (m * 2 ^ e) - v| ∧
      (signQ neg * (m * 2 ^ e) ≠ n * 2 ^ u → |signQ neg * (m * 2 ^ e) - v| = |n * 2 ^ u - v| → n % 2 = 0) := by
  have farther {g : ℚ} (h : |n * 2 ^ u - v| < |g - v|) : |n * 2 ^ u - v| ≤ |g - v| ∧ (g ≠ n * 2 ^ u → |g - v| = |n * 2 ^ u - v| → n % 2 = 0) :=
    ⟨h.le, fun _ heq => absurd heq h.ne'⟩
  by_cases hg : signQ neg * (m * 2 ^ e) < 0
  · exact farther (hn.lt_abs_of_lt (k := 0) (by simpa using hg) (by simpa using hv.le))
  · have hmag : signQ neg * (m * 2 ^ e) = m * 2 ^ e := by
      have : (0 : ℚ) ≤ m * 2 ^ e := by positivity
      cases neg
      · simp [signQ]
      · rw [signQ, if_pos rfl] at hg ⊢
        linarith
    rw [hmag]
    rcases multiple_or_below hm he (u := u) with ⟨k, hk⟩ | ⟨hne, below⟩
    · rw [hk]
      exact hn.le_abs_mul k
    · have hpow : ((2 ^ f.fb : ℕ) * 2 ^ u : ℚ) = 2 ^ (u + f.fb) := by
        rw [zpow_add₀ two_ne_zero, zpow_natCast, Nat.cast_pow, Nat.cast_ofNat, mul_comm]
      exact farther (hn.lt_abs_of_lt (k := 2 ^ f.fb) (hpow ▸ below) (hpow ▸ hbin.resolve_left hne))

theorem FFmt.withSign_mod_two {f : FFmt} (hf : f.IsIeee) (neg : Bool) (j n : Nat) : f.withSign neg (j * 2 ^ f.fb + n) % 2 = n % 2 := by
  obtain ⟨b, hb⟩ := Nat.exists_eq_succ_of_ne_zero hf.fb_pos.ne'
  have h1 : 2 ^ f.fb = 2 * 2 ^ b := by rw [hb, Nat.pow_succ, Nat.mul_comm]
  cases neg <;> simp [withSign, signBit, pow_add, h1, Nat.add_mod, Nat.mul_mod]

/-- What rnd and the sign make of a magnitude within range: a whole number of units, the nearest, and the parity of its code. -/
theorem FFmt.rnd_spec {f : FFmt} (hf : f.IsIeee) (neg : Bool) {p q : Nat} (hp : 0 < p) (hq : 0 < q) (hc : (f.rnd .rne neg p q).1 ≤ f.maxCode) :
    ∃ (n : Nat) (u : Int), NearestInt n (p / q / 2 ^ u) ∧ (u = f.umin ∨ (2 : ℚ) ^ (u + f.fb) ≤ p / q) ∧
      valQ f (f.withSign neg (f.rnd .rne neg p q).1) = some (signQ neg * (n * 2 ^ u)) ∧ f.withSign neg (f.rnd .rne neg p q).1 % 2 = n % 2 ∧
      ((f.rnd .rne neg p q).2.1 = true ↔ (n * 2 ^ u : ℚ) ≠ p / q) := by
  obtain ⟨hu, hi, lo⟩ := f.unitExp_spec p q hp hq
  have hn := rndUnit_nearestInt neg p q hq (f.unitExp p q)
  have hpos : (0 : ℚ) < 2 ^ f.unitExp p q := zpow_pos two_pos _
  have hexp : f.umin + ((f.unitExp p q - f.umin).toNat : ℤ) = f.unitExp p q := by omega
  rw [rnd_code] at hc ⊢
  refine ⟨_, f.unitExp p q, hn, lo, ?_, withSign_mod_two hf neg _ _, rndUnit_inexact neg p q hq _⟩
  have top : (rndUnit .rne neg p q (f.unitExp p q)).1 ≤ 2 ^ (f.fb + 1) := by
    refine (hn.bounds _).1 ((div_lt_iff₀ hpos).2 (hi.trans_eq ?_))
    rw [add_assoc, zpow_add₀ two_ne_zero, mul_comm, ← Nat.cast_succ, zpow_natCast]
    push_cast
    rfl
  have bottom : (f.unitExp p q - f.umin).toNat = 0 ∨ 2 ^ f.fb ≤ (rndUnit .rne neg p q (f.unitExp p q)).1 := by
    refine lo.imp (fun h => by omega) fun h => (hn.bounds _).2 ((le_div_iff₀ hpos).2 ?_)
    rw [Nat.cast_pow, Nat.cast_ofNat, ← zpow_natCast, ← zpow_add₀ two_ne_zero, add_comm]
    exact h
  rw [valQ_withSign hf neg top bottom hc, hexp]

theorem flagsOfRounding_inexact (inexact tiny : Bool) : ((if inexact then (if tiny then flUF + flNX else flNX) else 0) &&& flNX ≠ 0) ↔ inexact = true := by
  cases inexact <;> cases tiny <;> decide

/-- A sign moves from one side of a distance to the other. -/
theorem abs_signQ_mul_sub (neg : Bool) (a b : ℚ) : |a - signQ neg * b| = |signQ neg * a - b| := by
  calc |a - signQ neg * b| = |signQ neg| * |a - signQ neg * b| := by rw [abs_signQ, one_mul]
    _ = |signQ neg * a - b| := by rw [← abs_mul, mul_sub, ← mul_assoc, signQ_mul_self, one_mul]

theorem FFmt.roundQ_of_isIeee {f : FFmt} (hf : f.IsIeee) (neg : Bool) (p q : Nat) :
    f.roundQ false .rne neg p q =
      if f.maxCode < (f.rnd .rne neg p q).1 then (f.withSign neg f.infCode, flOF + flNX)
      else (f.withSign neg (f.rnd .rne neg p q).1, if (f.rnd .rne neg p q).2.1 then (if (f.rnd .rne neg p q).2.2 then flUF + flNX else flNX) else 0) := by
  simp [roundQ, FFmt.over, hf.kind, RM.toZero]

theorem FFmt.roundQ_rounds {f : FFmt} (hf : f.IsIeee) (neg : Bool) {p q : Nat} (hp : 0 < p) (hq : 0 < q) :
    Rounds f .rne (signQ neg * (p / q)) (f.roundQ false .rne neg p q) := by
  have hv : (0 : ℚ) < p / q := by positivity
  rw [roundQ_of_isIeee hf]
  split
  case isTrue above =>
    have infinite : valQ f (f.withSign neg f.infCode) = none := by rw [valQ_eq_fvQ, dec_withSign_infCode hf]; rfl
    exact ⟨fun y hy => by simp [infinite] at hy, fun y hy => by simp [infinite] at hy⟩
  case isFalse within =>
    obtain ⟨n, u, hn, hbin, hval, hpar, hnx⟩ := rnd_spec hf neg hp hq (not_lt.1 within)
    have cancel (y : ℚ) : signQ neg * (signQ neg * y) = y := by rw [← mul_assoc, signQ_mul_self, one_mul]
    refine ⟨fun y hy => ?_, fun y hy => ?_⟩
    · obtain rfl := Option.some.inj (hval.symm.trans hy)
      intro z g hz
      rw [valQ_eq_fvQ] at hz
      obtain ⟨⟨s, m, e, hdec⟩, -⟩ := fvQ_eq_some hz
      obtain ⟨hm, he⟩ := dec_fin_bounds hf hdec
      obtain rfl := Option.some.inj ((fvQ_fin s m e).symm.trans (hdec ▸ hz))
      obtain ⟨near, even⟩ := nearest_value (xor neg s) hn hv hbin hm he
      have hs : signQ (xor neg s) = signQ neg * signQ s := by cases neg <;> cases s <;> norm_num [signQ]
      rw [hs, mul_assoc] at near even
      rw [abs_signQ_mul_sub, abs_signQ_mul_sub, cancel, hpar]
      refine ⟨near, fun hne heq => even (fun h => hne ?_) heq⟩
      rw [← h, cancel]
    · obtain rfl := Option.some.inj (hval.symm.trans hy)
      rw [flagsOfRounding_inexact, hnx, not_iff_not]
      exact ⟨fun h => by rw [h], fun h => by rw [← cancel (n * 2 ^ u), h, cancel]⟩

theorem FFmt.valQ_zero {f : FFmt} (hf : f.IsIeee) (neg : Bool) : valQ f (f.withSign neg 0) = some 0 := by
  have h := valQ_withSign hf neg (j := 0) (n := 0) (Nat.zero_le _) (Or.inl rfl) (by simp)
  simpa using h

/-- An exact value is rounded once, to the nearest value, ties to even (R231, R238). -/
theorem FFmt.roundDy_rounds {f : FFmt} (hf : f.IsIeee) (v : Dy) (zs : Bool) : Rounds f .rne v.toRat (f.roundDy .rne v zs) := by
  unfold roundDy
  split
  case isTrue h =>
    rw [v.toRat_eq_zero.2 h]
    have zero := valQ_zero hf (zs && f.kind != .scale)
    refine ⟨fun y hy => ?_, fun y hy => ?_⟩ <;> obtain rfl := Option.some.inj (zero.symm.trans hy)
    · exact fun z p _ => ⟨by simp, fun hne heq => absurd (by simpa using heq) hne⟩
    · simp
  case isFalse h =>
    rw [v.toRat_eq_sign_mul_frac]
    exact roundQ_rounds hf _ (v.frac_num_pos h) v.frac_den_pos

/-! The partial of one block (R231, R232) -/

/-- Some operand of the products is a NaN. -/
def HasNan (ps : List (FV × FV)) : Prop := ∃ p ∈ ps, p.1.isNan = true ∨ p.2.isNan = true

/-- Some product is zero times infinity. -/
def HasZeroInf (ps : List (FV × FV)) : Prop := ∃ p ∈ ps, (p.1.isZero = true ∧ ∃ n, p.2 = .inf n) ∨ (p.2.isZero = true ∧ ∃ n, p.1 = .inf n)

/-- Some product with an infinite operand has the sign. -/
def HasInf (ps : List (FV × FV)) (neg : Bool) : Prop := ∃ p ∈ ps, ((∃ n, p.1 = .inf n) ∨ ∃ n, p.2 = .inf n) ∧ xor p.1.neg p.2.neg = neg

theorem zeroTimesInf_iff (x y : FV) : zeroTimesInf x y = true ↔ (x.isZero = true ∧ ∃ n, y = .inf n) ∨ (y.isZero = true ∧ ∃ n, x = .inf n) := by
  cases x <;> cases y <;> simp [zeroTimesInf, FV.isZero]

theorem infProd_iff (x y : FV) : infProd x y = true ↔ ((∃ n, x = .inf n) ∨ ∃ n, y = .inf n) ∧ zeroTimesInf x y = false := by
  cases x <;> cases y <;> simp [infProd, zeroTimesInf, FV.isZero]

theorem any_isNan_iff (ps : List (FV × FV)) : (ps.any fun p => p.1.isNan || p.2.isNan) = true ↔ HasNan ps := by
  simp [HasNan]

theorem any_zeroTimesInf_iff (ps : List (FV × FV)) : (ps.any fun p => zeroTimesInf p.1 p.2) = true ↔ HasZeroInf ps := by
  simp [HasZeroInf, zeroTimesInf_iff]

theorem any_infProd_iff {ps : List (FV × FV)} (h : ¬ HasZeroInf ps) (neg : Bool) :
    (ps.any fun p => infProd p.1 p.2 && xor p.1.neg p.2.neg == neg) = true ↔ HasInf ps neg := by
  have hz : ∀ p ∈ ps, zeroTimesInf p.1 p.2 = false := by
    rw [← any_zeroTimesInf_iff] at h
    simpa using h
  simp only [List.any_eq_true, Bool.and_eq_true, beq_iff_eq, infProd_iff, HasInf]
  exact ⟨fun ⟨p, hp, ⟨hi, _⟩, hs⟩ => ⟨p, hp, hi, hs⟩, fun ⟨p, hp, hi, hs⟩ => ⟨p, hp, ⟨hi, hz p hp⟩, hs⟩⟩

section BlockSum

variable (f : FFmt) {ps : List (FV × FV)} (a b : Dy) (imp : Nat)

theorem FFmt.blockSum_nanScale (sa sb : Option Dy) (h : sa = none ∨ sb = none) : f.blockSum ps sa sb imp = (f.genNan 2, 0) := by
  rcases h with rfl | rfl
  · rfl
  · cases sa <;> rfl

theorem FFmt.blockSum_nan (h : HasNan ps) : f.blockSum ps (some a) (some b) imp = (f.genNan 1, 0) := by
  rw [blockSum]
  exact if_pos ((any_isNan_iff ps).2 h)

theorem FFmt.blockSum_zeroInf (hn : ¬ HasNan ps) (h : HasZeroInf ps) : f.blockSum ps (some a) (some b) imp = (f.genNan 4, flNV) := by
  simp only [blockSum, any_isNan_iff, any_zeroTimesInf_iff, hn, h, if_false, if_true]

theorem FFmt.blockSum_inf (hn : ¬ HasNan ps) (hz : ¬ HasZeroInf ps) (h : HasInf ps true ∧ HasInf ps false) :
    f.blockSum ps (some a) (some b) imp = (f.genNan 3, flNV) := by
  simp only [blockSum, any_isNan_iff, any_zeroTimesInf_iff, hn, hz, Bool.and_eq_true, any_infProd_iff hz, h, if_false, if_true, and_self]

theorem FFmt.blockSum_infZeroScale (hn : ¬ HasNan ps) (hz : ¬ HasZeroInf ps) {n : Bool} (h : HasInf ps n) (ho : ¬ HasInf ps (!n)) (hs : a.m = 0 ∨ b.m = 0) :
    f.blockSum ps (some a) (some b) imp = (f.genNan 4, flNV) := by
  have one : ¬ (HasInf ps true ∧ HasInf ps false) ∧ (HasInf ps true ∨ HasInf ps false) := by
    cases n
    · exact ⟨fun both => ho both.1, Or.inr h⟩
    · exact ⟨fun both => ho both.2, Or.inl h⟩
  simp only [blockSum, any_isNan_iff, any_zeroTimesInf_iff, hn, hz, Bool.and_eq_true, Bool.or_eq_true, any_infProd_iff hz, one, hs, decide_eq_true_eq, if_false, if_true]

/-- The exact sum of the products. -/
def sumDy (ps : List (FV × FV)) : Dy := ps.foldl (fun (t : Dy) p => t.add (p.1.dy.mul p.2.dy)) Dy.zero

theorem FFmt.blockSum_fin (hn : ¬ HasNan ps) (hz : ¬ HasZeroInf ps) (h : ∀ n, ¬ HasInf ps n) :
    ∃ zs, f.blockSum ps (some a) (some b) imp = f.roundDy .rne (((sumDy ps).mul (a.mul b)).mul ⟨1, -(imp : Int)⟩) zs := by
  simp only [blockSum, any_isNan_iff, any_zeroTimesInf_iff, hn, hz, Bool.and_eq_true, Bool.or_eq_true, any_infProd_iff hz, h, if_false, or_self, and_self]
  exact ⟨_, rfl⟩

/-- The value of a product of finite elements. -/
def productQ (p : FV × FV) : Option ℚ := (fvQ p.1).bind fun x => (fvQ p.2).map fun y => x * y

theorem productQ_eq_some {p : FV × FV} {v : ℚ} (h : productQ p = some v) :
    (∃ s m e, p.1 = .fin s m e) ∧ (∃ s m e, p.2 = .fin s m e) ∧ (p.1.dy.mul p.2.dy).toRat = v := by
  obtain ⟨x, hx, h⟩ := Option.bind_eq_some_iff.1 h
  obtain ⟨y, hy, rfl⟩ := Option.map_eq_some_iff.1 h
  obtain ⟨fin1, rfl⟩ := fvQ_eq_some hx
  obtain ⟨fin2, rfl⟩ := fvQ_eq_some hy
  exact ⟨fin1, fin2, Dy.toRat_mul _ _⟩

theorem foldl_add_toRat (vs : List ℚ) (t : Dy) (h : ps.map productQ = vs.map some) :
    (ps.foldl (fun (t : Dy) p => t.add (p.1.dy.mul p.2.dy)) t).toRat = t.toRat + vs.sum := by
  induction ps generalizing vs t with
  | nil =>
    obtain rfl : vs = [] := List.map_eq_nil_iff.1 h.symm
    simp
  | cons p ps ih =>
    obtain ⟨v, vs, rfl, hv, hvs⟩ := List.map_eq_cons_iff.1 h.symm
    obtain ⟨-, -, hp⟩ := productQ_eq_some hv.symm
    rw [List.foldl_cons, ih vs _ hvs.symm, Dy.toRat_add, hp, List.sum_cons, add_assoc]

theorem sumDy_toRat {vs : List ℚ} (h : ps.map productQ = vs.map some) : (sumDy ps).toRat = vs.sum := by
  rw [sumDy, foldl_add_toRat vs _ h]
  simp [Dy.zero, Dy.toRat]

theorem finite_of_products {vs : List ℚ} (h : ps.map productQ = vs.map some) : ¬ HasNan ps ∧ ¬ HasZeroInf ps ∧ ∀ n, ¬ HasInf ps n := by
  have isFin (p : FV × FV) (hp : p ∈ ps) : (∃ s m e, p.1 = .fin s m e) ∧ ∃ s m e, p.2 = .fin s m e := by
    obtain ⟨v, -, hv⟩ := List.mem_map.1 (h ▸ List.mem_map_of_mem hp)
    obtain ⟨h1, h2, -⟩ := productQ_eq_some hv.symm
    exact ⟨h1, h2⟩
  refine ⟨fun ⟨p, hp, bad⟩ => ?_, fun ⟨p, hp, bad⟩ => ?_, fun n ⟨p, hp, bad, _⟩ => ?_⟩ <;>
    · obtain ⟨⟨s, m, e, h1⟩, s', m', e', h2⟩ := isFin p hp
      simp [h1, h2, FV.isNan] at bad

/-- The exact sum of finite products and finite scales is rounded once (R231). -/
theorem FFmt.blockSum_rounds {f : FFmt} (hf : f.IsIeee) {vs : List ℚ} (h : ps.map productQ = vs.map some) :
    Rounds f .rne (vs.sum * a.toRat * b.toRat / 2 ^ imp) (f.blockSum ps (some a) (some b) imp) := by
  obtain ⟨hn, hz, hi⟩ := finite_of_products h
  obtain ⟨zs, hs⟩ := f.blockSum_fin a b imp hn hz hi
  have value : (((sumDy ps).mul (a.mul b)).mul ⟨1, -(imp : Int)⟩).toRat = vs.sum * a.toRat * b.toRat / 2 ^ imp := by
    rw [Dy.toRat_mul, Dy.toRat_mul, Dy.toRat_mul, Dy.toRat_halvings, sumDy_toRat h]
    ring
  rw [hs, ← value]
  exact roundDy_rounds hf _ zs

/-! The accumulator's NaNs (R231, R232) -/

theorem FFmt.accum_nan_left {acc : Nat} (p : Nat) (h : (f.dec acc).isNan = true) : f.accum acc p = (acc, 0) := by
  unfold accum
  cases hacc : f.dec acc with
  | nan => rfl
  | inf => rw [hacc] at h; cases h
  | fin => rw [hacc] at h; cases h

theorem FFmt.accum_nan_right {acc p : Nat} (hacc : (f.dec acc).isNan = false) (h : (f.dec p).isNan = true) : f.accum acc p = (p, 0) := by
  unfold accum
  cases hp : f.dec p with
  | nan =>
    cases ha : f.dec acc with
    | nan => rw [ha] at hacc; cases hacc
    | inf => rfl
    | fin => rfl
  | inf => rw [hp] at h; cases h
  | fin => rw [hp] at h; cases h

theorem FFmt.accum_opposite_inf {f : FFmt} (hf : f.IsIeee) (n : Bool) :
    f.accum (f.withSign n f.infCode) (f.withSign (!n) f.infCode) = (f.genNan 3, flNV) := by
  simp [accum, dec_withSign_infCode hf]

end BlockSum

/-- Settles O26: the exact sum of a finite block through roundDy_rounds, its NaNs by one lemma for each branch of blockSum, the accumulator's by those of accum. -/
theorem blockSums : Obligations.BlockSums := by
  intro f ps vs a b imp hf32
  have hf : f.IsIeee := by
    rcases hf32 with rfl | rfl
    · exact FFmt.f32_isIeee
    · exact FFmt.f64_isIeee
  refine ⟨FFmt.blockSum_rounds a b imp hf, f.blockSum_nan a b imp, ⟨f.blockSum_nanScale imp _ _ (Or.inl rfl), f.blockSum_nanScale imp _ _ (Or.inr rfl)⟩,
    f.blockSum_zeroInf a b imp, fun hn hz pos neg => f.blockSum_inf a b imp hn hz ⟨pos, neg⟩,
    fun hn hz ⟨_, one, other⟩ hs => f.blockSum_infZeroScale a b imp hn hz one other hs,
    fun acc p n h => ⟨f.accum_nan_left p h, fun hp => f.accum_nan_right hp h, FFmt.accum_opposite_inf hf n⟩, ?_, ?_, ?_⟩
  · rcases hf32 with rfl | rfl <;> decide
  · decide
  · decide

end Sys2Proof
end

section
/-!
PROOFS. Integer arithmetic, moves, logic and shifts (R309, R311 to R315): the model's integers and naturals as bit vectors of the type's width, operands as bit vectors, and what the forms
un, bin and tern write.
-/

namespace Sys2Proof

open Machine

/-! Bit vectors as the integers of a type (R223, R311) -/

/-- The integer that n bits stand for, read as signed or unsigned. -/
def intOf (sgn : Bool) {n : Nat} (x : BitVec n) : Int := if sgn then x.toInt else x.toNat

section Values

variable {n : Nat} (sgn : Bool) (x y : BitVec n)

theorem signed_toNat : signed n x.toNat = x.toInt := by
  have half : x.toNat < 2 ^ (n - 1) ↔ 2 * x.toNat < 2 ^ n := by
    cases n with
    | zero => simp [BitVec.eq_nil x]
    | succ n => rw [Nat.pow_succ, Nat.add_sub_cancel]; omega
  simp only [signed, BitVec.toInt_eq_toNat_cond, Nat.mod_eq_of_lt x.isLt, half]

theorem wrap_eq_toNat_ofInt (z : Int) : wrap n z = (BitVec.ofInt n z).toNat := (BitVec.toNat_ofInt z).symm

theorem IntTy.val_toNat (t : IntTy) (x : BitVec t.bits) : t.val x.toNat = intOf t.sgn x := by
  rw [IntTy.val, intOf, signed_toNat, Nat.mod_eq_of_lt x.isLt]

@[simp] theorem ofInt_intOf : BitVec.ofInt n (intOf sgn x) = x := by
  cases sgn <;> simp [intOf]

/-! Sums, differences and products (R311, R313) -/

theorem ofInt_sub (a b : Int) : BitVec.ofInt n (a - b) = BitVec.ofInt n a - BitVec.ofInt n b := by
  rw [Int.sub_eq_add_neg, BitVec.ofInt_add, BitVec.ofInt_neg, BitVec.sub_eq_add_neg]

theorem ofInt_natAbs_toInt : BitVec.ofInt n x.toInt.natAbs = if x.msb then -x else x := by
  rw [BitVec.msb_eq_toInt, Int.natCast_natAbs]
  by_cases h : x.toInt < 0
  · simp [h, abs_of_neg h, BitVec.ofInt_neg]
  · simp [h, abs_of_nonneg (not_lt.mp h)]

theorem ofInt_highHalf : BitVec.ofInt n (intOf sgn x * intOf sgn y / ((2 ^ n : Nat) : Int)) = highHalf sgn x y := by
  cases sgn with
  | true => simp [intOf, highHalf]
  | false =>
    rw [highHalf, ← BitVec.ofInt_natCast]
    simp [intOf]

/-! Quotient and remainder (R312) -/

theorem intOf_eq_zero_iff : intOf sgn x = 0 ↔ x = 0 := by
  cases sgn with
  | true => simp [intOf, ← BitVec.toInt_inj]
  | false => simp [intOf, ← BitVec.toNat_inj]

theorem ofInt_intDiv : BitVec.ofInt n (intDiv (intOf sgn x) (intOf sgn y)) = quotient sgn x y := by
  unfold intDiv quotient
  by_cases hy : y = 0
  · rw [if_pos ((intOf_eq_zero_iff sgn y).mpr hy), if_pos hy, BitVec.ofInt_neg]
    exact BitVec.neg_one_eq_allOnes
  · rw [if_neg (mt (intOf_eq_zero_iff sgn y).mp hy), if_neg hy]
    cases sgn with
    | true => exact BitVec.eq_of_toInt_eq (by simp [intOf, BitVec.toInt_ofInt, BitVec.toInt_sdiv])
    | false =>
      simp only [intOf, Bool.false_eq_true, if_false, ← Int.ofNat_tdiv, BitVec.ofInt_natCast]
      exact BitVec.eq_of_toNat_eq (by simp [Nat.mod_eq_of_lt (lt_of_le_of_lt (Nat.div_le_self _ _) x.isLt)])

theorem ofInt_intRem : BitVec.ofInt n (intRem (intOf sgn x) (intOf sgn y)) = remainder sgn x y := by
  unfold intRem remainder
  by_cases hy : y = 0
  · rw [if_pos ((intOf_eq_zero_iff sgn y).mpr hy), if_pos hy, ofInt_intOf]
  · rw [if_neg (mt (intOf_eq_zero_iff sgn y).mp hy), if_neg hy]
    cases sgn with
    | true => simp [intOf, ← BitVec.toInt_srem]
    | false => simp [intOf, ← Int.ofNat_tmod, BitVec.ofInt_natCast, ← BitVec.toNat_umod]

/-! Order and saturation (R311) -/

theorem le_iff_intOf_le : (if sgn then x.sle y else x.ule y) = true ↔ intOf sgn x ≤ intOf sgn y := by
  cases sgn with
  | true => simp [intOf, BitVec.sle_iff_toInt_le]
  | false => simp [intOf, BitVec.ule_iff_toNat_le]

theorem intOf_lesser : intOf sgn (lesser sgn x y) = min (intOf sgn x) (intOf sgn y) := by
  unfold lesser
  rw [min_def, apply_ite (intOf sgn)]
  simp only [le_iff_intOf_le]

theorem intOf_greater : intOf sgn (greater sgn x y) = max (intOf sgn x) (intOf sgn y) := by
  unfold greater
  rw [max_def, apply_ite (intOf sgn)]
  simp only [le_iff_intOf_le]

theorem clampI_eq_max_min {lo hi : Int} (h : lo ≤ hi) (z : Int) : clampI lo hi z = max lo (min hi z) := by
  unfold clampI
  by_cases below : z < lo
  · rw [if_pos below]; omega
  · rw [if_neg below]; split <;> omega

theorem IntTy.ofInt_clampI (t : IntTy) (x y : BitVec t.bits) :
    BitVec.ofInt t.bits (clampI t.lo t.hi (intOf t.sgn x + intOf t.sgn y)) = saturated t.sgn x y := by
  have pos (k : Nat) : (0 : Int) < 2 ^ k := by positivity
  unfold IntTy.lo IntTy.hi saturated intOf
  cases t.sgn with
  | true =>
    have := pos (t.bits - 1)
    simp only [if_true]
    rw [clampI_eq_max_min (by push_cast; omega)]
    norm_cast
  | false =>
    have := pos t.bits
    simp only [Bool.false_eq_true, if_false]
    rw [clampI_eq_max_min (by push_cast; omega), ← BitVec.ofInt_natCast]
    congr 1
    push_cast [Nat.cast_sub (Nat.one_le_two_pow (n := t.bits))]
    omega

/-! Complement and shifts (R314) -/

theorem notN_toNat : notN n x.toNat = (~~~x).toNat := by
  rw [notN, BitVec.toNat_not, Nat.mod_eq_of_lt x.isLt]

theorem shlN_toNat (k : Nat) : shlN n x.toNat k = (x <<< k).toNat := by
  rw [shlN, BitVec.toNat_shiftLeft, Nat.shiftLeft_eq]
  split
  · rename_i h
    exact (Nat.mod_eq_zero_of_dvd (dvd_mul_of_dvd_right (pow_dvd_pow 2 h) _)).symm
  · rfl

theorem shrN_toNat (k : Nat) : shrN n x.toNat k = (x >>> k).toNat := by
  rw [shrN, BitVec.toNat_ushiftRight, Nat.mod_eq_of_lt x.isLt]
  split
  · rename_i h
    exact (Nat.shiftRight_eq_zero _ _ (lt_of_lt_of_le x.isLt (Nat.pow_le_pow_right two_pos h))).symm
  · rfl

/-- From a width's sign bit on, every count of an arithmetic shift gives the copies of the sign. -/
theorem toInt_ediv_two_pow {k : Nat} (h : n - 1 ≤ k) : x.toInt / ((2 ^ k : Nat) : Int) = if x.toInt < 0 then -1 else 0 := by
  have width : (2 : Int) ^ (n - 1) ≤ ((2 ^ k : Nat) : Int) := by exact_mod_cast Nat.pow_le_pow_right two_pos h
  have hi := BitVec.toInt_lt (x := x)
  have lo := BitVec.le_toInt x
  split
  · exact Int.ediv_eq_neg_one_of_neg_of_le ‹_› (by omega)
  · exact Int.ediv_eq_zero_of_lt (by omega) (by omega)

theorem sarN_toNat (k : Nat) : sarN n x.toNat k = (x.sshiftRight k).toNat := by
  rw [sarN, signed_toNat, wrap_eq_toNat_ofInt, ← BitVec.ofInt_toInt (x := x.sshiftRight k), BitVec.toInt_sshiftRight, Int.shiftRight_eq_div_pow]
  congr 2
  rcases Nat.le_total k (n - 1) with h | h
  · rw [show Nat.min k (n - 1) = k from Nat.min_eq_left h]
  · rw [show Nat.min k (n - 1) = n - 1 from Nat.min_eq_right h, toInt_ediv_two_pow x le_rfl, toInt_ediv_two_pow x h]

theorem rotN_toNat (k : Nat) : rotN n x.toNat k = (x.rotateLeft k).toNat := by
  rcases n.eq_zero_or_pos with rfl | hn
  · simp [rotN, Nat.mod_one, BitVec.eq_nil x]
  · have hk : k % n ≤ n := (Nat.mod_lt k hn).le
    have high : x.toNat >>> (n - k % n) < 2 ^ (k % n) := by
      rw [Nat.shiftRight_eq_div_pow]
      exact Nat.div_lt_of_lt_mul (by rw [← pow_add, Nat.sub_add_cancel hk]; exact x.isLt)
    rw [rotN, BitVec.toNat_rotateLeft, Nat.mod_eq_of_lt x.isLt, ← Nat.shiftLeft_eq, ← Nat.shiftRight_eq_div_pow, Nat.shiftLeft_add_eq_or_of_lt high, Nat.or_mod_two_pow,
      Nat.mod_eq_of_lt (lt_of_lt_of_le high (Nat.pow_le_pow_right two_pos hk))]

end Values

/-! The results of the model as bit vectors -/

/-- A two-source result (R311) is the bit vector r if r is what the exact integer leaves in the type's width. -/
theorem IntTy.bin_toNat {t : IntTy} {f : Int → Int → Int} {x y r : BitVec t.bits} (h : BitVec.ofInt t.bits (f (intOf t.sgn x) (intOf t.sgn y)) = r) :
    t.bin f x.toNat y.toNat = r.toNat := by
  rw [IntTy.bin, t.val_toNat, t.val_toNat, wrap_eq_toNat_ofInt, h]

theorem IntTy.bin_min (t : IntTy) (x y : BitVec t.bits) : t.bin (fun a b => if a ≤ b then a else b) x.toNat y.toNat = (lesser t.sgn x y).toNat :=
  IntTy.bin_toNat (by rw [← min_def, ← intOf_lesser, ofInt_intOf])

theorem IntTy.bin_max (t : IntTy) (x y : BitVec t.bits) : t.bin (fun a b => if a ≤ b then b else a) x.toNat y.toNat = (greater t.sgn x y).toNat :=
  IntTy.bin_toNat (by rw [← max_def, ← intOf_greater, ofInt_intOf])

theorem IntTy.wrap_mad (t : IntTy) (x y z : BitVec t.bits) : wrap t.bits (t.val x.toNat * t.val y.toNat + t.val z.toNat) = (x * y + z).toNat := by
  simp only [t.val_toNat, wrap_eq_toNat_ofInt, BitVec.ofInt_add, BitVec.ofInt_mul, ofInt_intOf]

theorem IntTy.wrap_clamp (t : IntTy) (x y z : BitVec t.bits) :
    wrap t.bits (min (max (t.val x.toNat) (t.val y.toNat)) (t.val z.toNat)) = (lesser t.sgn (greater t.sgn x y) z).toNat := by
  simp only [t.val_toNat, wrap_eq_toNat_ofInt, ← intOf_greater, ← intOf_lesser, ofInt_intOf]

theorem IntTy.wrap_neg (t : IntTy) (x : BitVec t.bits) : wrap t.bits (0 - t.val x.toNat) = (-x).toNat := by
  rw [t.val_toNat, wrap_eq_toNat_ofInt, Int.zero_sub, BitVec.ofInt_neg, ofInt_intOf]

theorem IntTy.wrap_abs {t : IntTy} (h : t.sgn = true) (x : BitVec t.bits) : wrap t.bits (t.val x.toNat).natAbs = (if x.msb then -x else x).toNat := by
  rw [t.val_toNat, wrap_eq_toNat_ofInt, h, intOf, if_pos rfl, ofInt_natAbs_toInt]

/-! The width and the extension of a result (R267, R295) -/

/-- What a scalar register takes by e of a result of n bits is its extension by the sign or by zeros. -/
structure Ext.Fits (e : Ext) (n : Nat) (sgn : Bool) : Prop where
  width : n = if e.is64 then 64 else 32
  sign  : sgn = true ↔ e = .sx32 ∨ (e = .w64 ∧ sgn)

theorem Ext.Fits.eq_64 {e : Ext} {n : Nat} {sgn : Bool} (h : e.Fits n sgn) : (n == 64) = e.is64 := by
  rw [h.width]
  cases e.is64 <;> rfl

theorem IntTy.fits (t : IntTy) : t.ext.Fits t.bits t.sgn := by cases t <;> exact ⟨rfl, by decide⟩

theorem BitTy.fits (t : BitTy) : t.ext.Fits t.bits false := by cases t <;> exact ⟨rfl, by decide⟩

theorem immExt_toNat {e : Ext} {n : Nat} {sgn : Bool} (h : e.Fits n sgn) (imm : BitVec 32) : immExt e imm = (imm.signExtend n).toNat := by
  rw [immExt, ← h.width, signed_toNat, wrap_eq_toNat_ofInt, BitVec.signExtend]

/-! Operands as bit vectors (R267, R268, R295) -/

theorem Machine.Lane.dget_lt (l : Lane) (k : Nat) : l.dget k < 2 ^ 64 := by
  unfold Lane.dget
  have := (l.vget k).isLt
  have := (l.vget (k + 1)).isLt
  omega

theorem Machine.rdReg_lt (w : Warp) (l : Lane) (w64 : Bool) (a : Reg) : rdReg w l w64 a < 2 ^ (if w64 then 64 else 32) := by
  cases a with
  | v k => cases w64 with
    | true => exact l.dget_lt _
    | false => exact (l.vget _).isLt
  | s k => cases w64 with
    | true => exact (w.sget _).isLt
    | false => exact Nat.mod_lt _ (by decide)

theorem Machine.rdSrc_lt (w : Warp) (l : Lane) (w64 : Bool) (a : Src) : rdSrc w l w64 a < 2 ^ (if w64 then 64 else 32) := by
  cases a with
  | v k => exact rdReg_lt w l w64 (.v k)
  | s k => exact rdReg_lt w l w64 (.s k)
  | imm k => cases w64 with
    | true => exact (wrap_eq_toNat_ofInt (n := 64) _).trans_lt (BitVec.isLt _)
    | false => exact (wrap_eq_toNat_ofInt (n := 32) _).trans_lt (BitVec.isLt _)

theorem rdSrc_eq_opd {e : Ext} {n : Nat} {sgn : Bool} (h : e.Fits n sgn) (w : Warp) (l : Lane) (a : Src) : Machine.rdSrc w l e.is64 a = (opd w l n a).toNat := by
  have lt := rdSrc_lt w l e.is64 a
  rw [← h.width] at lt
  rw [opd, h.eq_64, BitVec.toNat_ofNat, Nat.mod_eq_of_lt lt]

theorem rdReg_eq_ropd (w : Warp) (l : Lane) (a : Reg) : Machine.rdReg w l true a = (ropd w l 64 a).toNat := by
  have lt : Machine.rdReg w l (64 == 64) a < 2 ^ 64 := rdReg_lt w l true a
  rw [ropd, BitVec.toNat_ofNat, Nat.mod_eq_of_lt lt]
  rfl

/-! The forms un, bin and tern -/

section Forms

variable {i : Instr} {s : State} {w : Warp} {g : Guard} {e : Ext} {n : Nat} {sgn : Bool} {d : Reg} {a b c : Src}

/-- A word whose meaning o computes its result lane by lane, or once for its group. The meaning is named on its own, so that neither equation has to search the dispatch of exec. -/
theorem does_compute {f : Warp → Lane → Nat} {val : Lane → BitVec n} (fits : e.Fits n sgn) (o : Out) (meaning : exec i s = o)
    (form : o = word i s fun w => compute0 s w g d e (f w)) (hv : ∀ l, f w l = (val l).toNat) : Does s w i g d sgn val := fun h =>
  compute0_writes h.there ((meaning.trans form).trans (word_next h _)) sgn val fits.width fits.sign hv

theorem does_un {f : Nat → Nat} {F : BitVec n → BitVec n} (fits : e.Fits n sgn) (o : Out) (meaning : exec i s = o) (form : o = un i s g e d a f)
    (hf : ∀ x : BitVec n, f x.toNat = (F x).toNat) : Does s w i g d sgn fun l => F (opd w l n a) :=
  does_compute fits o meaning form fun l => by rw [rdSrc_eq_opd fits, hf]

theorem does_bin {f : Nat → Nat → Nat} {F : BitVec n → BitVec n → BitVec n} (fits : e.Fits n sgn) (o : Out) (meaning : exec i s = o) (form : o = bin i s g e d a b f)
    (hf : ∀ x y : BitVec n, f x.toNat y.toNat = (F x y).toNat) : Does s w i g d sgn fun l => F (opd w l n a) (opd w l n b) :=
  does_compute fits o meaning form fun l => by rw [rdSrc_eq_opd fits, rdSrc_eq_opd fits, hf]

theorem does_tern {f : Nat → Nat → Nat → Nat} {F : BitVec n → BitVec n → BitVec n → BitVec n} (fits : e.Fits n sgn) (o : Out) (meaning : exec i s = o)
    (form : o = tern i s g e d a b c f) (hf : ∀ x y z : BitVec n, f x.toNat y.toNat z.toNat = (F x y z).toNat) :
    Does s w i g d sgn fun l => F (opd w l n a) (opd w l n b) (opd w l n c) :=
  does_compute fits o meaning form fun l => by rw [rdSrc_eq_opd fits, rdSrc_eq_opd fits, rdSrc_eq_opd fits, hf]

end Forms

/-! Arithmetic (R311 to R313, R315) -/

section Arithmetic

variable (s : State) (w : Warp) (g : Guard) (t : IntTy) (d : Reg) (a : Src)

/-- No word is an abs of an unsigned type (R313). -/
theorem IntTy.sgn_of_wf_abs {g : Guard} {t : IntTy} {d : Reg} {a : Src} (h : (Instr.abs g t d a).wf = true) : t.sgn = true := by
  cases t with
  | i32 => rfl
  | i64 => rfl
  | n32 => simp [Instr.wf] at h
  | n64 => simp [Instr.wf] at h

theorem does_abs (signed : t.sgn = true) : Does s w (.abs g t d a) g d t.sgn fun l => if (opd w l t.bits a).msb then -opd w l t.bits a else opd w l t.bits a :=
  does_un (F := fun x => if x.msb then -x else x) t.fits (execAbs g t d a s) rfl rfl (IntTy.wrap_abs signed)

theorem does_addi (imm : BitVec 32) : Does s w (.addi g t d a imm) g d t.sgn fun l => opd w l t.bits a + imm.signExtend t.bits := by
  refine does_un (F := fun x => x + imm.signExtend t.bits) t.fits (execAddi g t d a imm s) rfl rfl fun x => ?_
  rw [immExt_toNat t.fits]
  exact IntTy.bin_toNat (by rw [BitVec.ofInt_add, ofInt_intOf, ofInt_intOf])

end Arithmetic

/-! Moves (R309) -/

section Moves

variable (s : State) (w : Warp) (g : Guard) (d : Reg) (imm : BitVec 32)

theorem does_movi_b32 : Does s w (.movi g .b32 d imm) g d false fun _ => imm :=
  does_compute (BitTy.fits .b32) (execMovi g .b32 d imm s) rfl rfl fun _ => rfl

theorem does_movi_i64 : Does s w (.movi g .i64 d imm) g d false fun _ => imm.signExtend 64 :=
  does_compute (BitTy.fits .b64) (execMovi g .i64 d imm s) rfl rfl fun _ => immExt_toNat (BitTy.fits .b64) imm

theorem does_movi_n64 : Does s w (.movi g .n64 d imm) g d false fun _ => imm.setWidth 64 :=
  does_compute (BitTy.fits .b64) (execMovi g .n64 d imm s) rfl rfl fun _ => (BitVec.toNat_setWidth_of_le (by decide)).symm

theorem does_movih : Does s w (.movih g d imm) g d false fun l => imm ++ (ropd w l 64 d).setWidth 32 := by
  refine does_compute (BitTy.fits .b64) (execMovih g d imm s) rfl rfl fun l => ?_
  rw [rdReg_eq_ropd, BitVec.toNat_append, BitVec.toNat_setWidth, ← Nat.shiftLeft_add_eq_or_of_lt (Nat.mod_lt _ (by decide)), Nat.shiftLeft_eq, Nat.add_comm]

end Moves

/-- Settles O1: each word is of one of the forms un, bin and tern or a move, and the value it computes is the one of the bit vectors. -/
theorem arithmeticLogicShifts : Obligations.ArithmeticLogicShifts := by
  refine ⟨fun s w g t d a b c imm => ⟨?add, ?sub, ?mul, ?mulhi, ?mad, ?div, ?rem, ?min, ?max, ?addsat, ?clamp, ?abs, ?neg, ?addi⟩,
    fun s w g t d a b imm => ⟨?mov, ?movi32, ?movi64, ?movin, ?movih, ?and, ?or, ?xor, ?not, ?andn, ?shl, ?shr, ?sar, ?rot, ?andi, ?ori, ?xori, ?shli, ?shri, ?sari⟩⟩
  case add => exact does_bin (F := (· + ·)) t.fits (execAdd g t d a b s) rfl rfl fun x y => IntTy.bin_toNat (by rw [BitVec.ofInt_add, ofInt_intOf, ofInt_intOf])
  case sub => exact does_bin (F := (· - ·)) t.fits (execSub g t d a b s) rfl rfl fun x y => IntTy.bin_toNat (by rw [ofInt_sub, ofInt_intOf, ofInt_intOf])
  case mul => exact does_bin (F := (· * ·)) t.fits (execMul g t d a b s) rfl rfl fun x y => IntTy.bin_toNat (by rw [BitVec.ofInt_mul, ofInt_intOf, ofInt_intOf])
  case mulhi => exact does_bin t.fits (execMulhi g t d a b s) rfl rfl fun x y => IntTy.bin_toNat (ofInt_highHalf t.sgn x y)
  case mad => exact does_tern (F := fun x y z => x * y + z) t.fits (execMad g t d a b c s) rfl rfl t.wrap_mad
  case div => exact does_bin t.fits (execDiv g t d a b s) rfl rfl fun x y => IntTy.bin_toNat (ofInt_intDiv t.sgn x y)
  case rem => exact does_bin t.fits (execRem g t d a b s) rfl rfl fun x y => IntTy.bin_toNat (ofInt_intRem t.sgn x y)
  case min => exact does_bin t.fits (execMin g t d a b s) rfl rfl t.bin_min
  case max => exact does_bin t.fits (execMax g t d a b s) rfl rfl t.bin_max
  case addsat => exact does_bin t.fits (execAddsat g t d a b s) rfl rfl fun x y => IntTy.bin_toNat (t.ofInt_clampI x y)
  case clamp => exact does_tern (F := fun x y z => lesser t.sgn (greater t.sgn x y) z) t.fits (execClamp g t d a b c s) rfl rfl t.wrap_clamp
  case abs => exact fun h => does_abs s w g t d a (IntTy.sgn_of_wf_abs h.wf) h
  case neg => exact does_un t.fits (execNeg g t d a s) rfl rfl t.wrap_neg
  case addi => exact does_addi s w g t d a imm
  case mov => exact does_un (F := id) t.fits (execMov g t d a s) rfl rfl fun _ => rfl
  case movi32 => exact does_movi_b32 s w g d imm
  case movi64 => exact does_movi_i64 s w g d imm
  case movin => exact does_movi_n64 s w g d imm
  case movih => exact does_movih s w g d imm
  case and => exact does_bin (F := (· &&& ·)) t.fits (execAnd g t d a b s) rfl rfl fun x y => (BitVec.toNat_and x y).symm
  case or => exact does_bin (F := (· ||| ·)) t.fits (execOr g t d a b s) rfl rfl fun x y => (BitVec.toNat_or x y).symm
  case xor => exact does_bin (F := (· ^^^ ·)) t.fits (execXor g t d a b s) rfl rfl fun x y => (BitVec.toNat_xor x y).symm
  case not => exact does_un t.fits (execNot g t d a s) rfl rfl notN_toNat
  case andn => exact does_bin (F := fun x y => x &&& ~~~y) t.fits (execAndn g t d a b s) rfl rfl fun x y => by rw [notN_toNat, BitVec.toNat_and]
  case shl => exact does_bin (F := fun x y => x <<< (y.toNat % 2 ^ 32)) t.fits (execShl g t d a b s) rfl rfl fun x _ => shlN_toNat x _
  case shr => exact does_bin (F := fun x y => x >>> (y.toNat % 2 ^ 32)) t.fits (execShr g t d a b s) rfl rfl fun x _ => shrN_toNat x _
  case sar => exact does_bin (F := fun x y => x.sshiftRight (y.toNat % 2 ^ 32)) t.fits (execSar g t d a b s) rfl rfl fun x _ => sarN_toNat x _
  case rot => exact does_bin (F := fun x y => x.rotateLeft (y.toNat % 2 ^ 32)) t.fits (execRot g t d a b s) rfl rfl fun x _ => rotN_toNat x _
  case andi => exact does_un (F := (· &&& imm.signExtend t.bits)) t.fits (execAndi g t d a imm s) rfl rfl fun x => by rw [immExt_toNat t.fits, BitVec.toNat_and]
  case ori => exact does_un (F := (· ||| imm.signExtend t.bits)) t.fits (execOri g t d a imm s) rfl rfl fun x => by rw [immExt_toNat t.fits, BitVec.toNat_or]
  case xori => exact does_un (F := (· ^^^ imm.signExtend t.bits)) t.fits (execXori g t d a imm s) rfl rfl fun x => by rw [immExt_toNat t.fits, BitVec.toNat_xor]
  case shli => exact does_un (F := (· <<< imm.toNat)) t.fits (execShli g t d a imm s) rfl rfl fun x => shlN_toNat x _
  case shri => exact does_un (F := (· >>> imm.toNat)) t.fits (execShri g t d a imm s) rfl rfl fun x => shrN_toNat x _
  case sari => exact does_un (F := (·.sshiftRight imm.toNat)) t.fits (execSari g t d a imm s) rfl rfl fun x => sarN_toNat x _

end Sys2Proof
end

section
/-!
PROOFS. Floating-point instructions (R325 to R334): lanes and groups that act and raise flags none of which is enabled, results kept to the width of their type, and what compute, compute0
and fsetp write.
-/

namespace Sys2Proof

open Machine

/-! Acting with flags, none of them enabled (R234, R237, R326) -/

theorem Machine.Warp.traps_eq_false_iff (w : Warp) (fl : Nat) : w.traps fl = false ↔ bits w.fstat.toNat 8 5 &&& fl = 0 := by simp [Warp.traps]

/-- The fates of the lanes that do not pass the guard do not matter. -/
theorem Machine.lanewise_congr {s : State} {w : Warp} {g : Guard} {p q : Nat → Lane → Fate} (h : ∀ k ∈ w.passing g, p k (w.lane k) = q k (w.lane k)) :
    lanewise s w g p = lanewise s w g q := by
  unfold lanewise
  refine congrArg (applyFates s w) (List.map_congr_left fun k front => ?_)
  split
  · rename_i passes
    rw [h k (Warp.mem_passing.2 ⟨front, passes⟩)]
  · rfl

theorem stepped_congr {w w' : Warp} (lanes : w'.lanes = w.lanes) (front : w'.front = w.front) (g : Guard) (f : Nat → Lane → Lane) : stepped w' g f = stepped w g f := by
  funext k
  have lane : w'.lane k = w.lane k := by rw [Warp.lane, Warp.lane, lanes]
  rw [stepped, stepped, front, lane]

theorem Machine.Warp.sset_raise (w : Warp) (n : Nat) (x : Word) (fl : Nat) :
    (w.sset n x).raise fl = { w with sreg := putS w.sreg n x, fstat := raised w.fstat [fl] } := by
  by_cases h : n = 0 <;> simp [Warp.sset, putS, Warp.raise, raised, h]

section Flags

variable {i : Instr} {s : State} {w : Warp} {g : Guard}

/-- A group left with other scalars and flags, its front past the word. -/
theorem left_done_completes {sreg : List Word} {fstat : Word32} (g : Guard) (there : s.warp? w.agent = some w)
    (hx : exec i s = .next (s.setWarp ({ w with sreg := sreg, fstat := fstat } : Warp).done)) : Completes s w i sreg fstat (stepped w g fun _ l => l) := by
  have effect := ({ w with sreg := sreg, fstat := fstat } : Warp).done_effect g
  rw [stepped_congr (w := w) (w' := { w with sreg := sreg, fstat := fstat }) rfl (Warp.front_congr rfl rfl rfl rfl)] at effect
  exact setWarp_completes there (by rw [effect.rest]) hx ⟨effect.rest, effect.count, effect.lanes⟩

/-- Lane by lane: an instruction that would trap the lanes with an enabled flag completes where no passing lane raises one. -/
theorem lanewise_flags_completes {f : Nat → Lane → Lane} {fl : Nat → Lane → Nat} {x : Trap} (there : s.warp? w.agent = some w)
    (quiet : ∀ k ∈ w.passing g, bits w.fstat.toNat 8 5 &&& fl k (w.lane k) = 0)
    (hx : exec i s = .next (lanewise s w g fun k l => if w.traps (fl k l) then .trap x else .done (f k l) (fl k l))) :
    Completes s w i w.sreg (raised w.fstat ((w.passing g).map fun k => fl k (w.lane k))) (stepped w g f) := by
  obtain ⟨w', put, only, effect⟩ := lanewise_effect there g f fl
  rw [raised_passing w g fun k => fl k (w.lane k)] at effect
  have calm : ∀ k ∈ w.passing g, (if w.traps (fl k (w.lane k)) then Fate.trap x else .done (f k (w.lane k)) (fl k (w.lane k))) = .done (f k (w.lane k)) (fl k (w.lane k)) :=
    fun k hk => by rw [(w.traps_eq_false_iff _).2 (quiet k hk)]; rfl
  exact ⟨_, w', by rw [hx, lanewise_congr (q := fun k l => .done (f k l) (fl k l)) calm, put], only, effect⟩

/-- Once for the group: an instruction that would trap the front with an enabled flag completes, with a scalar written and the flags raised if a front lane passes. -/
theorem sset_raise_completes {n fl : Nat} {x : Word} {u : State} (there : s.warp? w.agent = some w)
    (quiet : (w.passing g).isEmpty = false → bits w.fstat.toNat 8 5 &&& fl = 0)
    (hx : exec i s = .next (if (w.passing g).isEmpty then s.setWarp w.done else if w.traps fl then u else s.setWarp ((w.sset n x).raise fl).done)) :
    Completes s w i (if (w.passing g).isEmpty then w.sreg else putS w.sreg n x) (if (w.passing g).isEmpty then w.fstat else raised w.fstat [fl])
      (stepped w g fun _ l => l) := by
  cases empty : (w.passing g).isEmpty with
  | true =>
    rw [empty, if_pos rfl] at hx
    exact done_completes g there hx
  | false =>
    rw [empty, (w.traps_eq_false_iff fl).2 (quiet empty), w.sset_raise] at hx
    exact left_done_completes g there hx

end Flags

/-! A result kept to the width of its type (R267, R295, R325) -/

theorem FTy.fits (t : FTy) : t.ext.Fits (fwidth t) false := by cases t <;> exact ⟨rfl, by decide⟩

theorem Ext.zx32_fits : Ext.zx32.Fits 32 false := ⟨rfl, by decide⟩

theorem signed_eq_toInt_ofNat (n r : Nat) : signed n r = (BitVec.ofNat n r).toInt := by
  rw [← signed_toNat, BitVec.toNat_ofNat, signed, signed, Nat.mod_mod]

theorem ofNat_low {m n : Nat} (h : m ≤ n) (r : Nat) : BitVec.ofNat m (r % 2 ^ n) = BitVec.ofNat m r :=
  BitVec.eq_of_toNat_eq (by rw [BitVec.toNat_ofNat, BitVec.toNat_ofNat, Nat.mod_mod_of_dvd r (pow_dvd_pow 2 h)])

/-- The upper register of a pair takes bits [63:32]. -/
theorem ofNat_high (r : Nat) : BitVec.ofNat 32 (r % 2 ^ 64 / 2 ^ 32) = BitVec.ofNat 32 (r / 2 ^ 32) := by
  rw [show r % 2 ^ 64 / 2 ^ 32 = r / 2 ^ 32 % 2 ^ 32 by omega, ofNat_low le_rfl]

section Width

variable {e : Ext} {n : Nat} {sgn : Bool}

theorem Ext.Fits.put_ofNat (h : e.Fits n sgn) (l : Lane) (d : BitVec 8) (r : Nat) : l.put e d r = l.withV (n == 64) d.toNat (BitVec.ofNat n r).toNat := by
  have width := h.width
  rw [put_eq_withV, h.eq_64, BitVec.toNat_ofNat, Lane.withV, Lane.withV, putV, putV]
  cases long : e.is64 with
  | true =>
    obtain rfl : n = 64 := by rw [width, long]; rfl
    rw [if_pos rfl, if_pos rfl, ofNat_low (by decide), ofNat_high]
  | false =>
    obtain rfl : n = 32 := by rw [width, long]; rfl
    rw [if_neg Bool.false_ne_true, if_neg Bool.false_ne_true, ofNat_low le_rfl]

theorem Ext.Fits.word_ofNat (h : e.Fits n sgn) (r : Nat) :
    e.word r = if sgn then (BitVec.ofNat n r).signExtend 64 else (BitVec.ofNat n r).setWidth 64 := by
  cases e with
  | w64 =>
    obtain rfl : n = 64 := h.width
    simp [Ext.word]
  | zx32 =>
    obtain rfl : n = 32 := h.width
    obtain rfl : sgn = false := by simpa using h.sign
    apply BitVec.eq_of_toNat_eq
    simp [Ext.word]
  | sx32 =>
    obtain rfl : n = 32 := h.width
    obtain rfl : sgn = true := h.sign.2 (.inl rfl)
    rw [Ext.word, signed_eq_toInt_ofNat, if_pos rfl, BitVec.signExtend]

end Width

/-! The forms in which floating-point instructions act -/

section Results

variable {i : Instr} {s : State} {w : Warp} {g : Guard} {e : Ext} {n : Nat} {sgn : Bool} {d : Reg}

/-- A result with flags, computed lane by lane or once for the group. -/
theorem compute_writesF (fits : e.Fits n sgn) {f : Lane → Nat × Nat} (there : s.warp? w.agent = some w) (hx : exec i s = .next (compute s w g d e f)) :
    WritesF s w i g d sgn (fun l => BitVec.ofNat n (f l).1) fun l => (f l).2 := by
  cases d with
  | v r =>
    intro quiet
    simp only [compute, fits.put_ofNat] at hx
    exact lanewise_flags_completes (f := fun _ l => l.withV (n == 64) r.toNat (BitVec.ofNat n (f l).1).toNat) (fl := fun _ l => (f l).2) there quiet hx
  | s r =>
    intro quiet
    simp only [compute, fits.word_ofNat] at hx
    exact sset_raise_completes there quiet hx

/-- A result that raises no flag is one that raises the flags 0. -/
theorem Machine.compute_flagless (f : Lane → Nat) : compute s w g d e (fun l => (f l, 0)) = compute0 s w g d e f := by
  have calm : w.traps 0 = false := (w.traps_eq_false_iff 0).2 (Nat.and_zero _)
  cases d with
  | v r => simp [compute, compute0, calm]
  | s r =>
    have raise0 : ∀ u : Warp, u.raise 0 = u := fun u => by simp [Warp.raise]
    simp only [compute, compute0, calm, groupwise, raise0]
    split <;> rfl

theorem WritesF.writes_of_flagless {val : Lane → BitVec n} (h : WritesF s w i g d sgn val fun _ => 0) : Writes s w i g d sgn val := by
  cases d with
  | v r =>
    have written := h fun _ _ => Nat.and_zero _
    rwa [raised_zeros] at written
  | s r =>
    have written := h fun _ => Nat.and_zero _
    have unraised : raised w.fstat [0] = w.fstat := raised_zeros w.fstat [0]
    rwa [unraised, ite_self] at written

/-- A word whose meaning o computes a result with flags. As in does_compute, the meaning is named on its own. -/
theorem doesF_compute {f : Warp → Lane → Nat × Nat} {val : Lane → Nat × Nat} (fits : e.Fits n sgn) (o : Out) (meaning : exec i s = o)
    (form : o = word i s fun w => compute s w g d e (f w)) (hv : ∀ l, f w l = val l) : DoesF s w i g d n val sgn := fun h => by
  rw [← funext hv]
  exact compute_writesF fits h.there ((meaning.trans form).trans (word_next h _))

theorem DoesF.does_of_flagless {f : Lane → Nat} (h : DoesF s w i g d n (fun l => (f l, 0)) sgn) : Does s w i g d sgn fun l => BitVec.ofNat n (f l) :=
  fun issues => (h issues).writes_of_flagless

/-- A word whose meaning o computes a result that raises no flag, kept to the width of its type. -/
theorem does_compute_ofNat {f : Warp → Lane → Nat} {val : Lane → Nat} (fits : e.Fits n sgn) (o : Out) (meaning : exec i s = o)
    (form : o = word i s fun w => compute0 s w g d e (f w)) (hv : ∀ l, f w l = val l) : Does s w i g d sgn fun l => BitVec.ofNat n (val l) :=
  (doesF_compute (f := fun w l => (f w l, 0)) fits o meaning (by simpa only [compute_flagless] using form) fun l => by rw [hv]).does_of_flagless

end Results

/-! Operands, signs, comparisons -/

section Instructions

variable (s : State) (w : Warp) (g : Guard) (t : FTy)

theorem signed_rdSrc (l : Lane) (b : Src) : signed 32 (Machine.rdSrc w l false b) = (opd w l 32 b).toInt := by
  rw [show Machine.rdSrc w l false b = (opd w l 32 b).toNat from rdSrc_eq_opd Ext.zx32_fits w l b, signed_toNat]

/-- The pair of elements that fdot2 reads (R328; a small immediate by log entry 95), said through any function with the values of its three cases, so that a match written out elsewhere may stand for it. -/
theorem rdPair_eq {w : Warp} {l : Lane} {f : FFmt} {pair : Src → Nat} (imm : ∀ k, pair (.imm k) = immF f k) (v : ∀ k, pair (.v k) = (opd w l 32 (.v k)).toNat)
    (sc : ∀ k, pair (.s k) = (opd w l 32 (.s k)).toNat) (a : Src) : rdPair w l f a = pair a := by
  cases a with
  | imm k => exact (imm k).symm
  | v k => exact (rdSrc_eq_opd Ext.zx32_fits w l (.v k)).trans (v k).symm
  | s k => exact (rdSrc_eq_opd Ext.zx32_fits w l (.s k)).trans (sc k).symm

/-- An exclusive or with a power of two inverts one bit. -/
theorem xor_two_pow_of_lt {k m : Nat} (h : m < 2 ^ (k + 1)) : m ^^^ 2 ^ k = if bit m k then m - 2 ^ k else m + 2 ^ k := by
  have parts := Nat.div_add_mod (m ^^^ 2 ^ k) (2 ^ k)
  have whole := Nat.div_add_mod m (2 ^ k)
  rw [Nat.xor_div_two_pow, Nat.xor_mod_two_pow, Nat.div_self (Nat.two_pow_pos k), Nat.mod_self, Nat.xor_zero] at parts
  have high : m / 2 ^ k < 2 := Nat.div_lt_of_lt_mul (by rwa [← Nat.pow_succ])
  simp only [bit, bits, Nat.shiftRight_eq_div_pow]
  rcases Nat.le_one_iff_eq_zero_or_eq_one.1 (Nat.le_of_lt_succ high) with zero | one
  · rw [zero] at parts whole ⊢
    rw [Nat.zero_xor] at parts
    rw [if_neg (by decide)]
    omega
  · rw [one] at parts whole ⊢
    rw [Nat.xor_self] at parts
    rw [if_pos (by decide)]
    omega

/-- Inverting the sign of a code leaves every other bit (R330). -/
theorem FFmt.flip_eq_xor (f : FFmt) (x : Nat) : f.flip x = x % (2 * f.signBit) ^^^ f.signBit := by
  rw [FFmt.signBit, ← Nat.pow_succ', xor_two_pow_of_lt (Nat.mod_lt x (Nat.two_pow_pos _))]
  rfl

theorem does_fneg (d : Reg) (a : Src) : Does s w (.fneg g t d a) g d false fun l =>
    BitVec.ofNat (fwidth t) (rdF w l t a % (2 * t.fmt.signBit)) ^^^ BitVec.ofNat (fwidth t) t.fmt.signBit := by
  simp only [← BitVec.ofNat_xor, ← FFmt.flip_eq_xor]
  exact (doesF_compute t.fits (execFneg g t d a s) rfl rfl fun _ => rfl).does_of_flagless

/-- A comparison and its combination (R331), where no passing lane raises an enabled flag. -/
theorem fsetp_completes (c : CondF) (k : Comb) (p : BitVec 3) (a b : Src) (h : Issues s w (.fsetp g c k t p a b))
    (quiet : ∀ j ∈ w.passing g, bits w.fstat.toNat 8 5 &&& (t.fmt.cmp c (rdF w (w.lane j) t a) (rdF w (w.lane j) t b)).2 = 0) :
    Completes s w (.fsetp g c k t p a b) w.sreg (raised w.fstat ((w.passing g).map fun j => (t.fmt.cmp c (rdF w (w.lane j) t a) (rdF w (w.lane j) t b)).2))
      (stepped w g fun _ l => l.setPred p (k.eval l.pred (t.fmt.cmp c (rdF w l t a) (rdF w l t b)).1)) :=
  have meaning : exec (.fsetp g c k t p a b) s = execFsetp g c k t p a b s := rfl
  lanewise_flags_completes (f := fun _ l => l.setPred p (k.eval l.pred (t.fmt.cmp c (rdF w l t a) (rdF w l t b)).1))
    (fl := fun _ l => (t.fmt.cmp c (rdF w l t a) (rdF w l t b)).2) h.there quiet (meaning.trans (word_next h _))

end Instructions

/-- Settles O4: each word writes by compute or compute0 what its operation gives, fneg as an exclusive or with the sign bit, and fsetp a predicate; a small immediate of fdot2 is element 0 beside a zero, the model's reading (log entry 95). -/
theorem floatResults : Obligations.FloatResults := by
  intro s w g t r d a b c nan x
  refine ⟨?fadd, ?fsub, ?fmul, ?fma, ?fdiv, ?fmin, ?fmax, ?frnd, ?fscale, ?fabs, ?fneg, ?fclass, ?fmovi, ?fdot2, ?fsetp⟩
  case fadd => exact doesF_compute t.fits (execFadd g t r d a b s) rfl rfl fun _ => rfl
  case fsub => exact doesF_compute t.fits (execFsub g t r d a b s) rfl rfl fun _ => rfl
  case fmul => exact doesF_compute t.fits (execFmul g t r d a b s) rfl rfl fun _ => rfl
  case fma => exact doesF_compute t.fits (execFma g t r d a b c s) rfl rfl fun _ => rfl
  case fdiv => exact doesF_compute t.fits (execFdiv g t r d a b s) rfl rfl fun _ => rfl
  case fmin => exact doesF_compute t.fits (execFmin g t nan d a b s) rfl rfl fun _ => rfl
  case fmax => exact doesF_compute t.fits (execFmax g t nan d a b s) rfl rfl fun _ => rfl
  case frnd => exact doesF_compute t.fits (execFrnd g t r x d a s) rfl rfl fun _ => rfl
  case fscale => exact doesF_compute t.fits (execFscale g t r d a b s) rfl rfl fun l => by rw [signed_rdSrc]
  case fabs => exact (doesF_compute t.fits (execFabs g t d a s) rfl rfl fun _ => rfl).does_of_flagless
  case fneg => exact does_fneg s w g t d a
  case fclass => exact does_compute_ofNat Ext.zx32_fits (execFclass g t d a s) rfl rfl fun _ => rfl
  case fmovi => exact fun imm => does_compute_ofNat t.fits (execFmovi g t d imm s) rfl rfl fun _ => rfl
  case fdot2 =>
    refine fun bf => doesF_compute Ext.zx32_fits (execFdot2 g bf r d a b c s) rfl rfl fun l => ?_
    dsimp only
    congr 1
    · apply rdPair_eq <;> exact fun _ => rfl
    · apply rdPair_eq <;> exact fun _ => rfl
  case fsetp => exact fun cd p q => ⟨fsetp_completes s w g t cd .none p a b, fsetp_completes s w g t cd (.and q) p a b, fsetp_completes s w g t cd (.or q) p a b⟩

end Sys2Proof
end
